-- ==== Sys2Proof/Word.lean ====
section
/-! DEFINITION. The word and the byte of the host bus (00_scope.md, "Sizes": a word is 32 bits, a byte is 8). -/

namespace Sys2Proof

/-- A word of the register window or of host memory. -/
abbrev Word := BitVec 32

/-- A byte of payload or of a line packet. -/
abbrev Byte := BitVec 8

end Sys2Proof
end

