-- ==== Sys2Proof/Config.lean ====
section
/-! DEFINITION. What is fixed for every 6240: the sizes of its tables, as the types of their indexes.
The spec leaves no value of any operation open, so there is no free value here (INVENTORY.md). -/

namespace Sys2Proof

/-- A point id, 0 to 63 (R1). -/
abbrev PointId := Fin 64

/-- A slot number, 0 to 255 (R26). -/
abbrev SlotId := Fin 256

/-- A packet buffer id, 0 to 7 (R130). -/
abbrev BufId := Fin 8

/-- An entry of the station table (R123): entry i is the station of address i + 1, so addresses run from 1 to 30. -/
abbrev StationId := Fin 30

/-- A place of the completion ring, 0 to 63 (R153). -/
abbrev RingIx := Fin 64

/-- A residue of the load table, 0 to 127 (R63). -/
abbrev Residue := Fin 128

end Sys2Proof
end

