-- ==== Sys2Proof/Syntax.lean ====
section
/-! DEFINITION. The commands the block takes: one constructor of `Instr` for each row of spec/opcode_table.json.
A command-port row has no operand: the command reads PARAM0 to PARAM3 as they stand (R187) and ignores bits 31-8 of the
word written to COMMAND (R188). -/

namespace Sys2Proof

/-- The two interrupt lines to the host (R175). -/
inductive IntLine where
  | attn
  | alarm
  deriving DecidableEq, Repr

/-- The registers of type R of Table 9-1, whose writes R184 reports. -/
inductive ReadOnlyReg where
  | id | result0 | result1 | result2
  | segmentStatus | eventPresented | eventGathered
  | completionStatus | completionView0 | completionView1 | completionView2
  | stationPresent | stationAlert | stationLost
  | pointHaltedLow | pointHaltedHigh
  | moverFaultAddress | moverFaultInfo | bufferStatus
  deriving DecidableEq, Repr

/-- The line in the four bit times of one census answer slot, in the order of time (R101). -/
structure SlotLevels where
  l0 : Bool
  l1 : Bool
  l2 : Bool
  l3 : Bool
  deriving DecidableEq, Repr

/-- The commands. Each constructor names the rule of its row. -/
inductive Instr where
  /-- Command 01h (R6). -/
  | configurePoint
  /-- Command 02h (R8). -/
  | enablePoint
  /-- Command 03h (R18). -/
  | disablePoint
  /-- Command 04h (R11). -/
  | pausePoint
  /-- Command 05h (R12). -/
  | continuePoint
  /-- Command 06h (R17). -/
  | clearPoint
  /-- Command 07h (R25). -/
  | inspectPoint
  /-- Command 10h (R38). -/
  | postExchange
  /-- Command 11h (R43). -/
  | cancelExchange
  /-- Command 12h (R50). -/
  | inspectSlot
  /-- Command 18h (R65). -/
  | inspectLoad
  /-- Command 20h (R122). -/
  | setSegmentParameters
  /-- Command 21h (R107). -/
  | startSegment
  /-- Command 22h (R111). -/
  | stopSegment
  /-- Command 23h (R110). -/
  | resetSegment
  /-- Command 24h (R112). -/
  | haltSegment
  /-- Command 25h (R116). -/
  | resumeSegment
  /-- Command 26h (R117). -/
  | suspendSegment
  /-- Command 27h (R120). -/
  | wakeSegment
  /-- Command 28h (R128). -/
  | clearStation
  /-- Command 30h (R150). -/
  | resumeMover
  /-- Command 5Ah (R195). -/
  | resetController
  /-- A command write whose code is not in Table 9-3 (R188). -/
  | unknownCommand (code : BitVec 8)
  /-- A word write to EVENT ACK (R172). -/
  | eventAck (word : Word)
  /-- A word write to COMPLETION RELEASE (R159). -/
  | completionRelease (count : Word)
  /-- A word write to EVENT QUIET (R167). -/
  | eventQuietWrite (word : Word)
  /-- A word write to ACCESS STATUS (R184). -/
  | accessStatusWrite (word : Word)
  /-- A word write to HOST CONFIG (R186). -/
  | hostConfigWrite (word : Word)
  /-- A word write to REPORT ENABLE (R165). -/
  | reportEnableWrite (word : Word)
  /-- A word write to HALT ENABLE (R165). -/
  | haltEnableWrite (word : Word)
  /-- A word write to ROUTE (R165, R177). -/
  | routeWrite (word : Word)
  /-- A word write to a parameter word, the registers with no behaviour of their own (R187). -/
  | registerWrite (param : Fin 4) (word : Word)
  /-- A word write to a register of type R (R184). -/
  | readOnlyWrite (reg : ReadOnlyReg) (word : Word)
  /-- A slave cycle that is not a word access (R181, R184): a read or a write, its offset and its byte enables. -/
  | undefinedOffset (isWrite : Bool) (offset : BitVec 7) (enables : BitVec 4)
  /-- Assertion of the RESET pin, or power-on (R197). -/
  | deviceReset
  /-- Elapsed time 64 (R57). -/
  | markEnd
  /-- Elapsed time L - 168 (R58). -/
  | censusStart
  /-- Elapsed time L (R55). -/
  | frameEnd
  /-- The end of one census answer slot (R124): whose slot it is and what the line showed in it (R101). -/
  | censusSlotEnd (station : StationId) (levels : SlotLevels)
  /-- The end of the SUSPEND MARK (R100). -/
  | suspendMarkEnd
  /-- The end of the 2,000 bt of reset signalling (R109). -/
  | resetSignallingEnd
  /-- The end of the 1,000 bt of wake signalling (R120). -/
  | wakeSignallingEnd
  /-- Bit times on the line while no packet is sent (R102, R119): the level of each, in the order of time; with none given,
  the 100 bt at 0 of the row. The wake pattern is reported in the one in which the hundredth bit time of a hold at 0 ends. -/
  | wakePattern (levels : List Bool := List.replicate 100 false)
  /-- The end of the REQUEST (R83). -/
  | requestEnd
  /-- The end of the DATA of a STORE transaction (R87). -/
  | storeDataEnd
  /-- The line falls, `delay` bt after the answer window opened (R82). -/
  | answerBegins (delay : Nat)
  /-- Reception of a well-formed FETCH DATA with k not above m ends (R81); the levels received, the first bit time of
  the answer first. -/
  | dataReceived (levels : List Bool)
  /-- The end of a transaction (R86). The levels received are read where the end is the end of a reception. -/
  | transactionEnd (levels : List Bool)
  /-- The host bus is granted to the mover (R143). -/
  | busGrant
  /-- The burst is answered completed (R144); a read burst of B beats returned the first B of the words. -/
  | burstCompleted (words : Vector Word 16)
  /-- The burst is answered retry (R144). -/
  | burstRetry
  /-- The burst is cut short after `beats` beats (R145); a read burst returned that many of the words. -/
  | burstCutShort (beats : Nat) (words : Vector Word 16)
  /-- The burst is answered error (R148). -/
  | burstError
  /-- The release interval of a line ends (R176). -/
  | releaseIntervalEnd (line : IntLine)
  /-- The RESET pin is released and the recovery time has passed (R197). -/
  | resetPinReleased
  deriving DecidableEq, Repr

end Sys2Proof
end

