-- ==== Sys2Proof/WellFormed.lean ====
section
/-! DEFINITION. Which operands a row of the table can carry. Every check that depends on the state is made where the
command is taken, not here. -/

namespace Sys2Proof

/-- The command codes of Table 9-3 (R188). -/
def commandCodes : List (BitVec 8) :=
  [0x01, 0x02, 0x03, 0x04, 0x05, 0x06, 0x07, 0x10, 0x11, 0x12, 0x18,
   0x20, 0x21, 0x22, 0x23, 0x24, 0x25, 0x26, 0x27, 0x28, 0x30, 0x5A]

/-- A slave cycle is a word access when its offset is a multiple of 4 and all four byte enables are asserted (R181). -/
def isWordAccess (offset : BitVec 7) (enables : BitVec 4) : Bool :=
  offset.toNat % 4 == 0 && enables == 0xF#4

/-- The operands belong to the row: an unknown code is not in Table 9-3, an access at an undefined offset is not a
word access (R181), an answer begins at most 255 bt after the window opens (the largest T of R122), and a burst of at
most 16 beats is cut short after 1 to 15 of them (R144). -/
def Instr.wellFormed : Instr → Bool
  | .unknownCommand code => !commandCodes.contains code
  | .undefinedOffset _ offset enables => !isWordAccess offset enables
  | .answerBegins delay => decide (delay ≤ 255)
  | .burstCutShort beats _ => decide (1 ≤ beats ∧ beats ≤ 15)
  | .configurePoint | .enablePoint | .disablePoint | .pausePoint | .continuePoint | .clearPoint | .inspectPoint
  | .postExchange | .cancelExchange | .inspectSlot | .inspectLoad | .setSegmentParameters | .startSegment
  | .stopSegment | .resetSegment | .haltSegment | .resumeSegment | .suspendSegment | .wakeSegment | .clearStation
  | .resumeMover | .resetController | .eventAck _ | .completionRelease _ | .eventQuietWrite _ | .accessStatusWrite _
  | .hostConfigWrite _ | .reportEnableWrite _ | .haltEnableWrite _ | .routeWrite _ | .registerWrite _ _
  | .readOnlyWrite _ _ | .deviceReset | .markEnd | .censusStart | .frameEnd | .censusSlotEnd _ _ | .suspendMarkEnd
  | .resetSignallingEnd | .wakeSignallingEnd | .wakePattern _ | .requestEnd | .storeDataEnd | .dataReceived _
  | .transactionEnd _ | .busGrant | .burstCompleted _ | .burstRetry | .burstError | .releaseIntervalEnd _
  | .resetPinReleased => true

end Sys2Proof
end

