-- ==== Sys2Proof/Decode.lean ====
section
/-! DEFINITION. From the outside to a command. No row of spec/opcode_table.json gives bits (each has "fields": []), so no
word spells a command by the table's bits. What the spec does encode is the register window: which row a slave write
cycle is, by its offset and byte enables (R181, Table 9-1) and, at COMMAND, by the code it carries (Table 9-3). -/

namespace Sys2Proof

/-- The command a word spells by the table's bits: no row of this table gives bits. -/
def decodeTableWord (_nbits _w : Nat) : Option Instr := none

/-- The command a code written to COMMAND asks for (Table 9-3); every other code is UNKNOWN_COMMAND (R188). -/
def commandOfCode (code : BitVec 8) : Instr :=
  match code.toNat with
  | 0x01 => .configurePoint
  | 0x02 => .enablePoint
  | 0x03 => .disablePoint
  | 0x04 => .pausePoint
  | 0x05 => .continuePoint
  | 0x06 => .clearPoint
  | 0x07 => .inspectPoint
  | 0x10 => .postExchange
  | 0x11 => .cancelExchange
  | 0x12 => .inspectSlot
  | 0x18 => .inspectLoad
  | 0x20 => .setSegmentParameters
  | 0x21 => .startSegment
  | 0x22 => .stopSegment
  | 0x23 => .resetSegment
  | 0x24 => .haltSegment
  | 0x25 => .resumeSegment
  | 0x26 => .suspendSegment
  | 0x27 => .wakeSegment
  | 0x28 => .clearStation
  | 0x30 => .resumeMover
  | 0x5A => .resetController
  | _ => .unknownCommand code

/-- A word write at a word offset of the window (Table 9-1). -/
def wordWrite (offset : BitVec 7) (word : Word) : Instr :=
  match offset.toNat / 4 with
  | 0 => .readOnlyWrite .id word
  | 1 => .hostConfigWrite word
  | 2 => commandOfCode (word.setWidth 8)
  | 3 => .registerWrite 0 word
  | 4 => .registerWrite 1 word
  | 5 => .registerWrite 2 word
  | 6 => .registerWrite 3 word
  | 7 => .readOnlyWrite .result0 word
  | 8 => .readOnlyWrite .result1 word
  | 9 => .readOnlyWrite .result2 word
  | 10 => .readOnlyWrite .segmentStatus word
  | 11 => .readOnlyWrite .eventPresented word
  | 12 => .readOnlyWrite .eventGathered word
  | 13 => .eventQuietWrite word
  | 14 => .eventAck word
  | 15 => .reportEnableWrite word
  | 16 => .haltEnableWrite word
  | 17 => .routeWrite word
  | 18 => .readOnlyWrite .completionStatus word
  | 19 => .readOnlyWrite .completionView0 word
  | 20 => .readOnlyWrite .completionView1 word
  | 21 => .readOnlyWrite .completionView2 word
  | 22 => .completionRelease word
  | 23 => .readOnlyWrite .stationPresent word
  | 24 => .readOnlyWrite .stationAlert word
  | 25 => .readOnlyWrite .stationLost word
  | 26 => .readOnlyWrite .pointHaltedLow word
  | 27 => .readOnlyWrite .pointHaltedHigh word
  | 28 => .readOnlyWrite .moverFaultAddress word
  | 29 => .readOnlyWrite .moverFaultInfo word
  | 30 => .accessStatusWrite word
  | _ => .readOnlyWrite .bufferStatus word

/-- The row of a slave write cycle (R181): a cycle that is not a word access is an access at an undefined offset. -/
def slaveWrite (offset : BitVec 7) (enables : BitVec 4) (word : Word) : Instr :=
  if isWordAccess offset enables then wordWrite offset word else .undefinedOffset true offset enables

/-- The row of a slave read cycle: a word read changes no state and has no row (R181). -/
def slaveRead (offset : BitVec 7) (enables : BitVec 4) : Option Instr :=
  if isWordAccess offset enables then none else some (.undefinedOffset false offset enables)

end Sys2Proof
end

