-- ==== Sys2Proof/Machine/State.lean ====
section
/-! DEFINITION. The state of the 6240, block by block as 00_scope.md ("Block overview") divides it, with the values after
reset, the reasons a step stops, and the queue of waiting commands. Plain data throughout. -/

namespace Sys2Proof.Machine

/-! ### PT: the point table (R1, R2) -/

/-- Point direction (00_scope.md): FETCH is station to host, STORE host to station. -/
inductive Direction where
  | fetch
  | store
  deriving DecidableEq, Repr

/-- Point kind (00_scope.md). -/
inductive Kind where
  | async
  | periodic
  deriving DecidableEq, Repr

/-- The four values of max payload (R1), in bytes. -/
inductive Payload where
  | b8
  | b16
  | b32
  | b64
  deriving DecidableEq, Repr

/-- The service states of a point (R2, R3). -/
inductive PointState where
  | disabled
  | ready
  | paused
  | halted
  | closing
  deriving DecidableEq, Repr

/-- Why a point is HALTED (R2). -/
inductive HaltCause where
  | refused
  | attempts
  | stationLost
  | stationDetached
  deriving DecidableEq, Repr

/-- The configuration fields of a point (R1). -/
structure PointConfig where
  station : StationId
  number : Fin 8
  direction : Direction
  kind : Kind
  maxPayload : Payload
  period : Nat
  phase : Nat
  attemptLimit : Nat
  deferInterval : Nat
  queueLimit : Nat
  deriving DecidableEq, Repr

/-- One point record (R1, R2). -/
structure Point where
  cfg : PointConfig
  state : PointState
  seq : Bool
  deferCount : Nat
  missCount : Nat
  haltCause : Option HaltCause
  staged : Option BufId
  deriving DecidableEq, Repr

/-- The Default column of R1. -/
def PointConfig.default : PointConfig :=
  { station := 0, number := 0, direction := .fetch, kind := .async, maxPayload := .b8, period := 1, phase := 0,
    attemptLimit := 3, deferInterval := 1, queueLimit := 16 }

/-- The Reset column of R2, with the defaults of R1. -/
def Point.reset : Point :=
  { cfg := PointConfig.default, state := .disabled, seq := false, deferCount := 0, missCount := 0, haltCause := none,
    staged := none }

/-- PT. -/
structure PointTable where
  points : Vector Point 64
  deriving DecidableEq, Repr

/-! ### SP: the slot pool (R26 to R30) -/

/-- Slot states (R28). -/
inductive SlotState where
  | free
  | queued
  | active
  | retiring
  deriving DecidableEq, Repr

/-- Final statuses (R27). -/
inductive Status where
  | done
  | short
  | refused
  | failedSilent
  | failedCheck
  | failedOverlength
  | cancelled
  | flushed
  | stationGone
  | lineReset
  | moverFault
  deriving DecidableEq, Repr

/-- One exchange record (R26). `next` is not stored: the point's queue gives it (log 24). -/
structure Slot where
  state : SlotState
  point : Option PointId
  tag : BitVec 16
  hostAddr : Word
  length : Nat
  notify : Bool
  shortOk : Bool
  bytesLine : Nat
  bytesMemory : Nat
  errors : Nat
  cancelRequested : Bool
  faultMark : Bool
  jobs : Nat
  status : Option Status
  deriving DecidableEq, Repr

/-- The "When FREE" column of R26. -/
def Slot.free : Slot :=
  { state := .free, point := none, tag := 0, hostAddr := 0, length := 0, notify := false, shortOk := false,
    bytesLine := 0, bytesMemory := 0, errors := 0, cancelRequested := false, faultMark := false, jobs := 0,
    status := none }

/-- SP: the records, the free list (head first, R29) and the queue of each point (first exchange first, R30). -/
structure SlotPool where
  slots : Vector Slot 256
  freeList : List SlotId
  queues : Vector (List SlotId) 64
  deriving DecidableEq, Repr

/-! ### FS: the frame scheduler (chapter 3) -/

/-- FS: the frame timer (R53), the frame number (R54), the periodic list and the load table (R61, R63), the due list
(R66), the async ring and its rotation pointer (R69, R70). -/
structure FrameScheduler where
  running : Bool
  elapsed : Nat
  frame : BitVec 12
  periodic : List PointId
  load : Vector Nat 128
  due : List PointId
  ring : List PointId
  pointer : Option PointId
  deriving DecidableEq, Repr

/-! ### LE: the line engine (R83, R84) -/

/-- Line engine states (R83). -/
inductive LineState where
  | off
  | signalling
  | marking
  | idle
  | requesting
  | sendingData
  | awaitReply
  | awaitAnswer
  | receiving
  | acknowledging
  | census
  deriving DecidableEq, Repr

/-- The current transaction record (R84); its phase is the line engine state (log 24). The last three fields are the
model's own (log 27): the elapsed time at which the REQUEST began, that at which an answer began, and the length and
sequence bit of the DATA that ACKNOWLEDGING acknowledges. -/
structure Txn where
  point : PointId
  slot : SlotId
  direction : Direction
  buffer : BufId
  seq : Bool
  requested : Nat
  began : Nat
  answerBegan : Option Nat
  received : Option (Nat × Bool)
  deriving DecidableEq, Repr

/-- LE. `slotsRead` counts the slots of the present census already reported (R101), `lineBits` the bit times of the
signalling or SUSPEND MARK under way, and `lowBits` those of a station's present hold of the line at 0, up to 100 (R102);
all three are the model's own (log 27). -/
structure LineEngine where
  state : LineState
  txn : Option Txn
  slotsRead : Nat
  lineBits : Nat
  lowBits : Nat
  deriving DecidableEq, Repr

/-! ### SC: segment control (R104, R122, R123) -/

/-- Segment states (R104). -/
inductive SegState where
  | down
  | resetting
  | running
  | halting
  | halted
  | suspending
  | suspended
  | waking
  deriving DecidableEq, Repr

/-- The waiting transition (R104, R110). -/
inductive Waiting where
  | none
  | reset
  | stop
  deriving DecidableEq, Repr

/-- Line bit rates (R122), in Mbit/s. -/
inductive BitRate where
  | m1
  | m2
  | m5
  | m10
  deriving DecidableEq, Repr

/-- The segment parameters (R122). -/
structure SegParams where
  frameLength : Nat
  replyTimeout : Nat
  detachCount : Nat
  silenceLimit : Nat
  autoWake : Bool
  bitRate : BitRate
  deriving DecidableEq, Repr

/-- The defaults of R122. -/
def SegParams.default : SegParams :=
  { frameLength := 4000, replyTimeout := 64, detachCount := 4, silenceLimit := 3, autoWake := false, bitRate := .m2 }

/-- Station presence (R123). -/
inductive Presence where
  | absent
  | present
  | lost
  deriving DecidableEq, Repr

/-- One entry of the station table (R123). -/
structure Station where
  presence : Presence
  silent : Nat
  streak : Nat
  alert : Bool
  clash : Bool
  answered : Bool
  deriving DecidableEq, Repr

/-- The Reset column of R123. -/
def Station.reset : Station :=
  { presence := .absent, silent := 0, streak := 0, alert := false, clash := false, answered := false }

/-- SC. -/
structure SegmentControl where
  state : SegState
  haltPending : Bool
  suspendDropped : Bool
  waiting : Waiting
  params : SegParams
  stations : Vector Station 30
  deriving DecidableEq, Repr

/-! ### BP: the buffer pool (R130, R135) -/

/-- Buffer states (R131). -/
inductive BufState where
  | free
  | staging
  | staged
  | receiving
  | draining
  deriving DecidableEq, Repr

/-- One buffer record (R130) with the 64 bytes it holds. -/
structure Buffer where
  state : BufState
  point : Option PointId
  slot : Option SlotId
  count : Nat
  addr : Option Word
  data : Vector Byte 64
  deriving DecidableEq, Repr

/-- The Reset column of R130; the contents are log 8's. -/
def Buffer.reset : Buffer :=
  { state := .free, point := none, slot := none, count := 0, addr := none, data := Vector.replicate 64 0 }

/-- BP. -/
structure BufferPool where
  buffers : Vector Buffer 8
  waitList : List PointId
  deriving DecidableEq, Repr

/-! ### PM: the payload mover (R138, R140, R142, R143, R147) -/

/-- Mover states (R143). -/
inductive MoverState where
  | idle
  | waitGrant
  | burst
  | faulted
  deriving DecidableEq, Repr

/-- Job kinds (R140). -/
inductive JobKind where
  | stage
  | drain
  deriving DecidableEq, Repr

/-- The current job (R140). -/
structure Job where
  kind : JobKind
  buffer : BufId
  slot : SlotId
  nextAddr : Word
  remaining : Nat
  moved : Nat
  retries : Nat
  deriving DecidableEq, Repr

/-- The burst the mover requests or presents (R142, R143): the address of its first beat, its beats, its bytes. -/
structure Burst where
  addr : Word
  beats : Nat
  bytes : Nat
  deriving DecidableEq, Repr

/-- Fault causes (R147). -/
inductive FaultCause where
  | retryExhausted
  | busError
  deriving DecidableEq, Repr

/-- The fault record (R147). -/
structure FaultRecord where
  kind : JobKind
  buffer : BufId
  slot : SlotId
  addr : Word
  cause : FaultCause
  deriving DecidableEq, Repr

/-- PM. -/
structure Mover where
  state : MoverState
  drainQueue : List BufId
  stageQueue : List BufId
  job : Option Job
  burst : Option Burst
  faultRecord : Option FaultRecord
  deriving DecidableEq, Repr

/-! ### CU: the completion unit (R153, R154, R156) -/

/-- A completion record (R154). -/
structure Record where
  tag : BitVec 16
  slot : SlotId
  point : PointId
  status : Status
  bytesDone : Nat
  errors : Nat
  frame : BitVec 12
  deriving DecidableEq, Repr

/-- The contents of a place nothing has been posted to (log 7); no view shows it. -/
def Record.blank : Record :=
  { tag := 0, slot := 0, point := 0, status := .done, bytesDone := 0, errors := 0, frame := 0 }

/-- CU. -/
structure CompletionUnit where
  ring : Vector Record 64
  head : RingIx
  tail : RingIx
  count : Nat
  held : List PointId
  deriving DecidableEq, Repr

/-! ### EU: the event unit (chapter 8) -/

/-- The 15 event causes of R164, in the order of their numbers. -/
inductive Cause where
  | segmentChanged
  | frameTick
  | stationAttached
  | stationDetached
  | stationLost
  | stationAlert
  | addressClash
  | stationWake
  | pointHalted
  | periodicMiss
  | pointClosed
  | completionPosted
  | completionBacklog
  | moverFault
  | accessFault
  deriving DecidableEq, Repr

/-- What an interrupt line is doing (R175, R176). -/
inductive IrqState where
  | released
  | asserted
  /-- Released, in a release interval (R176). -/
  | interval
  deriving DecidableEq, Repr

/-- EU. A set of causes is a word with bit c for cause c, as the host reads it (Table 9-2). `haltRequest` is the model's
own (log 18): a halt request sent in the present happening that SC has not yet taken (R115). -/
structure EventUnit where
  reportEnable : BitVec 15
  haltEnable : BitVec 15
  route : BitVec 15
  presented : BitVec 15
  gathered : BitVec 15
  quiet : BitVec 15
  number : BitVec 8
  attn : IrqState
  alarm : IrqState
  haltRequest : Bool
  deriving DecidableEq, Repr

/-! ### HW: the host window and command port (chapter 9) -/

/-- HOST CONFIG (R186). -/
structure HostConfig where
  maxBurst : BitVec 2
  retryLimit : BitVec 6
  attnEnable : Bool
  alarmEnable : Bool
  pushPull : Bool
  deriving DecidableEq, Repr

/-- HOST CONFIG after device reset, 00000F03h (R186). -/
def HostConfig.default : HostConfig :=
  { maxBurst := 3, retryLimit := 15, attnEnable := false, alarmEnable := false, pushPull := false }

/-- ACCESS STATUS (R184). -/
structure AccessStatus where
  undefinedOffset : Bool
  readOnlyWrite : Bool
  staleAck : Bool
  releaseExcess : Bool
  resetPending : Bool
  deriving DecidableEq, Repr

/-- ACCESS STATUS after a reset (R184). -/
def AccessStatus.clear : AccessStatus :=
  { undefinedOffset := false, readOnlyWrite := false, staleAck := false, releaseExcess := false, resetPending := false }

/-- HW. `resetPin` is yes from the assertion of the RESET pin until the 6240 answers slave cycles again (R197). -/
structure HostWindow where
  config : HostConfig
  params : Vector Word 4
  result0 : Word
  result1 : Word
  result2 : Word
  lastCode : BitVec 8
  seqNumber : BitVec 16
  access : AccessStatus
  resetPin : Bool
  deriving DecidableEq, Repr

/-! ### The whole machine -/

/-- The state of the 6240 and the queue of commands waiting for it. -/
structure State where
  pt : PointTable
  sp : SlotPool
  fs : FrameScheduler
  le : LineEngine
  sc : SegmentControl
  bp : BufferPool
  pm : Mover
  cu : CompletionUnit
  eu : EventUnit
  hw : HostWindow
  pending : List Instr
  deriving DecidableEq, Repr

/-- The reasons a step stops with a fault. -/
inductive Fault where
  /-- Raised by the happenings of the line engine and the mover in a state no run reaches: a transaction state with no
  current transaction record (R84), or a mover in BURST with no current job or burst (R140, R143). Safe (log 28). -/
  | brokenState
  deriving DecidableEq, Repr

/-- The reasons a command is refused. -/
inductive Refusal where
  /-- Raised by `exec` for a command that has no meaning yet; no arm uses it. Safe. -/
  | notModelled (mnemonic : String)
  /-- Raised where the operands do not belong to the row: UNKNOWN_COMMAND with a code of Table 9-3, UNDEFINED_OFFSET
  with a word access. Safe (log 3). -/
  | illFormed
  /-- Raised where the happening cannot arise in the present state, so that the spec gives it no effect: a bus grant
  with no request, a frame end outside the census, an answer past the reply timeout. Safe (log 3). -/
  | notDue
  deriving DecidableEq, Repr

/-- PT after reset (R2). -/
def PointTable.reset : PointTable := { points := Vector.replicate 64 Point.reset }

/-- SP after reset (R29, R51). -/
def SlotPool.reset : SlotPool :=
  { slots := Vector.replicate 256 Slot.free, freeList := List.finRange 256, queues := Vector.replicate 64 [] }

/-- FS after reset (R53, R54, R61, R63, R66, R69, R70). -/
def FrameScheduler.reset : FrameScheduler :=
  { running := false, elapsed := 0, frame := 0, periodic := [], load := Vector.replicate 128 0, due := [], ring := [],
    pointer := none }

/-- LE after reset (R103). -/
def LineEngine.reset : LineEngine := { state := .off, txn := none, slotsRead := 0, lineBits := 0, lowBits := 0 }

/-- SC after reset (R104, R122, R123). -/
def SegmentControl.reset : SegmentControl :=
  { state := .down, haltPending := false, suspendDropped := false, waiting := .none, params := SegParams.default,
    stations := Vector.replicate 30 Station.reset }

/-- BP after reset (R130, R135). -/
def BufferPool.reset : BufferPool := { buffers := Vector.replicate 8 Buffer.reset, waitList := [] }

/-- PM after reset (R138, R152). -/
def Mover.reset : Mover :=
  { state := .idle, drainQueue := [], stageQueue := [], job := none, burst := none, faultRecord := none }

/-- CU after reset (R163). -/
def CompletionUnit.reset : CompletionUnit :=
  { ring := Vector.replicate 64 Record.blank, head := 0, tail := 0, count := 0, held := [] }

/-- EU after reset (R179, Table 9-1). -/
def EventUnit.reset : EventUnit :=
  { reportEnable := 0x7FFD, haltEnable := 0x2000, route := 0x2358, presented := 0, gathered := 0, quiet := 0,
    number := 0, attn := .released, alarm := .released, haltRequest := false }

/-- HW after device reset (Table 9-1), answering slave cycles. -/
def HostWindow.reset : HostWindow :=
  { config := HostConfig.default, params := Vector.replicate 4 0, result0 := 0, result1 := 0, result2 := 0,
    lastCode := 0, seqNumber := 0, access := AccessStatus.clear, resetPin := false }

/-- The machine right after device reset and its recovery time (R197), no command waiting. -/
def State.reset : State :=
  { pt := PointTable.reset, sp := SlotPool.reset, fs := FrameScheduler.reset, le := LineEngine.reset,
    sc := SegmentControl.reset, bp := BufferPool.reset, pm := Mover.reset, cu := CompletionUnit.reset,
    eu := EventUnit.reset, hw := HostWindow.reset, pending := [] }

end Sys2Proof.Machine
end

