-- ==== Sys2Proof/Machine/Codes.lean ====
section
/-! DEFINITION. The codes and numbers the spec gives to the values of the state: what software or a station sees of them. -/

namespace Sys2Proof.Machine

/-- Max payload in bytes (R1). -/
def Payload.bytes : Payload → Nat
  | .b8 => 8
  | .b16 => 16
  | .b32 => 32
  | .b64 => 64

/-- The max payload a number of bytes names, where it is legal (R6 check 3). -/
def Payload.ofBytes? : Nat → Option Payload
  | 8 => some .b8
  | 16 => some .b16
  | 32 => some .b32
  | 64 => some .b64
  | _ => none

/-- The address of a station table entry, 1 to 30 (R123). -/
def stationAddress (i : StationId) : Nat := i.val + 1

/-- The entry of a station address, where the address is in 1 to 30 (R6, R128). -/
def stationOfAddress? (a : Nat) : Option StationId :=
  if h : 1 ≤ a ∧ a ≤ 30 then some ⟨a - 1, by omega⟩ else none

/-- Point states as INSPECT POINT codes them (R190). -/
def PointState.code : PointState → Nat
  | .disabled => 0
  | .ready => 1
  | .paused => 2
  | .halted => 3
  | .closing => 4

/-- Halt causes as INSPECT POINT codes them (R190). -/
def haltCauseCode : Option HaltCause → Nat
  | none => 0
  | some .refused => 1
  | some .attempts => 2
  | some .stationLost => 3
  | some .stationDetached => 4

/-- Slot states as R191 codes them. -/
def SlotState.code : SlotState → Nat
  | .free => 0
  | .queued => 1
  | .active => 2
  | .retiring => 3

/-- Status codes (Table 7-2). -/
def Status.code : Status → Nat
  | .done => 0x0
  | .short => 0x1
  | .refused => 0x2
  | .failedSilent => 0x3
  | .failedCheck => 0x4
  | .failedOverlength => 0x5
  | .cancelled => 0x6
  | .flushed => 0x7
  | .stationGone => 0x8
  | .lineReset => 0x9
  | .moverFault => 0xA

/-- The column "Posted even without notify" of R27. -/
def Status.alwaysPosted : Status → Bool
  | .done => false
  | .cancelled => false
  | .flushed => false
  | .short => true
  | .refused => true
  | .failedSilent => true
  | .failedCheck => true
  | .failedOverlength => true
  | .stationGone => true
  | .lineReset => true
  | .moverFault => true

/-- Segment states as SEGMENT STATUS codes them (Table 9-2). -/
def SegState.code : SegState → Nat
  | .down => 0
  | .resetting => 1
  | .running => 2
  | .halting => 3
  | .halted => 4
  | .suspending => 5
  | .suspended => 6
  | .waking => 7

/-- Mover states as SEGMENT STATUS codes them (Table 9-2). -/
def MoverState.code : MoverState → Nat
  | .idle => 0
  | .waitGrant => 1
  | .burst => 2
  | .faulted => 3

/-- Buffer states as BUFFER STATUS codes them (Table 9-2). -/
def BufState.code : BufState → Nat
  | .free => 0
  | .staging => 1
  | .staged => 2
  | .receiving => 3
  | .draining => 4

/-- Presence as CLEAR STATION codes it (R194). -/
def Presence.code : Presence → Nat
  | .absent => 0
  | .present => 1
  | .lost => 2

/-- Job kinds as MOVER FAULT INFO codes them (Table 9-2). -/
def JobKind.code : JobKind → Nat
  | .stage => 0
  | .drain => 1

/-- Fault causes as MOVER FAULT INFO codes them (Table 9-2). -/
def FaultCause.code : FaultCause → Nat
  | .retryExhausted => 0
  | .busError => 1

/-- Bit rates as SET SEGMENT PARAMETERS codes them (R193). -/
def BitRate.code : BitRate → Nat
  | .m1 => 0
  | .m2 => 1
  | .m5 => 2
  | .m10 => 3

/-- The bit rate of a two-bit field (R193). -/
def BitRate.ofCode (n : Nat) : BitRate :=
  match n % 4 with
  | 0 => .m1
  | 1 => .m2
  | 2 => .m5
  | _ => .m10

/-- The number of a cause (R164). -/
def Cause.num : Cause → Nat
  | .segmentChanged => 0
  | .frameTick => 1
  | .stationAttached => 2
  | .stationDetached => 3
  | .stationLost => 4
  | .stationAlert => 5
  | .addressClash => 6
  | .stationWake => 7
  | .pointHalted => 8
  | .periodicMiss => 9
  | .pointClosed => 10
  | .completionPosted => 11
  | .completionBacklog => 12
  | .moverFault => 13
  | .accessFault => 14

/-- The halting classes of R164. -/
inductive HaltClass where
  | notHalting
  | configurable
  | alwaysHalting
  deriving DecidableEq, Repr

/-- The halting class of a cause (R164). -/
def Cause.haltClass : Cause → HaltClass
  | .stationDetached => .configurable
  | .stationLost => .configurable
  | .addressClash => .configurable
  | .pointHalted => .configurable
  | .periodicMiss => .configurable
  | .moverFault => .alwaysHalting
  | .segmentChanged => .notHalting
  | .frameTick => .notHalting
  | .stationAttached => .notHalting
  | .stationAlert => .notHalting
  | .stationWake => .notHalting
  | .pointClosed => .notHalting
  | .completionPosted => .notHalting
  | .completionBacklog => .notHalting
  | .accessFault => .notHalting

/-- Result codes (Table 9-4). -/
inductive ResultCode where
  | ok
  | accepted
  | removed
  | pending
  | notQueued
  | alreadyEnding
  | closed
  | closing
  | unknownCommand
  | unknownPoint
  | badPointState
  | badParameter
  | badLength
  | queueFull
  | poolEmpty
  | bindingInUse
  | periodicFull
  | overcommit
  | wrongSegmentState
  | periodicActive
  | moverFaulted
  | notFaulted
  deriving DecidableEq, Repr

/-- The code of a result (Table 9-4). -/
def ResultCode.code : ResultCode → Nat
  | .ok => 0x00
  | .accepted => 0x01
  | .removed => 0x02
  | .pending => 0x03
  | .notQueued => 0x04
  | .alreadyEnding => 0x05
  | .closed => 0x06
  | .closing => 0x07
  | .unknownCommand => 0x10
  | .unknownPoint => 0x11
  | .badPointState => 0x12
  | .badParameter => 0x13
  | .badLength => 0x14
  | .queueFull => 0x15
  | .poolEmpty => 0x16
  | .bindingInUse => 0x17
  | .periodicFull => 0x18
  | .overcommit => 0x19
  | .wrongSegmentState => 0x1A
  | .periodicActive => 0x1B
  | .moverFaulted => 0x1C
  | .notFaulted => 0x1D

/-- Max burst in words (R186). -/
def HostConfig.maxWords (c : HostConfig) : Nat :=
  match c.maxBurst.toNat with
  | 0 => 1
  | 1 => 4
  | 2 => 8
  | _ => 16

/-- The bus retry limit: the field v gives a limit of v + 1 (R186). -/
def HostConfig.busRetryLimit (c : HostConfig) : Nat := c.retryLimit.toNat + 1

/-- The enable of a line (R186). -/
def HostConfig.lineEnable (c : HostConfig) : IntLine → Bool
  | .attn => c.attnEnable
  | .alarm => c.alarmEnable

end Sys2Proof.Machine
end

