-- ==== Sys2Proof/Machine/Operands.lean ====
section
/-! DEFINITION. Reading the fields of a parameter word and building the result words: the layouts of R190 to R194 are
written with these helpers. -/

namespace Sys2Proof.Machine

/-- The bits `lo + len - 1` down to `lo` of a word, as a number. -/
def field (w : Word) (lo len : Nat) : Nat := (w.toNat / 2 ^ lo) % 2 ^ len

/-- Bit `i` of a word. -/
def bitAt (w : Word) (i : Nat) : Bool := w.getLsbD i

/-- A number placed at bit `lo` of a word. -/
def place (n lo : Nat) : Word := BitVec.ofNat 32 (n * 2 ^ lo)

/-- A flag placed at bit `lo` of a word. -/
def placeBit (b : Bool) (lo : Nat) : Word := place b.toNat lo

/-- A slot number or none in eight bits with a present bit above it (R190, R192). -/
def placeSlot (x : Option SlotId) (lo present : Nat) : Word :=
  match x with
  | some y => place y.val lo ||| place 1 present
  | none => 0

/-- PARAM0 to PARAM3 (R187). -/
def State.param (s : State) (i : Fin 4) : Word := s.hw.params[i]

/-- The outcome of a command: its result code, its result value and its two result words (R189). -/
structure Reply where
  code : ResultCode
  value : Nat
  r1 : Word
  r2 : Word
  deriving DecidableEq, Repr

/-- A refusal writes value 0 and two words of 0 (R189). -/
def Reply.refusal (c : ResultCode) : Reply := { code := c, value := 0, r1 := 0, r2 := 0 }

/-- A result with nothing further to say: value 0 and two words of 0 (section 9.7). -/
def Reply.plain (c : ResultCode) : Reply := { code := c, value := 0, r1 := 0, r2 := 0 }

/-- The point id of PARAM0 bits 7-0, where it is at most 63 (R5, R190). -/
def pointOperand (s : State) : Option PointId :=
  let n := field (s.param 0) 0 8
  if h : n < 64 then some ⟨n, h⟩ else none

/-- The slot number of PARAM0 bits 15-0, where it is at most 255 (R191). -/
def slotOperand (s : State) : Option SlotId :=
  let n := field (s.param 0) 0 16
  if h : n < 256 then some ⟨n, h⟩ else none

/-- The residue of PARAM0 bits 7-0, where it is at most 127 (R193). -/
def residueOperand (s : State) : Option Residue :=
  let n := field (s.param 0) 0 8
  if h : n < 128 then some ⟨n, h⟩ else none

/-- The station of PARAM0 bits 7-0, where its address is 1 to 30 (R194). -/
def stationOperand (s : State) : Option StationId := stationOfAddress? (field (s.param 0) 0 8)

/-- The periods a PERIODIC point may have (R6 check 6). -/
def legalPeriod (p : Nat) : Bool := [1, 2, 4, 8, 16, 32, 64, 128].contains p

/-- The configuration that CONFIGURE POINT carries in PARAM1 to PARAM3 (R190), where every check of R6 passes; the
fields that do not apply to the kind take their defaults (R7). -/
def configOperand (s : State) : Option PointConfig :=
  let p1 := s.param 1
  let p2 := s.param 2
  let number := field p1 8 4
  let kind : Kind := if bitAt p1 13 then .periodic else .async
  let period := field p2 0 8
  let phase := field p2 8 8
  let attempts := field p2 16 4
  let defer := field p2 24 5
  let limit := field (s.param 3) 0 8
  match stationOfAddress? (field p1 0 8), Payload.ofBytes? (field p1 16 8) with
  | some station, some payload =>
    if hn : number < 8 then
      if 1 ≤ attempts ∧ attempts ≤ 15 ∧ 1 ≤ limit ∧ limit ≤ 64 then
        let cfg : PointConfig :=
          { station := station, number := ⟨number, hn⟩, direction := if bitAt p1 12 then .store else .fetch,
            kind := kind, maxPayload := payload, period := 1, phase := 0, attemptLimit := attempts,
            deferInterval := 1, queueLimit := limit }
        match kind with
        | .periodic =>
          if legalPeriod period && decide (phase < period) then some { cfg with period := period, phase := phase }
          else none
        | .async => if defer ≤ 15 then some { cfg with deferInterval := defer } else none
      else none
    else none
  | _, _ => none

/-- The segment parameters that SET SEGMENT PARAMETERS carries in PARAM0 and PARAM1 (R193). -/
def paramsOperand (s : State) : SegParams :=
  let p0 := s.param 0
  let p1 := s.param 1
  { frameLength := field p0 0 16, replyTimeout := field p0 16 8, detachCount := field p0 24 4,
    silenceLimit := field p0 28 4, autoWake := bitAt p1 0, bitRate := BitRate.ofCode (field p1 4 2) }

/-- Every value lies in its range (R122). -/
def SegParams.inRange (q : SegParams) : Bool :=
  decide (1280 ≤ q.frameLength ∧ q.frameLength ≤ 65535 ∧ 16 ≤ q.replyTimeout ∧ q.replyTimeout ≤ 255 ∧
    1 ≤ q.detachCount ∧ q.detachCount ≤ 15 ∧ 1 ≤ q.silenceLimit ∧ q.silenceLimit ≤ 15)

/-- The first parameter word, as SET SEGMENT PARAMETERS reads and returns it (R193). -/
def SegParams.word0 (q : SegParams) : Word :=
  place q.frameLength 0 ||| place q.replyTimeout 16 ||| place q.detachCount 24 ||| place q.silenceLimit 28

/-- The second parameter word (R193). -/
def SegParams.word1 (q : SegParams) : Word := placeBit q.autoWake 0 ||| place q.bitRate.code 4

end Sys2Proof.Machine
end

