-- ==== Sys2Proof/Machine/Flags.lean ====
section
/-! DEFINITION. The flags of the block: the event unit's sets, its lines and its acknowledgment (chapter 8), and the
ACCESS STATUS flags (R184). -/

namespace Sys2Proof.Machine

/-! ### Sets of causes -/

/-- The set that holds one cause (Table 9-2: bit c for cause c). -/
def Cause.bit (c : Cause) : BitVec 15 := BitVec.twoPow 15 c.num

/-- A cause is in a set. -/
def inSet (set : BitVec 15) (c : Cause) : Bool := set.getLsbD c.num

/-- The causes whose halt enable a write may change (R165): STATION_DETACHED, STATION_LOST, ADDRESS_CLASH,
POINT_HALTED and PERIODIC_MISS. -/
def haltWritable : BitVec 15 := 0x0358

/-- The halt enables that read as on whatever is written (R165): MOVER_FAULT. -/
def haltFixed : BitVec 15 := 0x2000

/-- The causes whose report enable a write may change (R165): all but MOVER_FAULT. -/
def reportWritable : BitVec 15 := 0x5FFF

/-- The report enables that read as on whatever is written (R165): MOVER_FAULT. -/
def reportFixed : BitVec 15 := 0x2000

/-! ### Classifying an occurrence (R166) -/

/-- An occurrence of the cause is halting under the configuration (R166). -/
def EventUnit.halting (e : EventUnit) (c : Cause) : Bool :=
  match c.haltClass with
  | .alwaysHalting => true
  | .configurable => inSet e.haltEnable c
  | .notHalting => false

/-- An occurrence of the cause is effective under the configuration (R166). -/
def EventUnit.effective (e : EventUnit) (c : Cause) : Bool := inSet e.reportEnable c || e.halting c

/-! ### The interrupt lines (R175 to R177) -/

/-- What a line is doing. -/
def EventUnit.line (e : EventUnit) : IntLine → IrqState
  | .attn => e.attn
  | .alarm => e.alarm

/-- The presented causes routed to a line (R165: a route bit of 1 is ALARM). -/
def EventUnit.presentedOn (e : EventUnit) : IntLine → BitVec 15
  | .attn => e.presented &&& ~~~ e.route
  | .alarm => e.presented &&& e.route

/-- A line is due (R175). -/
def EventUnit.lineDue (e : EventUnit) (cfg : HostConfig) (l : IntLine) : Bool :=
  decide (e.presentedOn l ≠ 0) && cfg.lineEnable l

/-- Evaluating a line outside an acknowledgment (R175, R177): a line in a release interval stays there. -/
def IrqState.evaluate (due : Bool) : IrqState → IrqState
  | .interval => .interval
  | .released => if due then .asserted else .released
  | .asserted => if due then .asserted else .released

/-- A line at a valid acknowledgment (the table of R176). -/
def IrqState.acknowledge (due : Bool) : IrqState → IrqState
  | .interval => .interval
  | .released => if due then .asserted else .released
  | .asserted => if due then .interval else .released

/-- A line at the end of its release interval (R176). -/
def IrqState.intervalEnd (due : Bool) : IrqState := if due then .asserted else .released

/-- Both lines re-evaluated with no release interval (R177). -/
def EventUnit.evaluateLines (e : EventUnit) (cfg : HostConfig) : EventUnit :=
  { e with attn := e.attn.evaluate (e.lineDue cfg .attn), alarm := e.alarm.evaluate (e.lineDue cfg .alarm) }

/-- Both lines re-evaluated with release and re-drive (R176). -/
def EventUnit.redriveLines (e : EventUnit) (cfg : HostConfig) : EventUnit :=
  { e with attn := e.attn.acknowledge (e.lineDue cfg .attn), alarm := e.alarm.acknowledge (e.lineDue cfg .alarm) }

/-! ### Taking an occurrence (R166 to R169, R171) -/

/-- An effective occurrence: it starts a presentation (R168) or gathers (R169). -/
def EventUnit.present (e : EventUnit) (cfg : HostConfig) (c : Cause) : EventUnit :=
  if e.presented = 0 then
    { e with presented := c.bit, number := e.number + 1 }.evaluateLines cfg
  else { e with gathered := e.gathered ||| c.bit }

/-- EU takes one occurrence of a cause. A halting one leaves a halt request for SC (R171), which SC takes after the
effects of the happening (R115, log 18). -/
def EventUnit.take (e : EventUnit) (cfg : HostConfig) (c : Cause) : EventUnit :=
  if e.effective c then
    let e' := e.present cfg c
    if e.halting c then { e' with haltRequest := true } else e'
  else { e with quiet := e.quiet ||| c.bit }

/-- Raise a cause. -/
def raise (c : Cause) (s : State) : State := { s with eu := s.eu.take s.hw.config c }

/-! ### Acknowledgment (R172, R173) -/

/-- The acknowledgment carrying `n` is valid (R172). -/
def EventUnit.ackValid (e : EventUnit) (n : BitVec 8) : Bool := decide (e.presented ≠ 0) && decide (n = e.number)

/-- The effect of a valid acknowledgment (R172): the gathered set, if any, becomes the presented set. -/
def EventUnit.acknowledge (e : EventUnit) (cfg : HostConfig) : EventUnit :=
  (if e.gathered = 0 then { e with presented := 0 }
   else { e with presented := e.gathered, number := e.number + 1, gathered := 0 }).redriveLines cfg

/-! ### ACCESS STATUS (R184) -/

/-- Set a flag of ACCESS STATUS. -/
def setAccess (f : AccessStatus → AccessStatus) (s : State) : State :=
  { s with hw := { s.hw with access := f s.hw.access } }

/-- The write to ACCESS STATUS clears each of the four fault flags whose bit is 1; RESET_PENDING stays (R184). -/
def AccessStatus.clearBits (a : AccessStatus) (w : Word) : AccessStatus :=
  { a with
    undefinedOffset := a.undefinedOffset && !bitAt w 0
    readOnlyWrite := a.readOnlyWrite && !bitAt w 1
    staleAck := a.staleAck && !bitAt w 2
    releaseExcess := a.releaseExcess && !bitAt w 3 }

end Sys2Proof.Machine
end

