-- ==== Sys2Proof/Machine/Ops.lean ====
section
/-! DEFINITION. The named operations over the records of the state: reading and writing one record, counting and freeing
buffers, and ending an exchange and completing its retirement (R40 to R42, R133, R155, R156). -/

namespace Sys2Proof.Machine

/-! ### One record of a table -/

namespace State

/-- A point record. -/
def point (s : State) (p : PointId) : Point := s.pt.points[p]

/-- Write a point record. -/
def setPoint (s : State) (p : PointId) (x : Point) : State := { s with pt := { points := s.pt.points.set p x } }

/-- Change a point record. -/
def modPoint (s : State) (p : PointId) (f : Point → Point) : State := s.setPoint p (f (s.point p))

/-- An exchange record. -/
def slot (s : State) (x : SlotId) : Slot := s.sp.slots[x]

/-- Write an exchange record. -/
def setSlot (s : State) (x : SlotId) (e : Slot) : State := { s with sp := { s.sp with slots := s.sp.slots.set x e } }

/-- Change an exchange record. -/
def modSlot (s : State) (x : SlotId) (f : Slot → Slot) : State := s.setSlot x (f (s.slot x))

/-- The queue of a point, first exchange first (R30). -/
def queue (s : State) (p : PointId) : List SlotId := s.sp.queues[p]

/-- Write the queue of a point. -/
def setQueue (s : State) (p : PointId) (q : List SlotId) : State :=
  { s with sp := { s.sp with queues := s.sp.queues.set p q } }

/-- The first exchange of a point's queue. -/
def first (s : State) (p : PointId) : Option SlotId := (s.queue p).head?

/-- A buffer record. -/
def buffer (s : State) (b : BufId) : Buffer := s.bp.buffers[b]

/-- Write a buffer record. -/
def setBuffer (s : State) (b : BufId) (x : Buffer) : State :=
  { s with bp := { s.bp with buffers := s.bp.buffers.set b x } }

/-- Change a buffer record. -/
def modBuffer (s : State) (b : BufId) (f : Buffer → Buffer) : State := s.setBuffer b (f (s.buffer b))

/-- A station table entry. -/
def station (s : State) (i : StationId) : Station := s.sc.stations[i]

/-- Write a station table entry. -/
def setStation (s : State) (i : StationId) (x : Station) : State :=
  { s with sc := { s.sc with stations := s.sc.stations.set i x } }

/-- Change a station table entry. -/
def modStation (s : State) (i : StationId) (f : Station → Station) : State := s.setStation i (f (s.station i))

/-- Enter a segment state, with nothing else changed. -/
def setSeg (s : State) (g : SegState) : State := { s with sc := { s.sc with state := g } }

/-- Enter a line engine state, with nothing else changed. -/
def setLine (s : State) (l : LineState) : State := { s with le := { s.le with state := l } }

/-- Move the frame timer to an elapsed time. -/
def setElapsed (s : State) (t : Nat) : State := { s with fs := { s.fs with elapsed := t } }

end State

/-- Change every entry of a table. -/
def mapTable {α : Type} {n : Nat} (f : α → α) (v : Vector α n) : Vector α n :=
  ⟨⟨v.toList.map f⟩, by simp⟩

/-- Bytes written into a buffer from byte `start` on; what falls outside its 64 bytes is dropped. -/
def writeBytes (d : Vector Byte 64) (start : Nat) (bytes : List Byte) : Vector Byte 64 :=
  bytes.zipIdx.foldl (fun v x => v.setIfInBounds (start + x.2) x.1) d

/-! ### What the records say together -/

/-- The exchange is the one of the transaction in flight (R50, R84). -/
def inFlight (s : State) (x : SlotId) : Bool :=
  match s.le.txn with
  | some t => decide (t.slot = x)
  | none => false

/-- A transaction is in flight (R83). -/
def txnInFlight (s : State) : Bool := s.le.txn.isSome

/-- The exchange after `x` in a list of slots. -/
def slotAfter : List SlotId → SlotId → Option SlotId
  | [], _ => none
  | y :: ys, x => if y = x then ys.head? else slotAfter ys x

/-- `next` of an exchange record (R26): the following exchange in its point's queue (log 24). -/
def nextSlot (s : State) (x : SlotId) : Option SlotId :=
  match (s.slot x).point with
  | some p => slotAfter (s.queue p) x
  | none => none

/-- The exchange is held: it is the first of a point on the held list (R50, R156). -/
def isHeld (s : State) (x : SlotId) : Bool :=
  match (s.slot x).point with
  | some p => decide (p ∈ s.cu.held) && decide (s.first p = some x)
  | none => false

/-- The FREE buffer with the lowest id, if any (R132). -/
def lowestFree (s : State) : Option BufId := (List.finRange 8).find? fun b => decide ((s.buffer b).state = .free)

/-- The staging count: the buffers in STAGING and STAGED (R131). -/
def stagingCount (s : State) : Nat :=
  ((List.finRange 8).filter fun b =>
    decide ((s.buffer b).state = .staging) || decide ((s.buffer b).state = .staged)).length

/-- The buffer is STAGED and belongs to the exchange. -/
def stagedFor (s : State) (x : SlotId) (b : BufId) : Bool :=
  decide ((s.buffer b).state = .staged) && decide ((s.buffer b).slot = some x)

/-- The STAGED buffer of an exchange, if it has one (R24). -/
def stagedBuffer (s : State) (x : SlotId) : Option BufId :=
  match (s.slot x).point with
  | some p =>
    match (s.point p).staged with
    | some b => if stagedFor s x b then some b else none
    | none => none
  | none => none

/-- The point is CLOSING. -/
def isClosing (s : State) (p : Option PointId) : Bool :=
  match p with
  | some p => decide ((s.point p).state = .closing)
  | none => false

/-! ### Freeing a buffer (R133, steps 1 to 3) -/

/-- The buffer becomes FREE: its fields take their FREE values, its exchange has one job fewer, and it is no longer its
point's staged buffer. The bytes in it stay (log 8). -/
def freeBuffer (b : BufId) (s : State) : State :=
  let old := s.buffer b
  let s1 := s.setBuffer b { Buffer.reset with data := old.data }
  let s2 := match old.slot with
    | some x => s1.modSlot x fun e => { e with jobs := e.jobs - 1 }
    | none => s1
  match old.point with
  | some p => if (s2.point p).staged = some b then s2.modPoint p fun q => { q with staged := none } else s2
  | none => s2

/-- Free the STAGED buffer of an exchange, if it has one (R40). -/
def freeStaged (x : SlotId) (s : State) : State :=
  match stagedBuffer s x with
  | some b => freeBuffer b s
  | none => s

/-! ### Ending an exchange (R40) -/

/-- The exchange enters RETIRING with a final status, and its STAGED buffer is freed. -/
def endWith (x : SlotId) (st : Status) (s : State) : State :=
  freeStaged x (s.modSlot x fun e => { e with state := .retiring, status := some st })

/-- The status of an exchange ended by a cancel: FLUSHED when its point is CLOSING, else CANCELLED (R40). -/
def cancelStatus (s : State) (x : SlotId) : Status :=
  if isClosing s (s.slot x).point then .flushed else .cancelled

/-- The status an ending cause gives: a pending mark decides it (R40). -/
def endStatus (s : State) (x : SlotId) (cause : Status) : Status :=
  if (s.slot x).faultMark then .moverFault
  else if (s.slot x).cancelRequested then cancelStatus s x
  else cause

/-- An ending cause reaches an exchange. One already RETIRING keeps its status (R40). -/
def endExchange (x : SlotId) (cause : Status) (s : State) : State :=
  match (s.slot x).state with
  | .queued => endWith x (endStatus s x cause) s
  | .active => endWith x (endStatus s x cause) s
  | .retiring => s
  | .free => s

/-! ### Leaving RETIRING (R41, R155, R156) -/

/-- A completion is due for an exchange (R27). -/
def completionDue (e : Slot) : Bool :=
  e.notify || match e.status with
    | some st => st.alwaysPosted
    | none => false

/-- bytes_done (R27): bytes_line for STORE, bytes_memory for FETCH. -/
def bytesDone (d : Direction) (e : Slot) : Nat :=
  match d with
  | .store => e.bytesLine
  | .fetch => e.bytesMemory

/-- The completion record of an exchange, as it is written now (R154). -/
def recordOf (s : State) (x : SlotId) (p : PointId) : Record :=
  let e := s.slot x
  { tag := e.tag, slot := x, point := p, status := e.status.getD .done, bytesDone := bytesDone (s.point p).cfg.direction e,
    errors := e.errors, frame := s.fs.frame }

/-- Write the record of an exchange at the head of the ring and raise COMPLETION_POSTED (R153, R155). -/
def postRecord (x : SlotId) (p : PointId) (s : State) : State :=
  raise .completionPosted
    { s with cu := { s.cu with ring := s.cu.ring.set s.cu.head (recordOf s x p), head := s.cu.head + 1,
                               count := s.cu.count + 1 } }

/-- The slot becomes FREE, leaves its point's queue and joins the tail of the free list (R29, R41). -/
def freeSlot (x : SlotId) (p : PointId) (s : State) : State :=
  let s1 := (s.setSlot x Slot.free).setQueue p ((s.queue p).erase x)
  { s1 with sp := { s1.sp with freeList := s1.sp.freeList ++ [x] } }

/-- The point joins the tail of the held list (R156). COMPLETION_BACKLOG is raised when the list was empty, but not in
the posting walk of a release (R160, log 17); a POINT_HALTED or MOVER_FAULT of the happening has been raised before it
(DEDUCED, log 30). -/
def joinHeld (inWalk : Bool) (p : PointId) (s : State) : State :=
  let s1 := { s with cu := { s.cu with held := s.cu.held ++ [p] } }
  if s.cu.held = [] ∧ inWalk = false then raise .completionBacklog s1 else s1

/-- CU can take a record at once (R155). -/
def canPost (s : State) : Bool := decide (s.cu.held = []) && decide (s.cu.count < 64)

/-- The first exchange of a point leaves RETIRING where R41 lets it; the flag says whether its slot was freed. -/
def retireFirst (inWalk : Bool) (p : PointId) (x : SlotId) (s : State) : State × Bool :=
  if (s.slot x).state = .retiring ∧ (s.slot x).jobs = 0 then
    if completionDue (s.slot x) then
      if canPost s then (freeSlot x p (postRecord x p s), true)
      else if p ∈ s.cu.held then (s, false)
      else (joinHeld inWalk p s, false)
    else (freeSlot x p s, true)
  else (s, false)

/-! ### A point reaching DISABLED (R20) -/

/-- The ring read from a member on, once round (R69, R74). -/
def ringFrom (ring : List PointId) (p : PointId) : List PointId :=
  (ring.dropWhile fun q => decide (q ≠ p)) ++ ring.takeWhile fun q => decide (q ≠ p)

/-- The successor of a member in the ring (R69); with a single member, that member again (R70). -/
def successor (ring : List PointId) (p : PointId) : Option PointId :=
  match ringFrom ring p with
  | [] => none
  | [q] => some q
  | _ :: q :: _ => some q

/-- The cost of a point in bit times (R59). -/
def cost (q : SegParams) (c : PointConfig) : Nat := 152 + 10 * c.maxPayload.bytes + q.replyTimeout

/-- A PERIODIC point is due at a residue, or in a frame of that number (R62). -/
def dueAt (c : PointConfig) (n : Nat) : Bool := decide (n % c.period = c.phase)

/-- Change the load table at every residue at which a point is due (R63). -/
def changeLoad (c : PointConfig) (f : Nat → Nat) (load : Vector Nat 128) : Vector Nat 128 :=
  (List.finRange 128).foldl (fun v (r : Residue) => if dueAt c r.val then v.set r (f v[r]) else v) load

/-- The point leaves the scheduler (R20 steps 1 and 2). -/
def leaveScheduler (q : SegParams) (p : PointId) (c : PointConfig) (f : FrameScheduler) : FrameScheduler :=
  match c.kind with
  | .async =>
    { f with
      ring := f.ring.erase p
      pointer :=
        if f.pointer = some p then
          (if successor f.ring p = some p then none else successor f.ring p)
        else f.pointer }
  | .periodic =>
    { f with
      periodic := f.periodic.erase p
      load := changeLoad c (fun n => n - cost q c) f.load
      due := f.due.erase p }

/-- A CLOSING point reaches DISABLED (R20). -/
def reachDisabled (p : PointId) (s : State) : State :=
  let s1 := { s with fs := leaveScheduler s.sc.params p (s.point p).cfg s.fs }
  raise .pointClosed
    (s1.modPoint p fun q => { q with state := .disabled, deferCount := 0, haltCause := none, staged := none })

/-- A point whose queue is empty reaches DISABLED if it is CLOSING (R19, R20). -/
def closePoint (p : PointId) (s : State) : State :=
  if (s.point p).state = .closing then reachDisabled p s else s

/-! ### The first exchange of a queue (R42, R44, R46) -/

/-- jobs_outstanding once a STAGED buffer of the exchange is freed (R43). -/
def jobsBesidesStaged (s : State) (x : SlotId) : Nat :=
  (s.slot x).jobs - (if (stagedBuffer s x).isSome then 1 else 0)

/-- What a pending mark makes due for the first exchange of a queue: an exchange left QUEUED with cancel_requested ends
when it becomes first (R42); an ACTIVE one with no transaction in flight ends at once with fault_mark (R46), and with
cancel_requested when nothing of it is outstanding (R44). -/
def endPending (x : SlotId) (s : State) : State :=
  let e := s.slot x
  match e.state with
  | .queued => if e.cancelRequested then endExchange x .cancelled s else s
  | .active =>
    if inFlight s x then s
    else if e.faultMark then endExchange x .moverFault s
    else if e.cancelRequested ∧ jobsBesidesStaged s x = 0 then endExchange x .cancelled s
    else s
  | .retiring => s
  | .free => s

/-- Follow a queue from its first exchange as far as retirements complete (R41, R42): each exchange whose slot is freed
makes the next one first. -/
def advance (inWalk : Bool) (p : PointId) : List SlotId → State → State
  | [], s => closePoint p s
  | x :: xs, s =>
    let r := retireFirst inWalk p x (endPending x s)
    if r.2 then advance inWalk p xs r.1 else r.1

/-- Follow the queue of a point as it stands. -/
def advancePoint (p : PointId) (s : State) : State := advance false p (s.queue p) s

/-- An ending cause reaches the first exchange of a point if that exchange is ACTIVE, and what that makes due for the
queue follows (R48, R49). -/
def endActive (cause : Status) (p : PointId) (s : State) : State :=
  match s.first p with
  | some x =>
    if (s.slot x).state = .active then advancePoint p (endExchange x cause s) else s
  | none => s

/-! ### Halting a point (R14 to R16) -/

/-- A READY or PAUSED point enters HALTED with a cause, and POINT_HALTED is raised (R14). -/
def haltPoint (c : HaltCause) (p : PointId) (s : State) : State :=
  match (s.point p).state with
  | .ready => raise .pointHalted (s.modPoint p fun q => { q with state := .halted, haltCause := some c })
  | .paused => raise .pointHalted (s.modPoint p fun q => { q with state := .halted, haltCause := some c })
  | .disabled => s
  | .halted => s
  | .closing => s

/-- One point of a lost or detached station (R15, R49). A HALTED point keeps its cause; a CLOSING one goes on closing,
and its ACTIVE exchange ends. POINT_HALTED comes before the COMPLETION_POSTED of the ended exchange (R127), and before a
COMPLETION_BACKLOG that its record brings too, which R127 and R156 leave open (DEDUCED, log 30). -/
def stationGonePoint (c : HaltCause) (p : PointId) (s : State) : State :=
  match (s.point p).state with
  | .ready => endActive .stationGone p (haltPoint c p s)
  | .paused => endActive .stationGone p (haltPoint c p s)
  | .closing => endActive .stationGone p s
  | .halted => s
  | .disabled => s

/-- Every point bound to a station, in ascending point id (R15, R127). -/
def stationGone (c : HaltCause) (i : StationId) (s : State) : State :=
  (List.finRange 64).foldl (fun t p => if (t.point p).cfg.station = i then stationGonePoint c p t else t) s

end Sys2Proof.Machine
end

