-- ==== Sys2Proof/Machine/Staging.lean ====
section
/-! DEFINITION. The end of a happening in the buffer pool and the mover: the staging wait list (R134, R135), the grants
(R136) and the taking of a job (R139), with the burst choice of R142. -/

namespace Sys2Proof.Machine

/-- An exchange still has staging remaining (R33); the zero-length packet has not been staged while the exchange is
QUEUED. -/
def stagingRemaining (e : Slot) : Bool :=
  if e.length = 0 then decide (e.state = .queued) else decide (e.bytesMemory < e.length)

/-- A STORE point needs staging (R134). -/
def needsStaging (s : State) (p : PointId) : Bool :=
  let q := s.point p
  decide (q.state = .ready) && decide (q.cfg.direction = .store) && decide (q.staged = none) &&
    match s.first p with
    | some x =>
      let e := s.slot x
      (decide (e.state = .queued) || decide (e.state = .active)) && !e.cancelRequested && stagingRemaining e
    | none => false

/-- The staging wait list at the end of a happening (R135): the points that no longer need staging leave, the others
keep their order, and the points that have come to need it join at the tail in ascending id. -/
def updatedWaitList (s : State) : List PointId :=
  (s.bp.waitList.filter fun p => needsStaging s p) ++
    (List.finRange 64).filter fun p => needsStaging s p && decide (p ∉ s.bp.waitList)

/-- The packet size of a grant (R136): min(max payload, length - bytes_memory). -/
def packetSize (q : Point) (e : Slot) : Nat := min q.cfg.maxPayload.bytes (e.length - e.bytesMemory)

/-- Grant a buffer to a point for its first exchange (R136, R31). The point leaves the wait list. -/
def grant (p : PointId) (b : BufId) (x : SlotId) (s : State) : State :=
  let e := s.slot x
  let n := packetSize (s.point p) e
  let s1 := s.modSlot x fun e => { e with jobs := e.jobs + 1, state := .active }
  let s2 := s1.modPoint p fun q => { q with staged := some b }
  let s3 := s2.modBuffer b fun r =>
    { r with state := if n = 0 then .staged else .staging, point := some p, slot := some x, count := n,
             addr := some (e.hostAddr + BitVec.ofNat 32 e.bytesMemory) }
  let s4 := { s3 with bp := { s3.bp with waitList := s3.bp.waitList.erase p } }
  if n = 0 then s4 else { s4 with pm := { s4.pm with stageQueue := s4.pm.stageQueue ++ [b] } }

/-- Grant in the order of the wait list while a buffer is FREE and the staging count is below 6 (R136). -/
def grants : List PointId → State → State
  | [], s => s
  | p :: ps, s =>
    if stagingCount s < 6 then
      match lowestFree s, s.first p with
      | some b, some x => grants ps (grant p b x s)
      | _, _ => s
    else s

/-- The burst for a next address and the bytes remaining (R142), with max burst in words. -/
def chooseBurst (maxWords : Nat) (addr : Word) (remaining : Nat) : Burst :=
  let a := addr.toNat
  if a % 4 ≠ 0 then { addr := addr, beats := 1, bytes := min (4 - a % 4) remaining }
  else
    match [16, 8, 4].find? fun n => decide (n ≤ maxWords ∧ a % (4 * n) = 0 ∧ 4 * n ≤ remaining) with
    | some n => { addr := addr, beats := n, bytes := 4 * n }
    | none => { addr := addr, beats := 1, bytes := min 4 remaining }

/-- A job for a buffer becomes the current job (R140), and the mover requests the bus for its first burst (R139; the
burst is chosen as WAIT_GRANT is entered, log 14). -/
def startJob (k : JobKind) (b : BufId) (s : State) : State :=
  let r := s.buffer b
  let a := r.addr.getD 0
  { s with pm := { s.pm with
      state := .waitGrant
      job := some { kind := k, buffer := b, slot := r.slot.getD 0, nextAddr := a, remaining := r.count, moved := 0,
                    retries := 0 }
      burst := some (chooseBurst s.hw.config.maxWords a r.count) } }

/-- An IDLE mover takes the first drain job, or failing that the first stage job (R139). -/
def takeJob (s : State) : State :=
  if s.pm.state = .idle then
    match s.pm.drainQueue with
    | b :: rest => startJob .drain b { s with pm := { s.pm with drainQueue := rest } }
    | [] =>
      match s.pm.stageQueue with
      | b :: rest => startJob .stage b { s with pm := { s.pm with stageQueue := rest } }
      | [] => s
  else s

/-- What the end of a happening brings in BP and PM: the wait list is brought up to date, the grants are made and an
IDLE mover takes a job (log 13). -/
def settle (s : State) : State :=
  let w := updatedWaitList s
  takeJob (grants w { s with bp := { s.bp with waitList := w } })

end Sys2Proof.Machine
end

