-- ==== Sys2Proof/Machine/Scheduler.lean ====
section
/-! DEFINITION. The frame scheduler's choice (R72 to R75), the beginning of a transaction (R85), the due list (R62, R66,
R68) and the opening of a frame (R55, R56). -/

namespace Sys2Proof.Machine

/-- Line work remaining of an exchange of a point of that direction (R33). A short packet that is taken ends its
exchange, so an exchange that has not ended has none. -/
def lineWorkRemaining (d : Direction) (e : Slot) : Bool :=
  match d with
  | .store => decide (e.length = 0) || decide (e.bytesLine < e.length)
  | .fetch => decide (e.bytesLine < e.length)

/-- An exchange offers line work to the scheduler (R33). -/
def offersLineWork (d : Direction) (e : Slot) : Bool :=
  (decide (e.state = .queued) || decide (e.state = .active)) && lineWorkRemaining d e && !e.cancelRequested &&
    !e.faultMark

/-- The first exchange of a point offers line work. -/
def firstOffers (s : State) (p : PointId) : Bool :=
  match s.first p with
  | some x => offersLineWork (s.point p).cfg.direction (s.slot x)
  | none => false

/-- The station of a point is PRESENT. -/
def stationPresent (s : State) (p : PointId) : Bool :=
  decide ((s.station (s.point p).cfg.station).presence = .present)

/-- The buffer condition of eligibility: conditions 5 and 6 of R72. -/
def bufferReady (s : State) (p : PointId) : Bool :=
  match (s.point p).cfg.direction with
  | .store =>
    match (s.point p).staged with
    | some b => decide ((s.buffer b).state = .staged)
    | none => false
  | .fetch => (lowestFree s).isSome

/-- A point is eligible (R72). -/
def eligible (s : State) (p : PointId) : Bool :=
  decide ((s.point p).state = .ready) && stationPresent s p && firstOffers s p &&
    (decide ((s.point p).cfg.kind = .periodic) || decide ((s.point p).deferCount = 0)) && bufferReady s p

/-- The budget guard (R60): elapsed time + cost ≤ L - 168. -/
def fits (s : State) (p : PointId) : Bool :=
  decide (s.fs.elapsed + cost s.sc.params (s.point p).cfg + 168 ≤ s.sc.params.frameLength)

/-- The segment is RUNNING or SUSPENDING. -/
def segServes (s : State) : Bool := decide (s.sc.state = .running) || decide (s.sc.state = .suspending)

/-- The frame timer is inside the transaction region (R73). -/
def inRegion (s : State) : Bool :=
  s.fs.running && decide (64 ≤ s.fs.elapsed) && decide (s.fs.elapsed + 168 < s.sc.params.frameLength)

/-- The three conditions of R73. -/
def mayChoose (s : State) : Bool := decide (s.le.state = .idle) && segServes s && inRegion s

/-- The search of the async ring starts with the member the rotation pointer names (R74). -/
def ringOrder (f : FrameScheduler) : List PointId :=
  match f.pointer with
  | some p => ringFrom f.ring p
  | none => []

/-- The due entry a choice takes (R74 step 1). -/
def pickDue (s : State) : Option PointId := s.fs.due.find? fun p => eligible s p && fits s p

/-- The ring member a choice takes (R74 step 2). -/
def pickRing (s : State) : Option PointId := (ringOrder s.fs).find? fun p => eligible s p && fits s p

/-- The requested length (R85): n is the byte count of the STAGED buffer, m is min(max payload, length - bytes_line). -/
def requestedLength (s : State) (p : PointId) (x : SlotId) (b : BufId) : Nat :=
  match (s.point p).cfg.direction with
  | .store => (s.buffer b).count
  | .fetch => min (s.point p).cfg.maxPayload.bytes ((s.slot x).length - (s.slot x).bytesLine)

/-- The buffer of a transaction to a point (R75): the point's STAGED buffer, or the lowest FREE one. -/
def txnBuffer (s : State) (p : PointId) : Option BufId :=
  match (s.point p).cfg.direction with
  | .store => (s.point p).staged
  | .fetch => lowestFree s

/-- The buffer pool's part of a FETCH start (R132, R32): the buffer takes RECEIVING and the exchange is ACTIVE with one
job more. -/
def takeReceiving (p : PointId) (x : SlotId) (b : BufId) (s : State) : State :=
  (s.modBuffer b fun r => { r with state := .receiving, point := some p, slot := some x, count := 0, addr := none }).modSlot
    x fun e => { e with jobs := e.jobs + 1, state := .active }

/-- The transaction begins (R75, R85). -/
def beginTxn (p : PointId) (s : State) : State :=
  match s.first p, txnBuffer s p with
  | some x, some b =>
    let t : Txn :=
      { point := p, slot := x, direction := (s.point p).cfg.direction, buffer := b, seq := (s.point p).seq,
        requested := requestedLength s p x b, began := s.fs.elapsed, answerBegan := none, received := none }
    let s1 := match (s.point p).cfg.direction with
      | .store => s
      | .fetch => takeReceiving p x b s
    { s1 with le := { s1.le with state := .requesting, txn := some t } }
  | _, _ => s

/-- The choice (R74), made where the three conditions of R73 hold. A due entry chosen leaves the due list; a ring member
chosen moves the rotation pointer to its successor (R70). -/
def choose (s : State) : State :=
  if mayChoose s then
    match pickDue s with
    | some p => beginTxn p { s with fs := { s.fs with due := s.fs.due.erase p } }
    | none =>
      match pickRing s with
      | some p => beginTxn p { s with fs := { s.fs with pointer := successor s.fs.ring p } }
      | none => s
  else s

/-! ### Frames -/

/-- The due list of a frame of number `f` (R66): the due points of the periodic list, in its order. -/
def dueList (s : State) (f : BitVec 12) : List PointId :=
  s.fs.periodic.filter fun p => dueAt (s.point p).cfg f.toNat

/-- Each frame mark lowers every non-zero defer count by 1 (R22). -/
def lowerDefers (s : State) : State :=
  { s with pt := { points := mapTable (fun q => { q with deferCount := q.deferCount - 1 }) s.pt.points } }

/-- A FRAME MARK carrying frame number `f` begins (R55, R56): the timer restarts from 0, the defer counts fall and a due
list is built if the segment is RUNNING. -/
def beginFrame (f : BitVec 12) (s : State) : State :=
  let s1 := lowerDefers s
  { s1 with
    fs := { s1.fs with running := true, elapsed := 0, frame := f,
                       due := if s1.sc.state = .running then dueList s1 f else [] }
    le := { s1.le with state := .marking, slotsRead := 0, lineBits := 0 } }

/-- An entry of the due list counts as a miss at census start (R68). Behind a RETIRING first exchange only the exchange
right after it is weighed, as R68 says, where R157 speaks of a QUEUED exchange behind it (DEDUCED, log 29). -/
def countsAsMiss (s : State) (p : PointId) : Bool :=
  decide ((s.point p).state = .ready) && stationPresent s p &&
    (firstOffers s p ||
      match s.queue p with
      | x :: y :: _ =>
        decide ((s.slot x).state = .retiring) && decide ((s.slot y).state = .queued) && !(s.slot y).cancelRequested
      | _ => false)

/-- Charge a miss (R68, R23): the count stops at 255, and PERIODIC_MISS is raised. -/
def chargeMiss (p : PointId) (s : State) : State :=
  raise .periodicMiss (s.modPoint p fun q => { q with missCount := min 255 (q.missCount + 1) })

/-- Settle the due list at census start (R58, R68). -/
def settleDue (s : State) : State :=
  let t := s.fs.due.foldl (fun t p => if countsAsMiss s p then chargeMiss p t else t) s
  { t with fs := { t.fs with due := [] } }

end Sys2Proof.Machine
end

