-- ==== Sys2Proof/Machine/Segment.lean ====
section
/-! DEFINITION. The transitions of the segment (chapter 5) and the taking of halt requests (R113, R115). -/

namespace Sys2Proof.Machine

/-- The whole due list is emptied without misses (R67). -/
def emptyDue (s : State) : State := { s with fs := { s.fs with due := [] } }

/-- Entry to HALTED: halt_pending becomes no and SEGMENT_CHANGED is raised (R114, R121). -/
def enterHalted (s : State) : State :=
  raise .segmentChanged { s with sc := { s.sc with state := .halted, haltPending := false } }

/-- Entry to HALTING from RUNNING or SUSPENDING, and on to HALTED when no transaction is in flight (R112). A suspend is
dropped. -/
def enterHalting (s : State) : State :=
  let s1 := emptyDue { s with sc := { s.sc with
    state := .halting, suspendDropped := s.sc.suspendDropped || decide (s.sc.state = .suspending) } }
  if txnInFlight s1 then s1 else enterHalted s1

/-- A halt request by the segment state (R113). -/
def haltRequest (s : State) : State :=
  match s.sc.state with
  | .running => enterHalting s
  | .suspending => enterHalting s
  | .resetting => { s with sc := { s.sc with haltPending := true } }
  | .waking => { s with sc := { s.sc with haltPending := true } }
  | .suspended => { s with sc := { s.sc with haltPending := true } }
  | .halting => s
  | .halted => s
  | .down => s

/-- SC takes the halt requests of the happening (R115 step 3). Later ones find what the first one left, so one taking
stands for all (R171). -/
def takeHaltRequests (s : State) : State :=
  if s.eu.haltRequest then haltRequest { s with eu := { s.eu with haltRequest := false } } else s

/-- Every station ABSENT with its counters cleared, alert and clash kept (R108, R111). -/
def stationsAbsent (s : State) : State :=
  { s with sc := { s.sc with
      stations := mapTable (fun x => { x with presence := .absent, silent := 0, streak := 0, answered := false })
        s.sc.stations } }

/-- Every point's sequence bit becomes 0 (R21). -/
def clearSeqs (s : State) : State :=
  { s with pt := { points := mapTable (fun q => { q with seq := false }) s.pt.points } }

/-- Every point's defer count becomes 0 (R22). -/
def clearDefers (s : State) : State :=
  { s with pt := { points := mapTable (fun q => { q with deferCount := 0 }) s.pt.points } }

/-- Every ACTIVE exchange of every point ends with LINE_RESET or by its mark, in ascending point id (R48). -/
def endAllActive (s : State) : State := (List.finRange 64).foldl (fun t p => endActive .lineReset p t) s

/-- Entry to RESETTING (R108), but for the exchanges: the segment state, the stations, the sequence bits, the defer
counts, the frame number, the timer, the due list and the line engine. -/
def enterResettingCore (s : State) : State :=
  let s1 := clearDefers (clearSeqs (stationsAbsent s))
  { s1 with
    sc := { s1.sc with state := .resetting, haltPending := false, waiting := .none }
    fs := { s1.fs with running := false, frame := 0, due := [] }
    le := { s1.le with state := .signalling, slotsRead := 0, lineBits := 0 } }

/-- Entry to RESETTING by RESET SEGMENT: every ACTIVE exchange ends (R48, R108). The records written in this happening
carry frame number 0 (R154, log 12). -/
def enterResettingByReset (s : State) : State := endAllActive (enterResettingCore s)

/-- Entry to RESETTING by START SEGMENT ends no exchange and sets SUSPEND_DROPPED to no (R107). -/
def enterResettingByStart (s : State) : State :=
  let s1 := enterResettingCore s
  { s1 with sc := { s1.sc with suspendDropped := false } }

/-- Entry to DOWN by STOP SEGMENT (R111). SEGMENT_CHANGED comes after the events of the exchanges that end. -/
def enterDown (s : State) : State :=
  let s1 := clearSeqs (stationsAbsent s)
  raise .segmentChanged (endAllActive
    { s1 with
      sc := { s1.sc with state := .down, haltPending := false, waiting := .none }
      fs := { s1.fs with running := false, due := [] }
      le := { s1.le with state := .off, slotsRead := 0, lineBits := 0 } })

/-- Entry to WAKING (R120): the line engine starts wake signalling. -/
def enterWaking (s : State) : State :=
  { s with
    sc := { s.sc with state := .waking }
    le := { s.le with state := .signalling, lineBits := 0 } }

/-- The line engine watches for the wake pattern: SUSPENDED, and the SUSPEND MARK has ended (R102, R119). -/
def watchesLine (s : State) : Bool := decide (s.sc.state = .suspended) && decide (s.le.state = .idle)

/-- A frame opens after reset or wake signalling (R56, R109, R120): the segment enters HALTED when halt_pending is yes,
else RUNNING; SEGMENT_CHANGED is raised, then FRAME_TICK. -/
def openAfterSignalling (f : BitVec 12) (s : State) : State :=
  let s1 := if s.sc.haltPending then { s with sc := { s.sc with state := .halted, haltPending := false } }
    else s.setSeg .running
  raise .frameTick (raise .segmentChanged (beginFrame f s1))

/-- The waiting transition or the passage from HALTING to HALTED at a transaction's end (R115 step 2). -/
def carryOutWaiting (s : State) : State :=
  match s.sc.waiting with
  | .stop => enterDown s
  | .reset => enterResettingByReset s
  | .none => if s.sc.state = .halting then enterHalted s else s

end Sys2Proof.Machine
end

