-- ==== Sys2Proof/Machine/Port.lean ====
section
/-! DEFINITION. The command port (R188, R189): how a command is decided and its results written, when the window takes a
write at all (R195, R197), and the completion of a controller reset (R196). -/

namespace Sys2Proof.Machine

/-- The outcome of a step. -/
abbrev Out := Host.Outcome State Fault Refusal

/-- The 6240 takes no window write: the RESET pin is asserted (R197) or a controller reset is pending (R195). -/
def deaf (s : State) : Bool := s.hw.resetPin || s.hw.access.resetPending

/-- RESULT0 of a command: result code, result value and the sequence number the command gets (R189). -/
def resultWord (r : Reply) (n : BitVec 16) : Word := place r.code.code 24 ||| place r.value 16 ||| place n.toNat 0

/-- Steps 2 and 3 of R188: the result words are written, the sequence number increases by 1 and the code is kept. -/
def writeResult (code : BitVec 8) (r : Reply) (s : State) : State :=
  { s with hw := { s.hw with
      result0 := resultWord r (s.hw.seqNumber + 1), result1 := r.r1, result2 := r.r2, lastCode := code,
      seqNumber := s.hw.seqNumber + 1 } }

/-- A window write: ignored while the window is deaf (R195, R197). -/
def windowWrite (s : State) (f : State → State) : Out := if deaf s then .next s else .next (f s)

/-- A command write (R188): decide the command, then write its result. -/
def command (code : BitVec 8) (f : State → State × Reply) (s : State) : Out :=
  windowWrite s fun s => writeResult code (f s).2 (f s).1

/-- A command refused by a check: no effect but its result (R5, R106, R189). -/
def refuse (c : ResultCode) (s : State) : State × Reply := (s, Reply.refusal c)

/-- A point command: the id is checked first (R5). -/
def onPoint (f : PointId → State → State × Reply) (s : State) : State × Reply :=
  match pointOperand s with
  | some p => f p s
  | none => refuse .unknownPoint s

/-- A pending controller reset completes (R196): every block takes its reset values and HOST CONFIG keeps its content.
The contents of the ring places and of the buffers stay (logs 7, 8), and so does the queue of commands. -/
def completeReset (s : State) : State :=
  { State.reset with
    bp := { buffers := mapTable (fun b => { Buffer.reset with data := b.data }) s.bp.buffers, waitList := [] }
    cu := { CompletionUnit.reset with ring := s.cu.ring }
    hw := { HostWindow.reset with config := s.hw.config, resetPin := s.hw.resetPin }
    pending := s.pending }

/-- Steps 2 to 4 of R195, with the completion where no burst is in progress. -/
def beginReset (s : State) : State :=
  let s1 : State :=
    { s with
      hw := { s.hw with access := { s.hw.access with resetPending := true } }
      le := LineEngine.reset
      sc := { s.sc with state := .down, waiting := .none }
      fs := { s.fs with running := false, due := [] }
      eu := { s.eu with attn := .released, alarm := .released } }
  if s.pm.state = .burst then s1 else completeReset s1

end Sys2Proof.Machine
end

