-- ==== Sys2Proof/Machine/MoverHappenings.lean ====
section
/-! DEFINITION. The payload mover on the host bus (chapter 6): the grant, the four answers of the bus partner, the ends of
jobs and the fault. -/

namespace Sys2Proof.Machine

/-- BUS_GRANT (R143): the mover enters BURST and presents the burst it chose. -/
def execBusGrant (s : State) : Out :=
  if s.pm.state = .waitGrant then .next { s with pm := { s.pm with state := .burst } } else .refused .notDue

/-! ### The bytes of a burst (R140, R182) -/

/-- The byte of host address `a` within the words of a burst that begins at the word of `first` (R182): it lies on lane
a mod 4. -/
def laneByte (words : Vector Word 16) (first a : Nat) : Byte :=
  (words.toList.getD (a / 4 - first / 4) 0).extractLsb' (8 * (a % 4)) 8

/-- The `n` bytes a read burst brings, in ascending host address order. -/
def burstBytes (words : Vector Word 16) (addr : Word) (n : Nat) : List Byte :=
  (List.range n).map fun i => laneByte words addr.toNat (addr.toNat + i)

/-- The bytes a drain burst writes to host memory, in ascending host address order from the burst's address (R140). -/
def drainBytes (s : State) : List Byte :=
  match s.pm.job, s.pm.burst with
  | some j, some u =>
    match j.kind with
    | .drain => (List.range u.bytes).map fun i => (s.buffer j.buffer).data.toList.getD (j.moved + i) 0
    | .stage => []
  | _, _ => []

/-- The byte enables of the beats of a burst (R182): all four lanes of a word beat, the lanes whose bytes it moves of a
single partial beat. -/
def burstEnables (u : Burst) : List Bool :=
  (List.range 4).map fun j =>
    decide (4 ≤ u.bytes) || (decide (u.addr.toNat % 4 ≤ j) && decide (j < u.addr.toNat % 4 + u.bytes))

/-- `n` bytes of the current job count as moved (R144, R145): a stage burst's bytes are in the buffer, the next address
advances and the retry count is 0. -/
def countMoved (j : Job) (n : Nat) (words : Vector Word 16) (s : State) : State :=
  let j' := { j with nextAddr := j.nextAddr + BitVec.ofNat 32 n, remaining := j.remaining - n, moved := j.moved + n,
                     retries := 0 }
  let s1 := { s with pm := { s.pm with job := some j' } }
  match j.kind with
  | .stage => s1.modBuffer j.buffer fun r =>
      { r with data := writeBytes r.data j.moved (burstBytes words j.nextAddr n) }
  | .drain => s1

/-- The mover returns to WAIT_GRANT and chooses the next burst afresh (R142, R144, R145). -/
def nextBurst (s : State) : State :=
  match s.pm.job with
  | some j =>
    { s with pm := { s.pm with
        state := .waitGrant, burst := some (chooseBurst s.hw.config.maxWords j.nextAddr j.remaining) } }
  | none => s

/-! ### The end of a job (R141, R146) -/

/-- The mover has no job (R143). -/
def clearJob (s : State) : State := { s with pm := { s.pm with state := .idle, job := none, burst := none } }

/-- The exchange counts bytes of host memory (R35). -/
def countMemory (x : SlotId) (n : Nat) (s : State) : State :=
  s.modSlot x fun e => { e with bytesMemory := e.bytesMemory + n }

/-- Follow the queue of the exchange's point (R41, R44). -/
def advanceOwner (x : SlotId) (s : State) : State :=
  match (s.slot x).point with
  | some p => advancePoint p s
  | none => s

/-- The end of a stage job (R141): the bytes count, and the buffer becomes STAGED for an exchange that goes on, else
FREE. -/
def stageJobEnd (j : Job) (s : State) : State :=
  let s1 := countMemory j.slot (s.buffer j.buffer).count s
  let e := s1.slot j.slot
  if e.state = .active ∧ e.cancelRequested = false then s1.modBuffer j.buffer fun r => { r with state := .staged }
  else advanceOwner j.slot (freeBuffer j.buffer s1)

/-- The end of a drain job (R146): the bytes count and the buffer becomes FREE. -/
def drainJobEnd (j : Job) (s : State) : State :=
  advanceOwner j.slot (freeBuffer j.buffer (countMemory j.slot (s.buffer j.buffer).count s))

/-- The end of the current job: its effects, the grants, the next job and the choice (R139, R141, R146, R133). -/
def endJob (j : Job) (s : State) : State :=
  let s1 := clearJob s
  choose (settle (match j.kind with
    | .stage => stageJobEnd j s1
    | .drain => drainJobEnd j s1))

/-! ### A fault (R148, R46) -/

/-- The buffers of the queued jobs of an exchange (R148 step 4). -/
def queuedOf (s : State) (x : SlotId) (q : List BufId) : List BufId :=
  q.filter fun b => decide ((s.buffer b).slot = some x)

/-- A queue without the jobs of an exchange. -/
def withoutJobsOf (s : State) (x : SlotId) (q : List BufId) : List BufId :=
  q.filter fun b => !decide ((s.buffer b).slot = some x)

/-- SP's part of a fault (R46): fault_mark while a transaction of the exchange is in flight, MOVER_FAULT otherwise, with
or without cancel_requested (log 9); a RETIRING exchange takes MOVER_FAULT in place of its status. -/
def faultExchange (x : SlotId) (s : State) : State :=
  match (s.slot x).state with
  | .active =>
    if inFlight s x then s.modSlot x fun e => { e with faultMark := true } else endWith x .moverFault s
  | .queued => endWith x .moverFault s
  | .retiring => s.modSlot x fun e => { e with status := some .moverFault }
  | .free => s

/-- The current job faults (R148): the record, the bytes moved, the buffers of the exchange, the exchange, MOVER_FAULT
and then its completion, the halt request, the grants and the choice. MOVER_FAULT comes before COMPLETION_POSTED (R148), and
before a COMPLETION_BACKLOG too, which R148 and R156 leave open (DEDUCED, log 30). -/
def faultJob (j : Job) (u : Burst) (c : FaultCause) (s : State) : State :=
  let drains := queuedOf s j.slot s.pm.drainQueue
  let stages := queuedOf s j.slot s.pm.stageQueue
  let s1 := { s with pm :=
    { s.pm with
      state := .faulted, job := none, burst := none
      faultRecord := some { kind := j.kind, buffer := j.buffer, slot := j.slot, addr := u.addr, cause := c }
      drainQueue := withoutJobsOf s j.slot s.pm.drainQueue
      stageQueue := withoutJobsOf s j.slot s.pm.stageQueue } }
  let s2 := freeBuffer j.buffer (countMemory j.slot j.moved s1)
  let s3 := (drains ++ stages).foldl (fun t b => freeBuffer b t) s2
  let s4 := raise .moverFault (faultExchange j.slot s3)
  choose (settle (takeHaltRequests (advanceOwner j.slot s4)))

/-! ### The answers of the bus partner (R144, R145) -/

/-- An answer to the burst in progress: it completes a pending controller reset (R196), and otherwise acts on the
current job and burst. -/
def onAnswer (f : Job → Burst → State → Out) (s : State) : Out :=
  if s.pm.state = .burst then
    if s.hw.access.resetPending then .next (completeReset s)
    else
      match s.pm.job, s.pm.burst with
      | some j, some u => f j u s
      | _, _ => .fault .brokenState
  else .refused .notDue

/-- A completed answer (R144). -/
def answerCompleted (words : Vector Word 16) (j : Job) (u : Burst) (s : State) : State :=
  let s1 := countMoved j u.bytes words s
  if j.remaining ≤ u.bytes then endJob j s1 else nextBurst s1

/-- BURST_COMPLETED. -/
def execBurstCompleted (words : Vector Word 16) (s : State) : Out :=
  onAnswer (fun j u s => .next (answerCompleted words j u s)) s

/-- A retry answer (R144): the same burst is requested again, or the job faults at the bus retry limit. -/
def answerRetry (j : Job) (u : Burst) (s : State) : State :=
  if s.hw.config.busRetryLimit ≤ j.retries + 1 then faultJob j u .retryExhausted s
  else { s with pm := { s.pm with state := .waitGrant, job := some { j with retries := j.retries + 1 } } }

/-- BURST_RETRY. -/
def execBurstRetry (s : State) : Out := onAnswer (fun j u s => .next (answerRetry j u s)) s

/-- BURST_CUT_SHORT (R145): k word beats move 4k bytes, with k from 1 to B - 1 (R144). -/
def execBurstCutShort (beats : Nat) (words : Vector Word 16) (s : State) : Out :=
  onAnswer (fun j u s =>
    if 1 ≤ beats ∧ beats < u.beats then .next (nextBurst (countMoved j (4 * beats) words s)) else .refused .notDue) s

/-- BURST_ERROR (R148). -/
def execBurstError (s : State) : Out := onAnswer (fun j u s => .next (faultJob j u .busError s)) s

end Sys2Proof.Machine
end

