-- ==== Sys2Proof/Machine/PointCommands.lean ====
section
/-! DEFINITION. The point commands (chapter 1). -/

namespace Sys2Proof.Machine

/-- CONFIGURE POINT (R6, R7, R190). -/
def configurePoint (p : PointId) (s : State) : State × Reply :=
  if (s.point p).state = .disabled then
    match configOperand s with
    | some c => (s.modPoint p fun q => { q with cfg := c }, Reply.plain .ok)
    | none => refuse .badParameter s
  else refuse .badPointState s

/-- CONFIGURE_POINT. -/
def execConfigurePoint (s : State) : Out := command 0x01 (onPoint configurePoint) s

/-- The binding of a point is free (R9): no other point that is not DISABLED has the same station, number and direction. -/
def bindingFree (s : State) (p : PointId) : Bool :=
  (List.finRange 64).all fun q =>
    decide (q = p) || decide ((s.point q).state = .disabled) ||
      !(decide ((s.point q).cfg.station = (s.point p).cfg.station) &&
        decide ((s.point q).cfg.number = (s.point p).cfg.number) &&
        decide ((s.point q).cfg.direction = (s.point p).cfg.direction))

/-- The admission limit floor(3 × (L - 232) / 4) (R64). -/
def admissionLimit (q : SegParams) : Nat := 3 * (q.frameLength - 232) / 4

/-- Admission (R10 check 3): the load and the cost fit the limit at every residue at which the point is due. -/
def admitted (s : State) (c : PointConfig) : Bool :=
  (List.finRange 128).all fun (r : Residue) =>
    !dueAt c r.val || decide (s.fs.load[r] + cost s.sc.params c ≤ admissionLimit s.sc.params)

/-- The checks of the frame scheduler for a PERIODIC point (R10), in order; none means all pass. -/
def periodicCheck (s : State) (c : PointConfig) (position : Nat) : Option ResultCode :=
  if s.fs.periodic.length < position then some .badParameter
  else if 32 ≤ s.fs.periodic.length then some .periodicFull
  else if admitted s c then none
  else some .overcommit

/-- The list with a point at a position, counting the first entry as 0 (R10). -/
def insertAt (l : List PointId) (position : Nat) (p : PointId) : List PointId :=
  l.take position ++ p :: l.drop position

/-- The point joins the scheduler (R8, R10): the tail of the async ring, or its position in the periodic list with its
cost in the load table. -/
def joinScheduler (q : SegParams) (position : Nat) (p : PointId) (c : PointConfig) (f : FrameScheduler) :
    FrameScheduler :=
  match c.kind with
  | .async => { f with ring := f.ring ++ [p], pointer := if f.ring = [] then some p else f.pointer }
  | .periodic =>
    { f with periodic := insertAt f.periodic position p, load := changeLoad c (fun n => n + cost q c) f.load }

/-- The point enters READY by ENABLE POINT (R8). -/
def admitPoint (position : Nat) (p : PointId) (s : State) : State :=
  let s1 := { s with fs := joinScheduler s.sc.params position p (s.point p).cfg s.fs }
  s1.modPoint p fun q => { q with state := .ready, seq := false, deferCount := 0, missCount := 0, haltCause := none }

/-- ENABLE POINT (R8 to R10). -/
def enablePoint (p : PointId) (s : State) : State × Reply :=
  let c := (s.point p).cfg
  let position := field (s.param 1) 0 8
  if (s.point p).state = .disabled then
    if bindingFree s p then
      match c.kind with
      | .async => (choose (settle (admitPoint position p s)), Reply.plain .ok)
      | .periodic =>
        match periodicCheck s c position with
        | none => (choose (settle (admitPoint position p s)), Reply.plain .ok)
        | some e => refuse e s
    else refuse .bindingInUse s
  else refuse .badPointState s

/-- ENABLE_POINT. -/
def execEnablePoint (s : State) : Out := command 0x02 (onPoint enablePoint) s

/-- PAUSE POINT (R11). -/
def pausePoint (p : PointId) (s : State) : State × Reply :=
  if (s.point p).state = .ready then
    (settle (s.modPoint p fun q => { q with state := .paused }), Reply.plain .ok)
  else refuse .badPointState s

/-- PAUSE_POINT. -/
def execPausePoint (s : State) : Out := command 0x04 (onPoint pausePoint) s

/-- CONTINUE POINT (R12), with the happenings of R4. -/
def continuePoint (p : PointId) (s : State) : State × Reply :=
  if (s.point p).state = .paused then
    (choose (settle (s.modPoint p fun q => { q with state := .ready })), Reply.plain .ok)
  else refuse .badPointState s

/-- CONTINUE_POINT. -/
def execContinuePoint (s : State) : Out := command 0x05 (onPoint continuePoint) s

/-- CLEAR POINT (R17), with the happenings of R4. -/
def clearPoint (p : PointId) (s : State) : State × Reply :=
  if (s.point p).state = .halted then
    (choose (settle (s.modPoint p fun q => { q with state := .ready, haltCause := none, seq := false })),
      Reply.plain .ok)
  else refuse .badPointState s

/-- CLEAR_POINT. -/
def execClearPoint (s : State) : Out := command 0x06 (onPoint clearPoint) s

/-- Every later exchange takes cancel_requested and stays QUEUED (R47). -/
def markAll (xs : List SlotId) (s : State) : State :=
  xs.foldl (fun t x => t.modSlot x fun e => { e with cancelRequested := true }) s

/-- The flush of the first exchange of a queue (R47): a QUEUED one ends FLUSHED; an ACTIVE one is handled as a cancel
(R43); a RETIRING one keeps its status. -/
def flushFirst (x : SlotId) (s : State) : State :=
  let e := s.slot x
  match e.state with
  | .queued => endWith x .flushed s
  | .active =>
    if e.faultMark || e.cancelRequested then s
    else if inFlight s x = false ∧ jobsBesidesStaged s x = 0 then endWith x .flushed s
    else s.modSlot x fun e => { e with cancelRequested := true }
  | .retiring => s
  | .free => s

/-- The flush walk of DISABLE POINT (R47), from the first exchange on. -/
def flushWalk (p : PointId) : List SlotId → State → State
  | [], s => closePoint p s
  | x :: xs, s =>
    let r := retireFirst false p x (flushFirst x s)
    if r.2 then flushWalk p xs r.1 else markAll xs r.1

/-- The effects of an accepted DISABLE POINT (R18, R47). -/
def closeAndFlush (p : PointId) (s : State) : State :=
  let s1 := s.modPoint p fun q => { q with state := .closing, haltCause := none }
  choose (settle (flushWalk p (s.queue p) s1))

/-- DISABLE POINT (R18): CLOSED when the queue is empty at the end, else CLOSING; RESULT1 has the queue length (R190). -/
def disablePoint (p : PointId) (s : State) : State × Reply :=
  match (s.point p).state with
  | .disabled => refuse .badPointState s
  | .closing => refuse .badPointState s
  | .ready | .paused | .halted =>
    let t := closeAndFlush p s
    let n := (t.queue p).length
    (t, { code := if n = 0 then .closed else .closing, value := 0, r1 := place n 0, r2 := 0 })

/-- DISABLE_POINT. -/
def execDisablePoint (s : State) : Out := command 0x03 (onPoint disablePoint) s

/-- The staged flag of INSPECT POINT (R25): the staged buffer is present and STAGED. -/
def stagedFlag (s : State) (p : PointId) : Bool :=
  match (s.point p).staged with
  | some b => decide ((s.buffer b).state = .staged)
  | none => false

/-- RESULT1 of INSPECT POINT (R190). -/
def inspectPointWord1 (s : State) (p : PointId) : Word :=
  place (s.point p).state.code 0 ||| placeBit (s.point p).seq 3 ||| place (s.queue p).length 8 |||
    placeSlot (s.first p) 16 24 ||| placeBit (stagedFlag s p) 25

/-- RESULT2 of INSPECT POINT (R190). -/
def inspectPointWord2 (s : State) (p : PointId) : Word :=
  place (s.point p).missCount 0 ||| place (s.point p).deferCount 8 ||| place (haltCauseCode (s.point p).haltCause) 12

/-- INSPECT POINT (R25). -/
def inspectPoint (p : PointId) (s : State) : State × Reply :=
  (s, { code := .ok, value := 0, r1 := inspectPointWord1 s p, r2 := inspectPointWord2 s p })

/-- INSPECT_POINT. -/
def execInspectPoint (s : State) : Out := command 0x07 (onPoint inspectPoint) s

end Sys2Proof.Machine
end

