-- ==== Sys2Proof/Machine/ExchangeCommands.lean ====
section
/-! DEFINITION. The exchange commands and the load inspection (chapters 2 and 3). -/

namespace Sys2Proof.Machine

/-- The length check of R38 (check 3), without wrapping (R191). -/
def badLength (d : Direction) (addr : Word) (length : Nat) : Bool :=
  decide (32768 < length) || (decide (d = .fetch) && decide (length = 0)) || decide (2 ^ 32 < addr.toNat + length)

/-- The checks of POST EXCHANGE after the point id, in order (R38); none means all pass. -/
def postCheck (p : PointId) (s : State) : Option ResultCode :=
  let q := s.point p
  if q.state = .disabled ∨ q.state = .closing then some .badPointState
  else if badLength q.cfg.direction (s.param 1) (s.param 2).toNat then some .badLength
  else if q.cfg.queueLimit ≤ (s.queue p).length then some .queueFull
  else if s.sp.freeList = [] then some .poolEmpty
  else none

/-- The record an accepted POST EXCHANGE fills (R39, R191). -/
def postedSlot (p : PointId) (s : State) : Slot :=
  let w := s.param 0
  { Slot.free with
    state := .queued, point := some p, tag := BitVec.ofNat 16 (field w 16 16), hostAddr := s.param 1,
    length := (s.param 2).toNat, notify := bitAt w 8,
    shortOk := bitAt w 9 && decide ((s.point p).cfg.direction = .fetch) }

/-- The exchange takes the slot at the head of the free list and joins the tail of the point's queue (R39). -/
def enqueue (p : PointId) (x : SlotId) (rest : List SlotId) (s : State) : State :=
  let s1 := (s.setSlot x (postedSlot p s)).setQueue p (s.queue p ++ [x])
  { s1 with sp := { s1.sp with freeList := rest } }

/-- POST EXCHANGE (R38, R39, R191). -/
def postExchange (p : PointId) (s : State) : State × Reply :=
  match postCheck p s with
  | some e => refuse e s
  | none =>
    match s.sp.freeList with
    | [] => refuse .poolEmpty s
    | x :: rest =>
      let t := enqueue p x rest s
      (choose (settle t),
        { code := .accepted, value := x.val, r1 := place (t.queue p).length 0 ||| place rest.length 16, r2 := 0 })

/-- POST_EXCHANGE. -/
def execPostExchange (s : State) : Out := command 0x10 (onPoint postExchange) s

/-- A QUEUED exchange ends by a cancel (R43, rows 2 to 5): it leaves the queue at once, with its record posted where one
is due and the ring has room; with the ring full the first of a queue is held and any other takes cancel_requested. -/
def cancelQueued (x : SlotId) (p : PointId) (s : State) : State × ResultCode :=
  let ended := endWith x (cancelStatus s x) s
  if (s.slot x).notify = false then (choose (settle (advancePoint p (freeSlot x p ended))), .removed)
  else if s.cu.count < 64 then
    (choose (settle (advancePoint p (freeSlot x p (postRecord x p ended)))), .removed)
  else if s.first p = some x then (choose (settle (advancePoint p ended)), .removed)
  else (settle (s.modSlot x fun e => { e with cancelRequested := true }), .pending)

/-- An ACTIVE exchange ends by a cancel, or takes cancel_requested (R43, R44). -/
def cancelActive (x : SlotId) (p : PointId) (s : State) : State × ResultCode :=
  if inFlight s x = false ∧ jobsBesidesStaged s x = 0 then
    (choose (settle (advancePoint p (endWith x (cancelStatus s x) s))), .removed)
  else (settle (s.modSlot x fun e => { e with cancelRequested := true }), .pending)

/-- The decision of CANCEL EXCHANGE by the slot (the table of R43). Where a job end has completed a retirement the slot is
FREE, and the cancel gets NOT_QUEUED by the first row: R45 names ALREADY_ENDING there, which the model gives only while
the exchange is still RETIRING (DEDUCED, log 4). -/
def cancelDecision (x : SlotId) (s : State) : State × ResultCode :=
  let e := s.slot x
  match e.state, e.point with
  | .free, _ => (s, .notQueued)
  | .retiring, _ => (s, .alreadyEnding)
  | .queued, some p => if e.cancelRequested then (s, .pending) else cancelQueued x p s
  | .active, some p =>
    if e.faultMark then (s, .alreadyEnding)
    else if e.cancelRequested then (s, .pending)
    else cancelActive x p s
  | _, none => (s, .notQueued)

/-- CANCEL EXCHANGE (R43). Its value is the slot's state at the end and RESULT1 bit 0 its cancel_requested (R191). -/
def cancelExchange (s : State) : State × Reply :=
  match slotOperand s with
  | none => refuse .badParameter s
  | some x =>
    let r := cancelDecision x s
    (r.1, { code := r.2, value := (r.1.slot x).state.code, r1 := placeBit (r.1.slot x).cancelRequested 0, r2 := 0 })

/-- CANCEL_EXCHANGE. -/
def execCancelExchange (s : State) : Out := command 0x11 cancelExchange s

/-- The final status field of INSPECT SLOT: Fh when not RETIRING (R192). -/
def finalStatusField (e : Slot) : Nat :=
  match e.state, e.status with
  | .retiring, some st => st.code
  | _, _ => 0xF

/-- RESULT1 and RESULT2 of view 0 of INSPECT SLOT (R192). -/
def slotView0 (s : State) (x : SlotId) : Word × Word :=
  let e := s.slot x
  let point := match e.point with
    | some p => place p.val 16 ||| place 1 22
    | none => 0
  (place e.tag.toNat 0 ||| point ||| place (finalStatusField e) 28,
   place e.errors 0 ||| place e.jobs 4 ||| placeBit e.notify 8 ||| placeBit e.shortOk 9 |||
     placeBit e.cancelRequested 10 ||| placeBit e.faultMark 11 ||| placeBit (isHeld s x) 12 |||
     placeBit (inFlight s x) 13 ||| placeSlot (nextSlot s x) 16 24)

/-- RESULT1 and RESULT2 of view 1 of INSPECT SLOT (R192). -/
def slotView1 (s : State) (x : SlotId) : Word × Word :=
  let e := s.slot x
  (place e.length 0 ||| place e.bytesLine 16, place e.bytesMemory 0)

/-- INSPECT SLOT (R50, R192). -/
def inspectSlot (s : State) : State × Reply :=
  match slotOperand s with
  | none => refuse .badParameter s
  | some x =>
    let v := if bitAt (s.param 1) 0 then slotView1 s x else slotView0 s x
    (s, { code := .ok, value := (s.slot x).state.code, r1 := v.1, r2 := v.2 })

/-- INSPECT_SLOT. -/
def execInspectSlot (s : State) : Out := command 0x12 inspectSlot s

/-- The due count of a residue (R65): the points of the periodic list due at it. -/
def dueCount (s : State) (r : Residue) : Nat :=
  (s.fs.periodic.filter fun p => dueAt (s.point p).cfg r.val).length

/-- INSPECT LOAD (R65, R193). -/
def inspectLoad (s : State) : State × Reply :=
  match residueOperand s with
  | none => refuse .badParameter s
  | some r =>
    (s, { code := .ok, value := 0, r1 := place s.fs.load[r] 0 ||| place (admissionLimit s.sc.params) 16,
          r2 := place (dueCount s r) 0 ||| place s.fs.periodic.length 8 })

/-- INSPECT_LOAD. -/
def execInspectLoad (s : State) : Out := command 0x18 inspectLoad s

end Sys2Proof.Machine
end

