-- ==== Sys2Proof/Machine/SegmentCommands.lean ====
section
/-! DEFINITION. The segment commands (chapter 5), CLEAR STATION, RESUME MOVER, RESET CONTROLLER and unknown commands. -/

namespace Sys2Proof.Machine

/-- The result of a segment command other than RESET and STOP: OK with the segment state after it (R106, R193). -/
def segReply (s : State) : Reply := { code := .ok, value := s.sc.state.code, r1 := 0, r2 := 0 }

/-- The result of RESET SEGMENT and STOP SEGMENT: value 0 when made in the happening, 1 when waiting (R106). -/
def waitReply (waits : Bool) : Reply := { code := .ok, value := waits.toNat, r1 := 0, r2 := 0 }

/-- SET SEGMENT PARAMETERS (R122): the parameters in force are returned after every outcome (R189). -/
def setSegmentParameters (s : State) : State × Reply :=
  let q := paramsOperand s
  let reply (t : State) (c : ResultCode) : Reply :=
    { code := c, value := 0, r1 := t.sc.params.word0, r2 := t.sc.params.word1 }
  if s.sc.state = .down then
    if q.inRange then
      if s.fs.periodic = [] then
        let t := { s with sc := { s.sc with params := q } }
        (t, reply t .ok)
      else (s, reply s .periodicActive)
    else (s, reply s .badParameter)
  else (s, reply s .wrongSegmentState)

/-- SET_SEGMENT_PARAMETERS. -/
def execSetSegmentParameters (s : State) : Out := command 0x20 setSegmentParameters s

/-- START SEGMENT (R107). -/
def startSegment (s : State) : State × Reply :=
  if s.sc.state = .down then
    let t := enterResettingByStart s
    (t, segReply t)
  else refuse .wrongSegmentState s

/-- START_SEGMENT. -/
def execStartSegment (s : State) : Out := command 0x21 startSegment s

/-- STOP SEGMENT (R111, R110). -/
def stopSegment (s : State) : State × Reply :=
  if s.sc.state = .down then refuse .wrongSegmentState s
  else if txnInFlight s then ({ s with sc := { s.sc with waiting := .stop } }, waitReply true)
  else (settle (enterDown s), waitReply false)

/-- STOP_SEGMENT. -/
def execStopSegment (s : State) : Out := command 0x22 stopSegment s

/-- The states in which RESET SEGMENT is taken (R106). -/
def resetTaken : SegState → Bool
  | .running | .halting | .halted | .suspending | .suspended => true
  | .down | .resetting | .waking => false

/-- RESET SEGMENT (R110). -/
def resetSegment (s : State) : State × Reply :=
  if resetTaken s.sc.state then
    if txnInFlight s then ({ s with sc := { s.sc with waiting := .reset } }, waitReply true)
    else (settle (enterResettingByReset s), waitReply false)
  else refuse .wrongSegmentState s

/-- RESET_SEGMENT. -/
def execResetSegment (s : State) : Out := command 0x23 resetSegment s

/-- HALT SEGMENT (R112). -/
def haltSegment (s : State) : State × Reply :=
  if segServes s then
    let t := enterHalting s
    (t, segReply t)
  else refuse .wrongSegmentState s

/-- HALT_SEGMENT. -/
def execHaltSegment (s : State) : Out := command 0x24 haltSegment s

/-- RESUME SEGMENT (R116): the scheduler chooses at once where R73 allows. -/
def resumeSegment (s : State) : State × Reply :=
  if s.sc.state = .halted then
    if s.pm.state = .faulted then refuse .moverFaulted s
    else
      let t := choose (raise .segmentChanged (s.setSeg .running))
      (t, segReply t)
  else refuse .wrongSegmentState s

/-- RESUME_SEGMENT. -/
def execResumeSegment (s : State) : Out := command 0x25 resumeSegment s

/-- SUSPEND SEGMENT (R117). -/
def suspendSegment (s : State) : State × Reply :=
  if s.sc.state = .running then
    let t := { s with sc := { s.sc with state := .suspending, suspendDropped := false } }
    (t, segReply t)
  else refuse .wrongSegmentState s

/-- SUSPEND_SEGMENT. -/
def execSuspendSegment (s : State) : Out := command 0x26 suspendSegment s

/-- WAKE SEGMENT (R120). -/
def wakeSegment (s : State) : State × Reply :=
  if s.sc.state = .suspended then
    let t := enterWaking s
    (t, segReply t)
  else refuse .wrongSegmentState s

/-- WAKE_SEGMENT. -/
def execWakeSegment (s : State) : Out := command 0x27 wakeSegment s

/-- A station entry after CLEAR STATION (R128). -/
def clearedStation (x : Station) : Station :=
  { x with alert := false, clash := false, streak := 0,
           presence := match x.presence with
             | .lost => if x.answered then .present else .absent
             | .present => .present
             | .absent => .absent }

/-- RESULT1 of CLEAR STATION: the entry before the command (R194). -/
def stationWord (x : Station) : Word :=
  place x.presence.code 0 ||| place x.silent 4 ||| place x.streak 8 ||| placeBit x.alert 12 |||
    placeBit x.clash 13 ||| placeBit x.answered 14

/-- CLEAR STATION (R128, R194): the scheduler chooses in the command's happening where R73 allows. -/
def clearStation (s : State) : State × Reply :=
  match stationOperand s with
  | none => refuse .badParameter s
  | some i =>
    let before := s.station i
    let after := clearedStation before
    let t := s.setStation i after
    (choose t, { code := .ok, value := 0, r1 := stationWord before, r2 := place after.presence.code 0 })

/-- CLEAR_STATION. -/
def execClearStation (s : State) : Out := command 0x28 clearStation s

/-- RESUME MOVER (R150): the value is the mover state after it (R194). -/
def resumeMover (s : State) : State × Reply :=
  if s.pm.state = .faulted then
    let t := takeJob { s with pm := { s.pm with state := .idle, faultRecord := none } }
    (t, { code := .ok, value := t.pm.state.code, r1 := 0, r2 := 0 })
  else refuse .notFaulted s

/-- RESUME_MOVER. -/
def execResumeMover (s : State) : Out := command 0x30 resumeMover s

/-- RESET_CONTROLLER (R195): the result words are written and the sequence number advances first. -/
def execResetController (s : State) : Out :=
  windowWrite s fun s => beginReset (writeResult 0x5A (Reply.plain .ok) s)

/-- UNKNOWN_COMMAND (R188): its result, and no other change. -/
def execUnknownCommand (code : BitVec 8) (s : State) : Out :=
  if commandCodes.contains code then .refused .illFormed
  else command code (refuse .unknownCommand) s

end Sys2Proof.Machine
end

