-- ==== Sys2Proof/Machine/Line.lean ====
section
/-! DEFINITION. The segment line: packets and their check (R78 to R80), the reception of a station's answer (R81, R82),
the census symbols (R101), the outcomes an answer gives (R87, R91) and the moments of a transaction (R87, R91, R99). -/

namespace Sys2Proof.Machine

/-! ### Packets (R78 to R80) -/

/-- The codes of a REPLY (Table 4-1). -/
inductive ReplyCode where
  | accept
  | defer
  | refuse
  deriving DecidableEq, Repr

/-- The packets of Table 4-1. -/
inductive Packet where
  | frameMark (frame : BitVec 12)
  | census
  | suspendMark
  | request (direction : Direction) (seq : Bool) (station : StationId) (number : Fin 8) (length : Nat)
  | data (seq : Bool) (payload : List Byte)
  | reply (code : ReplyCode)
  deriving DecidableEq, Repr

/-- Bits 1-0 of the header of a REPLY (Table 4-1). -/
def ReplyCode.code : ReplyCode → Nat
  | .accept => 0
  | .defer => 1
  | .refuse => 2

/-- The header byte: the kind in the upper four bits, the low four bits by the kind (R80). -/
def headerByte (kind low : Nat) : Byte := BitVec.ofNat 8 (16 * kind + low)

/-- The bytes of a packet before its check (Table 4-1). -/
def Packet.body : Packet → List Byte
  | .frameMark f => [headerByte 1 0, BitVec.ofNat 8 (f.toNat / 256), BitVec.ofNat 8 (f.toNat % 256)]
  | .census => [headerByte 2 0]
  | .suspendMark => [headerByte 3 0]
  | .request .fetch seq st n len =>
    [headerByte 4 seq.toNat, BitVec.ofNat 8 (8 * stationAddress st + n.val), BitVec.ofNat 8 len]
  | .request .store seq st n len =>
    [headerByte 5 seq.toNat, BitVec.ofNat 8 (8 * stationAddress st + n.val), BitVec.ofNat 8 len]
  | .data seq payload => headerByte 6 seq.toNat :: BitVec.ofNat 8 payload.length :: payload
  | .reply c => [headerByte 7 c.code]

/-- One data bit fed into the check register (R79): the generator x^16 + x^12 + x^5 + 1, the register's top bit leaving
(log 16). -/
def crcBit (r : BitVec 16) (b : Bool) : BitVec 16 :=
  if r.msb != b then (r <<< 1) ^^^ 0x1021#16 else r <<< 1

/-- The data bits of a byte in the order they are sent, least significant first (R78). -/
def byteBits (x : Byte) : List Bool := (List.range 8).map fun i => x.getLsbD i

/-- One byte fed into the check register (R79). -/
def crcByte (r : BitVec 16) (x : Byte) : BitVec 16 := (byteBits x).foldl crcBit r

/-- The check over a list of bytes (R79). -/
def crc (bytes : List Byte) : BitVec 16 := bytes.foldl crcByte 0xFFFF#16

/-- The two check bytes, more significant byte first (R79). -/
def checkBytes (bytes : List Byte) : List Byte :=
  [(crc bytes).extractLsb' 8 8, (crc bytes).extractLsb' 0 8]

/-- All the bytes of a packet. -/
def Packet.bytes (p : Packet) : List Byte := p.body ++ checkBytes p.body

/-- The start pattern (R78). -/
def startPattern : List Bool := [false, false, true, false, true, true, false, true]

/-- The ten bit times of a byte: start bit, data bits, stop bit (R78). -/
def byteLevels (x : Byte) : List Bool := false :: (byteBits x ++ [true])

/-- The levels of a packet on the line, first bit time first (R78). -/
def Packet.levels (p : Packet) : List Bool := startPattern ++ p.bytes.flatMap byteLevels

/-- The packet the head is sending (R83, R85, R87, R91, R100, R101); none while it sends no packet: in the quiet after a
FRAME MARK or the CENSUS packet, in the gap before a DATA or an ACCEPT, and while a station may send. Reset and wake
signalling are no packets (`signalLevel`). -/
def headPacket (s : State) : Option Packet :=
  match s.le.state with
  | .marking =>
    if s.sc.state = .suspended then (if s.le.lineBits < 38 then some .suspendMark else none)
    else if s.fs.elapsed < 58 then some (.frameMark s.fs.frame)
    else none
  | .census => if s.fs.elapsed + 130 < s.sc.params.frameLength then some .census else none
  | .requesting =>
    s.le.txn.bind fun t =>
      if s.fs.elapsed < t.began + 58 then
        some (.request t.direction t.seq (s.point t.point).cfg.station (s.point t.point).cfg.number t.requested)
      else none
  | .sendingData =>
    s.le.txn.bind fun t =>
      if t.began + 66 ≤ s.fs.elapsed ∧ s.fs.elapsed < t.began + 114 + 10 * t.requested then
        some (.data t.seq ((s.buffer t.buffer).data.toList.take t.requested))
      else none
  | .acknowledging =>
    s.le.txn.bind fun t =>
      match t.answerBegan, t.received with
      | some began, some (k, _) =>
        if began + 56 + 10 * k ≤ s.fs.elapsed ∧ s.fs.elapsed < began + 94 + 10 * k then some (.reply .accept) else none
      | _, _ => none
  | .off | .signalling | .idle | .awaitReply | .awaitAnswer | .receiving => none

/-- The level the head drives in bit time `i` of signalling (R102): 0 throughout reset signalling, 0 and 1 in alternate
bit times, beginning with 0, in wake signalling. -/
def signalLevel (s : State) (i : Nat) : Option Bool :=
  match s.le.state, s.sc.state with
  | .signalling, .resetting => some false
  | .signalling, .waking => some (decide (i % 2 = 1))
  | _, _ => none

/-- Whether the line drive asserts LDE while the head sends a level (R186, section 9.10): open-drain drives only level 0. -/
def driverEnabled (c : HostConfig) (level : Bool) : Bool := c.pushPull || !level

/-! ### Reception (R81, R82) -/

/-- The level of bit time `i` of an answer; where the station does not drive, the line reads 1 (R81). -/
def levelAt (rx : List Bool) (i : Nat) : Bool := rx.getD i true

/-- The first 8 bt form the start pattern (R81). -/
def startOk (rx : List Bool) : Bool := decide ((List.range 8).map (levelAt rx) = startPattern)

/-- Byte `i` of a packet as received: its eight data bits, least significant first (R78). -/
def byteAt (rx : List Bool) (i : Nat) : Byte :=
  BitVec.ofNat 8 (((List.range 8).map fun j => if levelAt rx (8 + 10 * i + 1 + j) then 2 ^ j else 0).sum)

/-- Byte `i` is framed correctly: a start bit of 0 and a stop bit of 1 (R81). -/
def framedAt (rx : List Bool) (i : Nat) : Bool := !levelAt rx (8 + 10 * i) && levelAt rx (8 + 10 * i + 9)

/-- The first `n` bytes received. -/
def receivedBytes (rx : List Bool) (n : Nat) : List Byte := (List.range n).map (byteAt rx)

/-- A received packet of `n` bytes is well-formed (R81): start pattern, framing and check. -/
def wellFormedRx (rx : List Bool) (n : Nat) : Bool :=
  startOk rx && (List.range n).all (framedAt rx) &&
    decide (checkBytes (receivedBytes rx (n - 2)) = [byteAt rx (n - 2), byteAt rx (n - 1)])

/-- The kind a header byte carries (R80). -/
def kindOf (h : Byte) : Nat := h.toNat / 16

/-- The outcome the answer of a station gives. -/
inductive Answer where
  /-- A well-formed REPLY of code 0, 1 or 2. -/
  | reply (code : ReplyCode)
  /-- A well-formed DATA of k bytes, k not above m, with its sequence bit. -/
  | data (k : Nat) (seq : Bool)
  /-- No answer began within T. -/
  | silent
  /-- A CHECK error; the flag says whether the packet was well-formed, of wrong kind (R98). -/
  | check (wellFormed : Bool)
  /-- A DATA whose length byte gives k above m (R94). -/
  | overlength
  deriving DecidableEq, Repr

/-- A three-byte answer (R81): a well-formed REPLY gives its code; everything else is a CHECK error. -/
def shortAnswer (rx : List Bool) : Answer :=
  if wellFormedRx rx 3 then
    if kindOf (byteAt rx 0) = 7 then
      match (byteAt rx 0).toNat % 4 with
      | 0 => .reply .accept
      | 1 => .reply .defer
      | 2 => .reply .refuse
      | _ => .check true
    else .check true
  else .check false

/-- The answer to a STORE DATA (R81, R87): three bytes. -/
def storeAnswer (rx : List Bool) : Answer := shortAnswer rx

/-- The answer to a FETCH REQUEST of `m` bytes, with how long its reception lasts in bit times (R81, R91, R94, R96,
R99). A REPLY of code 0 is no answer to a FETCH. -/
def fetchAnswer (m : Nat) (rx : List Bool) : Answer × Nat :=
  if kindOf (byteAt rx 0) = 6 then
    if framedAt rx 1 then
      let k := (byteAt rx 1).toNat
      if k ≤ m then
        if wellFormedRx rx (4 + k) then (.data k ((byteAt rx 0).getLsbD 0), 48 + 10 * k)
        else (.check false, 48 + 10 * k)
      else (.overlength, 48 + 10 * m)
    else (.check false, 28)
  else
    match shortAnswer rx with
    | .reply .accept => (.check true, 38)
    | a => (a, 38)

/-- The payload bytes of a received DATA of `k` bytes. -/
def rxPayload (rx : List Bool) (k : Nat) : List Byte := (List.range k).map fun i => byteAt rx (2 + i)

/-! ### The moments of a transaction (R87, R91) -/

/-- The elapsed time at which the answer window opens: the end of a FETCH REQUEST or of a STORE DATA (R82). -/
def windowOpens (t : Txn) : Nat :=
  match t.direction with
  | .fetch => t.began + 58
  | .store => t.began + 114 + 10 * t.requested

/-! ### The census (R101) -/

/-- What a census slot shows (R101). -/
inductive CensusAnswer where
  | silence
  | present
  | alert
  | garbled
  deriving DecidableEq, Repr

/-- Reading a census slot (R101). -/
def readSlot (v : SlotLevels) : CensusAnswer :=
  match v.l0, v.l1, v.l2, v.l3 with
  | true, true, true, true => .silence
  | false, false, true, true => .present
  | false, true, false, true => .alert
  | _, _, _, _ => .garbled

end Sys2Proof.Machine
end

