-- ==== Sys2Proof/Machine/Frame.lean ====
section
/-! DEFINITION. The happenings of the frame timer, the census and the signalling (chapters 3 to 5). A timed happening
moves the elapsed time to its moment (log 2). -/

namespace Sys2Proof.Machine

/-- A happening of the frame timer at elapsed time `moment`: the timer runs and has not passed the moment. -/
def timedAt (moment : Nat) (s : State) : Bool := s.fs.running && decide (s.fs.elapsed ≤ moment)

/-- MARK_END (R57): the line engine is IDLE, the region opens and the scheduler chooses. -/
def execMarkEnd (s : State) : Out :=
  if s.le.state = .marking ∧ timedAt 64 s = true then
    .next (choose ((s.setElapsed 64).setLine .idle))
  else .refused .notDue

/-- CENSUS_START (R58): the due list is settled and emptied, the CENSUS packet begins, and halt requests of the misses
are taken (R68, R115). -/
def execCensusStart (s : State) : Out :=
  let moment := s.sc.params.frameLength - 168
  if s.le.state = .idle ∧ timedAt moment s = true then
    let s1 := settleDue (s.setElapsed moment)
    .next (takeHaltRequests { s1 with le := { s1.le with state := .census, slotsRead := 0 } })
  else .refused .notDue

/-- The SUSPEND MARK begins (R55, R118): the timer stops, the frame number is kept, the segment is SUSPENDED and
SEGMENT_CHANGED is raised. -/
def beginSuspendMark (s : State) : State :=
  raise .segmentChanged
    { s with
      sc := { s.sc with state := .suspended }
      fs := { s.fs with running := false, due := [] }
      le := { s.le with state := .marking, slotsRead := 0, lineBits := 0 } }

/-- FRAME_END (R55): the next frame opens with FRAME_TICK in RUNNING and HALTED, and a SUSPEND MARK begins in
SUSPENDING. It comes after the 30 slots of the census, each of which has been reported (R101). -/
def execFrameEnd (s : State) : Out :=
  if s.le.state = .census ∧ timedAt s.sc.params.frameLength s = true ∧ s.le.slotsRead = 30 then
    let s1 := s.setElapsed s.sc.params.frameLength
    match s.sc.state with
    | .running => .next (raise .frameTick (beginFrame (s.fs.frame + 1) s1))
    | .halted => .next (raise .frameTick (beginFrame (s.fs.frame + 1) s1))
    | .suspending => .next (beginSuspendMark s1)
    | .down | .resetting | .halting | .suspended | .waking => .refused .notDue
  else .refused .notDue

/-- An answer of any kind to the census (R124): PRESENT, ALERT or garbled. -/
def censusAnswered (i : StationId) (s : State) : State :=
  let x := s.station i
  let s1 := s.setStation i { x with silent := 0, answered := true }
  if x.presence = .absent then
    raise .stationAttached (s1.modStation i fun y => { y with presence := .present, streak := 0 })
  else s1

/-- An ALERT answer (R124). -/
def censusAlert (i : StationId) (s : State) : State :=
  if (s.station i).alert then s else raise .stationAlert (s.modStation i fun y => { y with alert := true })

/-- A garbled answer (R124). -/
def censusClash (i : StationId) (s : State) : State :=
  if (s.station i).clash then s else raise .addressClash (s.modStation i fun y => { y with clash := true })

/-- Silence in the slot of a station (R125): the count rises to at most 15, and a PRESENT or LOST station at the detach
count is detached, with its points halted and their ACTIVE exchanges ended. -/
def censusSilence (i : StationId) (s : State) : State :=
  let x := s.station i
  let n := min 15 (x.silent + 1)
  let s1 := s.setStation i { x with answered := false, silent := n }
  if x.presence ≠ .absent ∧ s.sc.params.detachCount ≤ n then
    settle (takeHaltRequests (stationGone .stationDetached i
      (raise .stationDetached (s1.modStation i fun y => { y with presence := .absent }))))
  else s1

/-- The effect of a census slot (R124, R125), halt requests included (R127). -/
def applyCensus (a : CensusAnswer) (i : StationId) (s : State) : State :=
  match a with
  | .silence => censusSilence i s
  | .present => takeHaltRequests (censusAnswered i s)
  | .alert => takeHaltRequests (censusAlert i (censusAnswered i s))
  | .garbled => takeHaltRequests (censusClash i (censusAnswered i s))

/-- CENSUS_SLOT_END (R101, R124): the slot of station a ends at L - 130 + 4a, and each of the 30
slots is reported, in address order. -/
def execCensusSlotEnd (i : StationId) (levels : SlotLevels) (s : State) : Out :=
  let moment := s.sc.params.frameLength - 130 + 4 * stationAddress i
  if s.le.state = .census ∧ timedAt moment s = true ∧ s.le.slotsRead + 1 = stationAddress i then
    let s1 := s.setElapsed moment
    .next (applyCensus (readSlot levels) i { s1 with le := { s1.le with slotsRead := stationAddress i } })
  else .refused .notDue

/-- SUSPEND_MARK_END (R100, R118): the line engine is IDLE and begins to watch for the wake pattern. -/
def execSuspendMarkEnd (s : State) : Out :=
  if s.le.state = .marking ∧ s.sc.state = .suspended then
    .next { s with le := { s.le with state := .idle, lineBits := 0, lowBits := 0 } }
  else .refused .notDue

/-- RESET_SIGNALLING_END (R109): frame 0 opens, in RUNNING or HALTED. -/
def execResetSignallingEnd (s : State) : Out :=
  if s.le.state = .signalling ∧ s.sc.state = .resetting then .next (openAfterSignalling 0 s)
  else .refused .notDue

/-- WAKE_SIGNALLING_END (R120): the frame after the one kept opens, in RUNNING or HALTED. -/
def execWakeSignallingEnd (s : State) : Out :=
  if s.le.state = .signalling ∧ s.sc.state = .waking then .next (openAfterSignalling (s.fs.frame + 1) s)
  else .refused .notDue

/-- The wake pattern is reported to SC (R119): STATION_WAKE is raised, and with auto_wake the segment enters WAKING. -/
def reportWake (s : State) : State :=
  let s1 := raise .stationWake s
  if s.sc.params.autoWake then enterWaking s1 else s1

/-- One bit time of the line at a level (R102). While the head watches it, a level of 1 ends a hold; the hundredth bit time
of a hold at 0 reports the wake pattern, and a hold that goes on is not reported again. -/
def watchBit (s : State) (level : Bool) : State :=
  if watchesLine s then
    let s1 : State := { s with le := { s.le with lowBits := if level then 0 else min 100 (s.le.lowBits + 1) } }
    if level = false ∧ s.le.lowBits = 99 then reportWake s1 else s1
  else s

/-- WAKE_PATTERN (R102, R119): the levels of successive bit times. Outside SUSPENDED, or before the SUSPEND MARK has ended,
the line is not watched and nothing is reported. -/
def execWakePattern (s : State) (levels : List Bool := List.replicate 100 false) : Out := .next (levels.foldl watchBit s)

end Sys2Proof.Machine
end

