-- ==== Sys2Proof/Machine/Transaction.lean ====
section
/-! DEFINITION. The happenings of a transaction on the segment (chapter 4). -/

namespace Sys2Proof.Machine

/-- REQUEST_END (R83): 58 bt after the beginning, SENDING_DATA for STORE and AWAIT_ANSWER for FETCH. -/
def execRequestEnd (s : State) : Out :=
  if s.le.state = .requesting then
    match s.le.txn with
    | none => .fault .brokenState
    | some t =>
      if timedAt (t.began + 58) s then
        let s1 := s.setElapsed (t.began + 58)
        match t.direction with
        | .store => .next (s1.setLine .sendingData)
        | .fetch => .next (s1.setLine .awaitAnswer)
      else .refused .notDue
  else .refused .notDue

/-- STORE_DATA_END (R87): 114 + 10n bt after the beginning the answer window opens. -/
def execStoreDataEnd (s : State) : Out :=
  if s.le.state = .sendingData then
    match s.le.txn with
    | none => .fault .brokenState
    | some t =>
      if timedAt (windowOpens t) s then .next ((s.setElapsed (windowOpens t)).setLine .awaitReply)
      else .refused .notDue
  else .refused .notDue

/-- The answer of the transaction in flight begins at an elapsed time (R82): a FETCH enters RECEIVING, a STORE stays in
AWAIT_REPLY for the reception (R83). -/
def answerAt (t : Txn) (moment : Nat) (s : State) : State :=
  let s1 := s.setElapsed moment
  { s1 with le := { s1.le with
      state := if t.direction = .fetch then .receiving else .awaitReply
      txn := some { t with answerBegan := some moment } } }

/-- ANSWER_BEGINS (R82): the line falls within T of the opening of the answer window. With no answer window open the
head ignores line activity. -/
def execAnswerBegins (delay : Nat) (s : State) : Out :=
  if s.le.state = .awaitReply ∨ s.le.state = .awaitAnswer then
    match s.le.txn with
    | none => .fault .brokenState
    | some t =>
      if t.answerBegan.isSome then .next s
      else
        let moment := windowOpens t + delay
        if delay ≤ s.sc.params.replyTimeout ∧ timedAt moment s = true then .next (answerAt t moment s)
        else .refused .notDue
  else .next s

/-- The payload received is in the buffer of the transaction, and its DATA waits to be acknowledged (R81, R91). -/
def receiveData (t : Txn) (k : Nat) (seq : Bool) (payload : List Byte) (moment : Nat) (s : State) : State :=
  let s1 := (s.setElapsed moment).modBuffer t.buffer fun r =>
    { r with data := writeBytes r.data 0 payload }
  { s1 with le := { s1.le with state := .acknowledging, txn := some { t with received := some (k, seq) } } }

/-- DATA_RECEIVED (R81, R91): the reception of a well-formed DATA with k not above m ends 48 + 10k bt after the answer
began, and the line engine acknowledges it. -/
def execDataReceived (levels : List Bool) (s : State) : Out :=
  if s.le.state = .receiving then
    match s.le.txn with
    | none => .fault .brokenState
    | some t =>
      match t.answerBegan with
      | none => .fault .brokenState
      | some began =>
        match fetchAnswer t.requested levels with
        | (.data k seq, length) =>
          if timedAt (began + length) s then
            .next (receiveData t k seq (rxPayload levels k) (began + length) s)
          else .refused .notDue
        | _ => .refused .notDue
  else .refused .notDue

/-! ### The outcomes (R88 to R97) -/

/-- Toggle the sequence bit of a point (R21). -/
def toggleSeq (p : PointId) (s : State) : State := s.modPoint p fun q => { q with seq := !q.seq }

/-- A DEFER to an ASYNC point sets its defer count to its defer interval (R22). -/
def deferPoint (p : PointId) (s : State) : State :=
  if (s.point p).cfg.kind = .async then s.modPoint p fun q => { q with deferCount := q.cfg.deferInterval } else s

/-- What remains of the exchange after an outcome: its queue is followed (R41, R42, R44, R46). -/
def afterOutcome (t : Txn) (s : State) : State := advancePoint t.point s

/-- STORE ACCEPT (R88). -/
def storeAccept (t : Txn) (s : State) : State :=
  let s1 := toggleSeq t.point (s.modSlot t.slot fun e => { e with bytesLine := e.bytesLine + t.requested, errors := 0 })
  let s2 := freeBuffer t.buffer s1
  let e := s2.slot t.slot
  afterOutcome t (if e.bytesLine < e.length then s2 else endExchange t.slot .done s2)

/-- A REFUSE ends the exchange and halts the point (R89, R95): POINT_HALTED comes before COMPLETION_POSTED (R14). It comes
before a COMPLETION_BACKLOG too, which R14 and R156 leave open (DEDUCED, log 30). -/
def refuseOutcome (t : Txn) (s : State) : State :=
  afterOutcome t (haltPoint .refused t.point (endExchange t.slot .refused s))

/-- An error (R90, R96, R97): errors rises by 1, and at the attempt limit the exchange ends and the point is halted.
POINT_HALTED comes before COMPLETION_POSTED (R14), and before a COMPLETION_BACKLOG too (DEDUCED, log 30). -/
def errorOutcome (t : Txn) (st : Status) (s : State) : State :=
  let s1 := s.modSlot t.slot fun e => { e with errors := e.errors + 1 }
  afterOutcome t
    (if (s1.point t.point).cfg.attemptLimit ≤ (s1.slot t.slot).errors then
      haltPoint .attempts t.point (endExchange t.slot st s1)
    else s1)

/-- FETCH DATA with sequence S for an exchange with no pending mark (R92). -/
def fetchTaken (t : Txn) (k : Nat) (s : State) : State :=
  let e := s.slot t.slot
  let s1 := toggleSeq t.point (s.modSlot t.slot fun e => { e with bytesLine := e.bytesLine + k, errors := 0 })
  let s2 :=
    if k = 0 then freeBuffer t.buffer s1
    else
      let s3 := s1.modBuffer t.buffer fun r =>
        { r with state := .draining, count := k, addr := some (e.hostAddr + BitVec.ofNat 32 e.bytesLine) }
      { s3 with pm := { s3.pm with drainQueue := s3.pm.drainQueue ++ [t.buffer] } }
  afterOutcome t
    (if e.length ≤ e.bytesLine + k then endExchange t.slot .done s2
    else if k < t.requested then endExchange t.slot (if e.shortOk then .done else .short) s2
    else s2)

/-- FETCH DATA acknowledged and discarded (R93): a repeat leaves the sequence bit, data under a pending mark toggles it. -/
def fetchDiscarded (t : Txn) (toggles : Bool) (s : State) : State :=
  let s1 := s.modSlot t.slot fun e => { e with errors := 0 }
  let s2 := if toggles then toggleSeq t.point s1 else s1
  afterOutcome t (freeBuffer t.buffer s2)

/-- An acknowledged FETCH DATA (R92, R93). -/
def fetchData (t : Txn) (k : Nat) (seq : Bool) (s : State) : State :=
  if seq = t.seq then
    if (s.slot t.slot).cancelRequested || (s.slot t.slot).faultMark then fetchDiscarded t true s else fetchTaken t k s
  else fetchDiscarded t false s

/-- The outcome of a STORE transaction (R87 to R90). -/
def storeOutcome (t : Txn) (a : Answer) (s : State) : State :=
  match a with
  | .reply .accept => storeAccept t s
  | .reply .defer => afterOutcome t (deferPoint t.point s)
  | .reply .refuse => refuseOutcome t (freeBuffer t.buffer s)
  | .silent => errorOutcome t .failedSilent s
  | .check _ => errorOutcome t .failedCheck s
  | .data _ _ => errorOutcome t .failedCheck s
  | .overlength => errorOutcome t .failedCheck s

/-- The outcome of a FETCH transaction (R91 to R96). -/
def fetchOutcome (t : Txn) (a : Answer) (s : State) : State :=
  match a with
  | .data k seq => fetchData t k seq s
  | .reply .defer => afterOutcome t (deferPoint t.point (freeBuffer t.buffer s))
  | .reply .refuse => refuseOutcome t (freeBuffer t.buffer s)
  | .silent => errorOutcome t .failedSilent (freeBuffer t.buffer s)
  | .check _ => errorOutcome t .failedCheck (freeBuffer t.buffer s)
  | .reply .accept => errorOutcome t .failedCheck (freeBuffer t.buffer s)
  | .overlength => errorOutcome t .failedOverlength (freeBuffer t.buffer s)

/-- The outcome of a transaction on the exchange, the point and the buffer (R86). -/
def applyOutcome (t : Txn) (a : Answer) (s : State) : State :=
  match t.direction with
  | .store => storeOutcome t a s
  | .fetch => fetchOutcome t a s

/-! ### The timeout streak (R98, R126) -/

/-- The timeout streak after an ending (R98). -/
def streakAfter (a : Answer) (n : Nat) : Nat :=
  match a with
  | .silent => min 15 (n + 1)
  | .reply _ => 0
  | .data _ _ => 0
  | .check true => 0
  | .check false => n
  | .overlength => n

/-- The station of a transaction's point at its end (R98, R126): the streak changes, and a PRESENT station whose streak
has risen to the silence limit is LOST. -/
def applyStreak (i : StationId) (a : Answer) (s : State) : State :=
  let x := s.station i
  let n := streakAfter a x.streak
  let s1 := s.setStation i { x with streak := n }
  if a = .silent ∧ s.sc.params.silenceLimit ≤ n ∧ x.presence = .present then
    stationGone .stationLost i (raise .stationLost (s1.modStation i fun y => { y with presence := .lost }))
  else s1

/-! ### The end (R86, R115) -/

/-- The end of a transaction at an elapsed time with an answer: the record is removed, the outcome applied, then the
station, the waiting transition, the halt requests, the grants and the choice, in the order of R86 and R115. -/
def endTxn (t : Txn) (a : Answer) (moment : Nat) (s : State) : State :=
  let s1 := s.setElapsed moment
  let s2 := { s1 with le := { s1.le with state := .idle, txn := none } }
  let s3 := applyStreak (s.point t.point).cfg.station a (applyOutcome t a s2)
  choose (settle (takeHaltRequests (carryOutWaiting s3)))

/-- The moment and the answer of the end of a transaction in a line engine state (R86, R87, R91, R99); none where the
transaction does not end in that state. -/
def txnEnding (q : SegParams) (l : LineState) (t : Txn) (levels : List Bool) : Option (Nat × Answer) :=
  match l with
  | .awaitReply =>
    match t.answerBegan with
    | none => some (windowOpens t + q.replyTimeout, .silent)
    | some began => some (began + 38, storeAnswer levels)
  | .awaitAnswer => some (windowOpens t + q.replyTimeout, .silent)
  | .receiving =>
    match t.answerBegan, fetchAnswer t.requested levels with
    | none, _ => none
    | some _, (.data _ _, _) => none
    | some began, (a, length) => some (began + length, a)
  | .acknowledging =>
    match t.answerBegan, t.received with
    | some began, some (k, seq) => some (began + 94 + 10 * k, .data k seq)
    | _, _ => none
  | .off | .signalling | .marking | .idle | .requesting | .sendingData | .census => none

/-- TRANSACTION_END (R86). -/
def execTransactionEnd (levels : List Bool) (s : State) : Out :=
  match s.le.txn with
  | none => .refused .notDue
  | some t =>
    match txnEnding s.sc.params s.le.state t levels with
    | some (moment, a) => if timedAt moment s then .next (endTxn t a moment s) else .refused .notDue
    | none => .refused .notDue

end Sys2Proof.Machine
end

