-- ==== Sys2Proof/Machine/Tick.lean ====
section
/-! DEFINITION. One bit time of the line clock, which the step takes when no command waits (log 1). The timer never runs
past the next moment at which the line engine has something to do, so a timed happening is never late. -/

namespace Sys2Proof.Machine

/-- The latest elapsed time of the next timed happening in the present line engine state (R52, R57, R58, R87, R91,
R101). -/
def nextMoment (s : State) : Nat :=
  let q := s.sc.params
  match s.le.state with
  | .marking => 64
  | .idle => q.frameLength - 168
  | .census =>
    if s.le.slotsRead < 30 then q.frameLength - 130 + 4 * (s.le.slotsRead + 1) else q.frameLength
  | .requesting => (s.le.txn.map fun t => t.began + 58).getD 0
  | .sendingData => (s.le.txn.map windowOpens).getD 0
  | .awaitReply =>
    (s.le.txn.map fun t => match t.answerBegan with
      | none => windowOpens t + q.replyTimeout
      | some began => began + 38).getD 0
  | .awaitAnswer => (s.le.txn.map fun t => windowOpens t + q.replyTimeout).getD 0
  | .receiving =>
    (s.le.txn.map fun t => (t.answerBegan.getD 0) + 28).getD 0
  | .acknowledging =>
    (s.le.txn.map fun t => (t.answerBegan.getD 0) + 94 + 10 * (t.received.map (·.1)).getD 0).getD 0
  | .off | .signalling => 0

/-- How many bit times the signalling or SUSPEND MARK under way lasts (R100, R102, R108, R120); 0 where there is none. -/
def signalSpan (s : State) : Nat :=
  match s.le.state, s.sc.state with
  | .signalling, .resetting => 2000
  | .signalling, .waking => 1000
  | .marking, .suspended => 38
  | _, _ => 0

/-- One bit time passes. While the line is watched for the wake pattern no station drives it in that bit time, so that it
reads 1 and a hold ends (R81, R102). -/
def tick (s : State) : State :=
  if s.fs.running then
    if s.fs.elapsed < nextMoment s then s.setElapsed (s.fs.elapsed + 1) else s
  else if s.le.lineBits < signalSpan s then { s with le := { s.le with lineBits := s.le.lineBits + 1 } }
  else if watchesLine s then { s with le := { s.le with lowBits := 0 } }
  else s

end Sys2Proof.Machine
end

