-- ==== Sys2Proof/Machine/WindowWrites.lean ====
section
/-! DEFINITION. The register writes of the window that are not command writes (chapters 7 to 9). -/

namespace Sys2Proof.Machine

/-- The posting walk of a release (R159 step 3, R160): while points are held and the ring has room, the record of the
first held point's first exchange is written, its slot freed and its queue followed. Each round writes a record, so 64
rounds suffice. -/
def postingWalk : Nat → State → State
  | 0, s => s
  | n + 1, s =>
    match s.cu.held with
    | [] => s
    | p :: rest =>
      if s.cu.count < 64 then
        let s1 := { s with cu := { s.cu with held := rest } }
        match s.first p with
        | some x =>
          let s2 := freeSlot x p (postRecord x p s1)
          postingWalk n (advance true p (s2.queue p) s2)
        | none => postingWalk n s1
      else s

/-- Step 1 of R159: the tail advances and the count falls by min(n, count). -/
def releaseRecords (n : Nat) (s : State) : State :=
  let k := min n s.cu.count
  { s with cu := { s.cu with tail := s.cu.tail + Fin.ofNat 64 k, count := s.cu.count - k } }

/-- COMPLETION RELEASE (R159): advance, excess, posting walk; what the walk frees is weighed for staging and by the
scheduler (R160). -/
def release (word : Word) (s : State) : State :=
  let s1 := releaseRecords word.toNat s
  let s2 := if s.cu.count < word.toNat then
      raise .accessFault (setAccess (fun a => { a with releaseExcess := true }) s1)
    else s1
  if s2.cu.held = [] then s2 else choose (settle (postingWalk 64 s2))

/-- COMPLETION_RELEASE. -/
def execCompletionRelease (word : Word) (s : State) : Out := windowWrite s (release word)

/-- EVENT ACK (R172, R173): the number is the low eight bits of the word. -/
def acknowledge (word : Word) (s : State) : State :=
  if s.eu.ackValid (word.setWidth 8) then { s with eu := s.eu.acknowledge s.hw.config }
  else raise .accessFault (setAccess (fun a => { a with staleAck := true }) s)

/-- EVENT_ACK. -/
def execEventAck (word : Word) (s : State) : Out := windowWrite s (acknowledge word)

/-- EVENT_QUIET_WRITE (R167). -/
def execEventQuietWrite (word : Word) (s : State) : Out :=
  windowWrite s fun s => { s with eu := { s.eu with quiet := s.eu.quiet &&& ~~~ (word.setWidth 15) } }

/-- ACCESS_STATUS_WRITE (R184). -/
def execAccessStatusWrite (word : Word) (s : State) : Out := windowWrite s (setAccess fun a => a.clearBits word)

/-- HOST CONFIG as a word carries it (R186). -/
def HostConfig.ofWord (w : Word) : HostConfig :=
  { maxBurst := w.extractLsb' 0 2, retryLimit := w.extractLsb' 8 6, attnEnable := bitAt w 16, alarmEnable := bitAt w 17,
    pushPull := bitAt w 24 }

/-- A write to HOST CONFIG replaces all five fields; a change of a line enable re-evaluates both lines (R186, R177). -/
def writeHostConfig (word : Word) (s : State) : State :=
  let c := HostConfig.ofWord word
  let t := { s with hw := { s.hw with config := c } }
  if c.attnEnable = s.hw.config.attnEnable ∧ c.alarmEnable = s.hw.config.alarmEnable then t
  else { t with eu := t.eu.evaluateLines c }

/-- HOST_CONFIG_WRITE. -/
def execHostConfigWrite (word : Word) (s : State) : Out := windowWrite s (writeHostConfig word)

/-- REPORT_ENABLE_WRITE (R165): MOVER_FAULT reads as on whatever is written. -/
def execReportEnableWrite (word : Word) (s : State) : Out :=
  windowWrite s fun s =>
    { s with eu := { s.eu with reportEnable := (word.setWidth 15 &&& reportWritable) ||| reportFixed } }

/-- HALT_ENABLE_WRITE (R165): only the five configurable causes are written. -/
def execHaltEnableWrite (word : Word) (s : State) : Out :=
  windowWrite s fun s =>
    { s with eu := { s.eu with haltEnable := (word.setWidth 15 &&& haltWritable) ||| haltFixed } }

/-- ROUTE_WRITE (R165, R177): both lines are re-evaluated with no release interval. -/
def execRouteWrite (word : Word) (s : State) : Out :=
  windowWrite s fun s =>
    { s with eu := { s.eu with route := word.setWidth 15 }.evaluateLines s.hw.config }

/-- REGISTER_WRITE: a parameter word takes the word written (R187). -/
def execRegisterWrite (param : Fin 4) (word : Word) (s : State) : Out :=
  windowWrite s fun s => { s with hw := { s.hw with params := s.hw.params.set param word } }

/-- READ_ONLY_WRITE (R184): the register stays as it was, the flag is set and ACCESS_FAULT raised. -/
def execReadOnlyWrite (_reg : ReadOnlyReg) (_word : Word) (s : State) : Out :=
  windowWrite s fun s => raise .accessFault (setAccess (fun a => { a with readOnlyWrite := true }) s)

/-- UNDEFINED_OFFSET (R184): the flag is set and ACCESS_FAULT raised, for a read and for a write; while a controller
reset is pending no flag is set (R195). -/
def execUndefinedOffset (_isWrite : Bool) (offset : BitVec 7) (enables : BitVec 4) (s : State) : Out :=
  if isWordAccess offset enables then .refused .illFormed
  else windowWrite s fun s => raise .accessFault (setAccess (fun a => { a with undefinedOffset := true }) s)

/-- RELEASE_INTERVAL_END (R176): the line is asserted if it is due. -/
def execReleaseIntervalEnd (line : IntLine) (s : State) : Out :=
  if s.eu.line line = .interval then
    let after := IrqState.intervalEnd (s.eu.lineDue s.hw.config line)
    match line with
    | .attn => .next { s with eu := { s.eu with attn := after } }
    | .alarm => .next { s with eu := { s.eu with alarm := after } }
  else .refused .notDue

/-- DEVICE_RESET (R197): every block takes its reset values and HOST CONFIG its defaults; no slave cycle is answered
until the pin is released. The contents of the ring places and of the buffers stay (logs 7, 8). -/
def execDeviceReset (s : State) : Out :=
  .next { completeReset s with hw := { HostWindow.reset with resetPin := true } }

/-- RESET_PIN_RELEASED (R197): slave cycles are answered again. -/
def execResetPinReleased (s : State) : Out :=
  if s.hw.resetPin then .next { s with hw := { s.hw with resetPin := false } } else .refused .notDue

end Sys2Proof.Machine
end

