-- ==== Sys2Proof/Machine/WindowReads.lean ====
section
/-! DEFINITION. What the host reads in the register window (Table 9-1, Table 9-2, Table 7-1). A word read changes no state
(R181), so it is a function of the state and no command. -/

namespace Sys2Proof.Machine

/-- HOST CONFIG as a read returns it (R186). -/
def HostConfig.word (c : HostConfig) : Word :=
  place c.maxBurst.toNat 0 ||| place c.retryLimit.toNat 8 ||| placeBit c.attnEnable 16 ||| placeBit c.alarmEnable 17 |||
    placeBit c.pushPull 24

/-- COMMAND: the last code and the sequence number (R188). -/
def commandWord (s : State) : Word := place s.hw.lastCode.toNat 0 ||| place s.hw.seqNumber.toNat 16

/-- SEGMENT STATUS (Table 9-2). -/
def segmentStatusWord (s : State) : Word :=
  place s.sc.state.code 0 ||| placeBit s.sc.haltPending 3 ||| placeBit s.sc.suspendDropped 4 |||
    place s.pm.state.code 8 ||| place s.fs.frame.toNat 16

/-- EVENT PRESENTED (R178). -/
def eventPresentedWord (s : State) : Word := place s.eu.presented.toNat 0 ||| place s.eu.number.toNat 16

/-- COMPLETION STATUS (R161). -/
def completionStatusWord (s : State) : Word :=
  place s.cu.head.val 0 ||| place s.cu.tail.val 8 ||| place s.cu.count 16 ||| place s.cu.held.length 24

/-- The record at the tail, shown while the count is above 0 (R158). -/
def viewedRecord (s : State) : Option Record := if s.cu.count = 0 then none else some s.cu.ring[s.cu.tail]

/-- COMPLETION VIEW 0 (Table 7-1). -/
def viewWord0 (s : State) : Word :=
  match viewedRecord s with
  | some r => place 1 31 ||| place r.point.val 24 ||| place r.slot.val 16 ||| place r.tag.toNat 0
  | none => 0

/-- COMPLETION VIEW 1 (Table 7-1). -/
def viewWord1 (s : State) : Word :=
  match viewedRecord s with
  | some r => place r.errors 20 ||| place r.status.code 16 ||| place r.bytesDone 0
  | none => 0

/-- COMPLETION VIEW 2 (Table 7-1). -/
def viewWord2 (s : State) : Word :=
  match viewedRecord s with
  | some r => place s.cu.tail.val 16 ||| place r.frame.toNat 0
  | none => 0

/-- A set of stations, bit a for address a (Table 9-2). -/
def stationSet (s : State) (f : Station → Bool) : Word :=
  (List.finRange 30).foldl (fun w i => w ||| placeBit (f (s.station i)) (stationAddress i)) 0

/-- The HALTED points of 32 ids from `base` on, bit i for point base + i (Table 9-2). -/
def haltedSet (s : State) (base : Nat) : Word :=
  (List.finRange 64).foldl (fun w (p : PointId) =>
    if base ≤ p.val ∧ p.val < base + 32 then w ||| placeBit (decide ((s.point p).state = .halted)) (p.val - base)
    else w) 0

/-- MOVER FAULT ADDRESS (R147). -/
def faultAddressWord (s : State) : Word :=
  match s.pm.faultRecord with
  | some f => f.addr
  | none => 0

/-- MOVER FAULT INFO (R147, Table 9-2). -/
def faultInfoWord (s : State) : Word :=
  match s.pm.faultRecord with
  | some f => place f.kind.code 0 ||| place f.buffer.val 4 ||| place f.slot.val 8 ||| place f.cause.code 16 ||| place 1 31
  | none => 0

/-- ACCESS STATUS (R184). -/
def AccessStatus.word (a : AccessStatus) : Word :=
  placeBit a.undefinedOffset 0 ||| placeBit a.readOnlyWrite 1 ||| placeBit a.staleAck 2 ||| placeBit a.releaseExcess 3 |||
    placeBit a.resetPending 4

/-- BUFFER STATUS (Table 9-2). -/
def bufferStatusWord (s : State) : Word :=
  (List.finRange 8).foldl (fun w (b : BufId) => w ||| place (s.buffer b).state.code (4 * b.val)) 0

/-- ID (R185): vendor 56h, part 6240h, revision 01h. -/
def idWord : Word := 0x56624001

/-- The content of the register at a word offset (Table 9-1); EVENT ACK and COMPLETION RELEASE read 0 (R183). -/
def registerWord (s : State) (offset : BitVec 7) : Word :=
  match offset.toNat / 4 with
  | 0 => idWord
  | 1 => s.hw.config.word
  | 2 => commandWord s
  | 3 => s.param 0
  | 4 => s.param 1
  | 5 => s.param 2
  | 6 => s.param 3
  | 7 => s.hw.result0
  | 8 => s.hw.result1
  | 9 => s.hw.result2
  | 10 => segmentStatusWord s
  | 11 => eventPresentedWord s
  | 12 => s.eu.gathered.setWidth 32
  | 13 => s.eu.quiet.setWidth 32
  | 14 => 0
  | 15 => s.eu.reportEnable.setWidth 32
  | 16 => s.eu.haltEnable.setWidth 32
  | 17 => s.eu.route.setWidth 32
  | 18 => completionStatusWord s
  | 19 => viewWord0 s
  | 20 => viewWord1 s
  | 21 => viewWord2 s
  | 22 => 0
  | 23 => stationSet s fun x => decide (x.presence = .present)
  | 24 => stationSet s fun x => x.alert
  | 25 => stationSet s fun x => decide (x.presence = .lost)
  | 26 => haltedSet s 0
  | 27 => haltedSet s 32
  | 28 => faultAddressWord s
  | 29 => faultInfoWord s
  | 30 => s.hw.access.word
  | _ => bufferStatusWord s

/-- What a slave read cycle returns; none while the RESET pin is asserted, when no cycle is answered (R197). A read that
is no word access returns 0 (R181). While a controller reset is pending only ID and ACCESS STATUS read (R195). -/
def windowRead (s : State) (offset : BitVec 7) (enables : BitVec 4) : Option Word :=
  if s.hw.resetPin then none
  else if isWordAccess offset enables = false then some 0
  else if s.hw.access.resetPending then
    if offset = 0x00 then some idWord
    else if offset = 0x78 then some s.hw.access.word
    else some 0
  else some (registerWord s offset)

end Sys2Proof.Machine
end

