-- ==== Sys2Proof/Machine/Dispatch.lean ====
section
/-! DEFINITION. One arm per command of Instr, each one direct call of its meaning. -/

namespace Sys2Proof.Machine

def exec (i : Instr) (s : State) : Host.Outcome State Fault Refusal :=
  match i with
  | .configurePoint => Sys2Proof.Machine.execConfigurePoint s
  | .enablePoint => Sys2Proof.Machine.execEnablePoint s
  | .disablePoint => Sys2Proof.Machine.execDisablePoint s
  | .pausePoint => Sys2Proof.Machine.execPausePoint s
  | .continuePoint => Sys2Proof.Machine.execContinuePoint s
  | .clearPoint => Sys2Proof.Machine.execClearPoint s
  | .inspectPoint => Sys2Proof.Machine.execInspectPoint s
  | .postExchange => Sys2Proof.Machine.execPostExchange s
  | .cancelExchange => Sys2Proof.Machine.execCancelExchange s
  | .inspectSlot => Sys2Proof.Machine.execInspectSlot s
  | .inspectLoad => Sys2Proof.Machine.execInspectLoad s
  | .setSegmentParameters => Sys2Proof.Machine.execSetSegmentParameters s
  | .startSegment => Sys2Proof.Machine.execStartSegment s
  | .stopSegment => Sys2Proof.Machine.execStopSegment s
  | .resetSegment => Sys2Proof.Machine.execResetSegment s
  | .haltSegment => Sys2Proof.Machine.execHaltSegment s
  | .resumeSegment => Sys2Proof.Machine.execResumeSegment s
  | .suspendSegment => Sys2Proof.Machine.execSuspendSegment s
  | .wakeSegment => Sys2Proof.Machine.execWakeSegment s
  | .clearStation => Sys2Proof.Machine.execClearStation s
  | .resumeMover => Sys2Proof.Machine.execResumeMover s
  | .resetController => Sys2Proof.Machine.execResetController s
  | .unknownCommand code => Sys2Proof.Machine.execUnknownCommand code s
  | .eventAck word => Sys2Proof.Machine.execEventAck word s
  | .completionRelease word => Sys2Proof.Machine.execCompletionRelease word s
  | .eventQuietWrite word => Sys2Proof.Machine.execEventQuietWrite word s
  | .accessStatusWrite word => Sys2Proof.Machine.execAccessStatusWrite word s
  | .hostConfigWrite word => Sys2Proof.Machine.execHostConfigWrite word s
  | .reportEnableWrite word => Sys2Proof.Machine.execReportEnableWrite word s
  | .haltEnableWrite word => Sys2Proof.Machine.execHaltEnableWrite word s
  | .routeWrite word => Sys2Proof.Machine.execRouteWrite word s
  | .registerWrite param word => Sys2Proof.Machine.execRegisterWrite param word s
  | .readOnlyWrite reg word => Sys2Proof.Machine.execReadOnlyWrite reg word s
  | .undefinedOffset isWrite offset enables => Sys2Proof.Machine.execUndefinedOffset isWrite offset enables s
  | .deviceReset => Sys2Proof.Machine.execDeviceReset s
  | .markEnd => Sys2Proof.Machine.execMarkEnd s
  | .censusStart => Sys2Proof.Machine.execCensusStart s
  | .frameEnd => Sys2Proof.Machine.execFrameEnd s
  | .censusSlotEnd station levels => Sys2Proof.Machine.execCensusSlotEnd station levels s
  | .suspendMarkEnd => Sys2Proof.Machine.execSuspendMarkEnd s
  | .resetSignallingEnd => Sys2Proof.Machine.execResetSignallingEnd s
  | .wakeSignallingEnd => Sys2Proof.Machine.execWakeSignallingEnd s
  | .wakePattern levels => Sys2Proof.Machine.execWakePattern s levels
  | .requestEnd => Sys2Proof.Machine.execRequestEnd s
  | .storeDataEnd => Sys2Proof.Machine.execStoreDataEnd s
  | .answerBegins delay => Sys2Proof.Machine.execAnswerBegins delay s
  | .dataReceived levels => Sys2Proof.Machine.execDataReceived levels s
  | .transactionEnd levels => Sys2Proof.Machine.execTransactionEnd levels s
  | .busGrant => Sys2Proof.Machine.execBusGrant s
  | .burstCompleted words => Sys2Proof.Machine.execBurstCompleted words s
  | .burstRetry => Sys2Proof.Machine.execBurstRetry s
  | .burstCutShort beats words => Sys2Proof.Machine.execBurstCutShort beats words s
  | .burstError => Sys2Proof.Machine.execBurstError s
  | .releaseIntervalEnd line => Sys2Proof.Machine.execReleaseIntervalEnd line s
  | .resetPinReleased => Sys2Proof.Machine.execResetPinReleased s

end Sys2Proof.Machine
end

