-- ==== Sys2Proof/Safety.lean ====
section
/-! DEFINITION. What a sound state is, in the terms the statements use: the relations between fields that the spec says
hold at all times. -/

namespace Sys2Proof.Machine

/-- "The halt cause is present while the state is HALTED and absent in every other state" (R2). -/
abbrev HaltCausesAgree (s : State) : Prop :=
  ∀ p : PointId, (s.point p).haltCause.isSome = true ↔ (s.point p).state = .halted

/-- The counts the tables bound keep their ranges: the points' counters (R2), the lengths and limits of the queues (R1,
R30), and the stations' counters (R123). -/
abbrev CountsInRange (s : State) : Prop :=
  (∀ p : PointId, (s.point p).missCount ≤ 255 ∧ (s.point p).deferCount ≤ 15 ∧ (s.point p).cfg.deferInterval ≤ 15 ∧
      (s.point p).cfg.queueLimit ≤ 64 ∧ (s.queue p).length ≤ 64) ∧
    ∀ i : StationId, (s.station i).silent ≤ 15 ∧ (s.station i).streak ≤ 15

/-- "The head always equals (tail + count) mod 64", and "the completion count never exceeds 64" (R153). -/
abbrev RingAgrees (s : State) : Prop :=
  s.cu.count ≤ 64 ∧ s.cu.head.val = (s.cu.tail.val + s.cu.count) % 64

/-- "The gathered event set is empty whenever the presented set is empty, and neither interrupt line is asserted while the
presented set is empty" (R169). -/
abbrev EventSetsAgree (s : State) : Prop :=
  s.eu.presented = 0 → s.eu.gathered = 0 ∧ s.eu.attn ≠ .asserted ∧ s.eu.alarm ≠ .asserted

/-- The enables that read as fixed (R165): MOVER_FAULT's report and halt enables are on, and the halt enables of the
nine causes that are not halting are off. -/
abbrev FixedEnables (s : State) : Prop :=
  s.eu.reportEnable &&& reportFixed = reportFixed ∧ s.eu.haltEnable &&& ~~~ haltWritable = haltFixed

/-- An asserted line is due, and outside a pending controller reset a due line is asserted or in its release interval
(R175, R176, R179). -/
abbrev LinesAgree (s : State) : Prop :=
  ∀ l : IntLine,
    (s.eu.line l = .asserted → s.eu.lineDue s.hw.config l = true) ∧
    (s.hw.access.resetPending = false → s.eu.lineDue s.hw.config l = true →
      s.eu.line l = .asserted ∨ s.eu.line l = .interval)

/-- The transaction states of the line engine (R83). -/
def LineState.inTransaction : LineState → Bool
  | .requesting | .sendingData | .awaitReply | .awaitAnswer | .receiving | .acknowledging => true
  | .off | .signalling | .marking | .idle | .census => false

/-- The line engine states and the timer state that each segment state allows (the table of R105). -/
def segmentAllows : SegState → LineState → Bool → Bool
  | .down, l, running => decide (l = .off) && !running
  | .resetting, l, running => decide (l = .signalling) && !running
  | .running, l, running => (decide (l = .marking) || decide (l = .idle) || decide (l = .census) || l.inTransaction) && running
  | .suspending, l, running =>
    (decide (l = .marking) || decide (l = .idle) || decide (l = .census) || l.inTransaction) && running
  | .halting, l, running => l.inTransaction && running
  | .halted, l, running => (decide (l = .marking) || decide (l = .idle) || decide (l = .census)) && running
  | .suspended, l, running => (decide (l = .marking) || decide (l = .idle)) && !running
  | .waking, l, running => decide (l = .signalling) && !running

/-- Segment state, line engine and transaction record agree: the table of R105, "a transaction is in flight while the line
engine is in one of them" (R83, R84), and a waiting transition only with a transaction in flight (R104). -/
abbrev SegmentAgrees (s : State) : Prop :=
  segmentAllows s.sc.state s.le.state s.fs.running = true ∧
    s.le.txn.isSome = s.le.state.inTransaction ∧
    (s.sc.waiting ≠ .none → s.le.txn.isSome = true)

/-- The mover has a current job exactly in WAIT_GRANT and BURST, and a fault record exactly in FAULTED (R140, R147). -/
abbrev MoverAgrees (s : State) : Prop :=
  ((s.pm.job.isSome = true ∧ s.pm.burst.isSome = true) ↔ (s.pm.state = .waitGrant ∨ s.pm.state = .burst)) ∧
    (s.pm.job.isSome = s.pm.burst.isSome) ∧
    (s.pm.faultRecord.isSome = true ↔ s.pm.state = .faulted)

/-- A FREE buffer has no owner, no address and a byte count of 0 (R130). -/
abbrev FreeBuffersEmpty (s : State) : Prop :=
  ∀ b : BufId, (s.buffer b).state = .free →
    (s.buffer b).point = none ∧ (s.buffer b).slot = none ∧ (s.buffer b).addr = none ∧ (s.buffer b).count = 0

/-- The frame scheduler's lists and its load table agree with the point table: each list holds exactly the enabled points of
its kind and none twice (R61, R69), the due list is taken from the periodic list in its order (R66), the rotation pointer
names a member or the ring is empty (R70), and each load table entry is the sum of the costs of the points due at it and
within the admission limit (R63). -/
abbrev SchedulerAgrees (s : State) : Prop :=
  s.fs.periodic.Nodup ∧ s.fs.periodic.length ≤ 32 ∧ s.fs.ring.Nodup ∧
    (∀ p : PointId, (p ∈ s.fs.periodic ↔ (s.point p).state ≠ .disabled ∧ (s.point p).cfg.kind = .periodic) ∧
      (p ∈ s.fs.ring ↔ (s.point p).state ≠ .disabled ∧ (s.point p).cfg.kind = .async)) ∧
    s.fs.due.Sublist s.fs.periodic ∧
    (s.fs.pointer = none ↔ s.fs.ring = []) ∧ (∀ p, s.fs.pointer = some p → p ∈ s.fs.ring) ∧
    ∀ r : Residue,
      s.fs.load[r] = (s.fs.periodic.map fun p =>
        if r.val % (s.point p).cfg.period = (s.point p).cfg.phase then
          152 + 10 * (s.point p).cfg.maxPayload.bytes + s.sc.params.replyTimeout
        else 0).sum ∧
      s.fs.load[r] ≤ 3 * (s.sc.params.frameLength - 232) / 4

/-- No two points that are not DISABLED share their binding of station, point number and direction (R9). -/
abbrev BindingsAgree (s : State) : Prop :=
  ∀ p q : PointId, (s.point p).state ≠ .disabled → (s.point q).state ≠ .disabled →
    (s.point p).cfg.station = (s.point q).cfg.station → (s.point p).cfg.number = (s.point q).cfg.number →
    (s.point p).cfg.direction = (s.point q).cfg.direction → p = q

/-- Between happenings no halt request waits: "SC takes a halt request within the happening in which the halting occurrence
is raised" (R113). -/
abbrev HaltRequestsTaken (s : State) : Prop := s.eu.haltRequest = false

/-! ### Legal operands -/

/-- The field checks of CONFIGURE POINT (R6) on the words it reads (R190). -/
def configFieldsLegal (p1 p2 p3 : Word) : Prop :=
  let station := p1.toNat % 256
  let number := p1.toNat / 256 % 16
  let payload := p1.toNat / 65536 % 256
  let attempts := p2.toNat / 65536 % 16
  let limit := p3.toNat % 256
  let period := p2.toNat % 256
  let phase := p2.toNat / 256 % 256
  let defer := p2.toNat / 2 ^ 24 % 32
  (1 ≤ station ∧ station ≤ 30) ∧ number ≤ 7 ∧ (payload = 8 ∨ payload = 16 ∨ payload = 32 ∨ payload = 64) ∧
    (1 ≤ attempts ∧ attempts ≤ 15) ∧ (1 ≤ limit ∧ limit ≤ 64) ∧
    (p1.getLsbD 13 = true → period ∈ [1, 2, 4, 8, 16, 32, 64, 128] ∧ phase < period) ∧
    (p1.getLsbD 13 = false → defer ≤ 15)

/-! ### Frames -/

/-- The window after a command (R188, R189): RESULT0 carries the result code, the value and the command's sequence number;
the other result words and the last code are those given; the rest of the window is as it was. -/
def answeredWindow (h : HostWindow) (code : BitVec 8) (rc value : Nat) (r1 r2 : Word) : HostWindow :=
  { h with
    result0 := BitVec.ofNat 32 (rc * 2 ^ 24 + value * 2 ^ 16 + (h.seqNumber + 1).toNat)
    result1 := r1
    result2 := r2
    lastCode := code
    seqNumber := h.seqNumber + 1 }

/-! ### Staging at the end of a happening (R134 to R136, R139) -/

/-- A STORE point needs staging (R134): it is READY with no staged buffer, and its first exchange is QUEUED or ACTIVE, not
cancelled, with bytes left to stage, or of length 0 and not staged yet (R33). -/
abbrev NeedsStaging (s : State) (p : PointId) : Prop :=
  (s.point p).state = .ready ∧ (s.point p).cfg.direction = .store ∧ (s.point p).staged = none ∧
    ∃ x, s.first p = some x ∧ ((s.slot x).state = .queued ∨ (s.slot x).state = .active) ∧
      (s.slot x).cancelRequested = false ∧
      ((s.slot x).bytesMemory < (s.slot x).length ∨ (s.slot x).length = 0 ∧ (s.slot x).state = .queued)

/-- The staging wait list once it is brought up to date (R135): the points on it that still need staging in their order,
then those that have come to need it in ascending id. -/
def waitOrder (s : State) : List PointId :=
  (s.bp.waitList.filter fun p => decide (NeedsStaging s p)) ++
    (List.finRange 64).filter fun p => decide (NeedsStaging s p) && decide (p ∉ s.bp.waitList)

/-- The FREE buffers in ascending id. -/
def freeBuffers (s : State) : List BufId := (List.finRange 8).filter fun b => decide ((s.buffer b).state = .free)

/-- How many grants are made (R136): until the wait list or the FREE buffers are used up or the staging count is 6. -/
def grantCount (s : State) : Nat :=
  min (waitOrder s).length
    (min (freeBuffers s).length
      (6 - (List.finRange 8).countP fun b =>
        decide ((s.buffer b).state = .staging ∨ (s.buffer b).state = .staged)))

/-- A buffer as a grant to a point for an exchange leaves it (R136): n bytes from the exchange's next host address on,
STAGING, or STAGED at once for the zero-length packet. -/
def grantedBuffer (s : State) (p : PointId) (x : SlotId) (b : BufId) : Buffer :=
  let n := min (s.point p).cfg.maxPayload.bytes ((s.slot x).length - (s.slot x).bytesMemory)
  { s.buffer b with
    state := if n = 0 then .staged else .staging
    point := some p
    slot := some x
    count := n
    addr := some ((s.slot x).hostAddr + BitVec.ofNat 32 (s.slot x).bytesMemory) }

/-- The burst for a next host address and the bytes remaining (R142). -/
def BurstChosen (maxWords : Nat) (next : Word) (remaining : Nat) (u : Burst) : Prop :=
  let fits (n : Nat) : Prop := n ≤ maxWords ∧ next.toNat % (4 * n) = 0 ∧ 4 * n ≤ remaining
  u.addr = next ∧
    (next.toNat % 4 ≠ 0 → u.beats = 1 ∧ u.bytes = min (4 - next.toNat % 4) remaining) ∧
    (∀ n ∈ [16, 8, 4], fits n → (∀ m ∈ [16, 8, 4], n < m → ¬ fits m) → u.beats = n ∧ u.bytes = 4 * n) ∧
    (next.toNat % 4 = 0 → (∀ n ∈ [16, 8, 4], ¬ fits n) → u.beats = 1 ∧ u.bytes = min 4 remaining)

/-- The mover after a job of a buffer record is taken (R139, R140): it waits for the grant of the job's first burst,
chosen as it begins to wait (log 14). -/
def JobTaken (m : Mover) (maxWords : Nat) (k : JobKind) (b : BufId) (r : Buffer) (drains stages : List BufId)
    (m' : Mover) : Prop :=
  ∃ j u, m' = { m with
      state := .waitGrant, drainQueue := drains, stageQueue := stages, job := some j, burst := some u } ∧
    j.kind = k ∧ j.buffer = b ∧ j.remaining = r.count ∧ j.moved = 0 ∧ j.retries = 0 ∧
    (∀ x, r.slot = some x → j.slot = x) ∧ (∀ a, r.addr = some a → j.nextAddr = a) ∧
    BurstChosen maxWords j.nextAddr j.remaining u

/-- The mover at the end of a happening that left it with a stage queue (R139): an IDLE mover takes the first drain job, or
failing that the first stage job; any other mover, and one with nothing queued, stays as it is. -/
structure MoverServed (s t : State) (stages : List BufId) : Prop where
  waits : s.pm.state ≠ .idle ∨ (s.pm.drainQueue = [] ∧ stages = []) → t.pm = { s.pm with stageQueue := stages }
  drain : ∀ b rest, s.pm.state = .idle → s.pm.drainQueue = b :: rest →
    JobTaken s.pm s.hw.config.maxWords .drain b (t.buffer b) rest stages t.pm
  stage : ∀ b rest, s.pm.state = .idle → s.pm.drainQueue = [] → stages = b :: rest →
    JobTaken s.pm s.hw.config.maxWords .stage b (t.buffer b) [] rest t.pm

/-- The grants, where no point stands on the wait list twice and no two points share a first exchange: the first points of
the order each get the lowest FREE buffer left, in turn, and the others wait (R132, R135, R136). -/
structure GrantsMade (s t : State) : Prop where
  waits : t.bp.waitList = (waitOrder s).drop (grantCount s)
  granted : ∀ p b, (p, b) ∈ ((waitOrder s).zip (freeBuffers s)).take (grantCount s) →
    ∃ x, s.first p = some x ∧ t.point p = { s.point p with staged := some b } ∧
      t.slot x = { s.slot x with state := .active, jobs := (s.slot x).jobs + 1 } ∧
      t.buffer b = grantedBuffer s p x b
  others : (∀ p, p ∉ (waitOrder s).take (grantCount s) → t.point p = s.point p) ∧
    (∀ b, b ∉ (freeBuffers s).take (grantCount s) → t.buffer b = s.buffer b) ∧
    ∀ x, (∀ p ∈ (waitOrder s).take (grantCount s), s.first p ≠ some x) → t.slot x = s.slot x
  mover : MoverServed s t (s.pm.stageQueue ++
    ((freeBuffers s).take (grantCount s)).filter fun b => decide ((t.buffer b).state = .staging))

/-- `t` is `s` after the staging at the end of a happening: the wait list is brought up to date, the grants are made and an
IDLE mover takes a job (R134 to R136, R139; which happenings do so, log 13). The first fields hold in every state;
`grants` says it exactly. -/
structure StagingOnly (s t : State) : Prop where
  blocks : t = { s with pt := t.pt, sp := { s.sp with slots := t.sp.slots }, bp := t.bp, pm := t.pm }
  points : ∀ p, t.point p = s.point p ∨
    NeedsStaging s p ∧ ∃ b, t.point p = { s.point p with staged := some b } ∧ (s.buffer b).state = .free
  slots : ∀ x, t.slot x = s.slot x ∨
    ∃ p n, NeedsStaging s p ∧ s.first p = some x ∧ 0 < n ∧
      t.slot x = { s.slot x with state := .active, jobs := (s.slot x).jobs + n }
  buffers : ∀ b, t.buffer b = s.buffer b ∨
    (s.buffer b).state = .free ∧ ∃ p x, NeedsStaging s p ∧ s.first p = some x ∧ t.buffer b = grantedBuffer s p x b
  waits : t.bp.waitList.Sublist (waitOrder s)
  mover : ∃ more, (∀ b ∈ more, (s.buffer b).state = .free ∧ (t.buffer b).state = .staging) ∧
    MoverServed s t (s.pm.stageQueue ++ more)
  grants : s.bp.waitList.Nodup →
    (∀ p q x, NeedsStaging s p → NeedsStaging s q → s.first p = some x → s.first q = some x → p = q) → GrantsMade s t

/-! ### The choice of the scheduler (R60, R72 to R75, R85) -/

/-- The point is eligible (R72) and its cost fits before the census start (R60). -/
def MayBegin (s : State) (p : PointId) : Prop :=
  let q := s.point p
  q.state = .ready ∧ (s.station q.cfg.station).presence = .present ∧
    (∃ x, s.first p = some x ∧ ((s.slot x).state = .queued ∨ (s.slot x).state = .active) ∧
      (s.slot x).cancelRequested = false ∧ (s.slot x).faultMark = false ∧
      ((s.slot x).bytesLine < (s.slot x).length ∨ (q.cfg.direction = .store ∧ (s.slot x).length = 0))) ∧
    (q.cfg.kind = .periodic ∨ q.deferCount = 0) ∧
    (q.cfg.direction = .store → ∃ b, q.staged = some b ∧ (s.buffer b).state = .staged) ∧
    (q.cfg.direction = .fetch → ∃ b, (s.buffer b).state = .free) ∧
    s.fs.elapsed + (152 + 10 * q.cfg.maxPayload.bytes + s.sc.params.replyTimeout) + 168 ≤ s.sc.params.frameLength

/-- A transaction to the point begins (R75, R85, R132), leaving the scheduler as `f`: a STORE sends its STAGED buffer, a
FETCH takes the lowest FREE one to RECEIVING. -/
def Begins (s : State) (p : PointId) (f : FrameScheduler) (t : State) : Prop :=
  ∃ x b n, s.first p = some x ∧
    t = { s with
      sp := t.sp, bp := t.bp, fs := f
      le := { s.le with
        state := .requesting
        txn := some { point := p, slot := x, direction := (s.point p).cfg.direction, buffer := b,
                      seq := (s.point p).seq, requested := n, began := s.fs.elapsed, answerBegan := none,
                      received := none } } } ∧
    ((s.point p).cfg.direction = .store →
      (s.point p).staged = some b ∧ n = (s.buffer b).count ∧ t.sp = s.sp ∧ t.bp = s.bp) ∧
    ((s.point p).cfg.direction = .fetch →
      n = min (s.point p).cfg.maxPayload.bytes ((s.slot x).length - (s.slot x).bytesLine) ∧
      (s.buffer b).state = .free ∧ (∀ c, c < b → (s.buffer c).state ≠ .free) ∧
      t.sp = (s.setSlot x { s.slot x with state := .active, jobs := (s.slot x).jobs + 1 }).sp ∧
      t.bp = (s.setBuffer b
        { s.buffer b with state := .receiving, point := some p, slot := some x, count := 0, addr := none }).bp)

/-- `t` is `s` after the choice of the scheduler where R73 allows one: the first due entry that may begin, or failing that
the first such member of the ring from the rotation pointer on, begins its transaction; with none nothing changes (R70,
R74). Only a pointer that names no member, which no run leaves over a ring with members, has the search start at the head. -/
structure ChoiceOnly (s t : State) : Prop where
  choice : t = s ∨ mayChoose s = true ∧ ∃ p before after, MayBegin s p ∧ (∀ q ∈ before, ¬ MayBegin s q) ∧
    (s.fs.due = before ++ p :: after ∧ Begins s p { s.fs with due := before ++ after } t ∨
      (∀ q ∈ s.fs.due, ¬ MayBegin s q) ∧ ∃ r front back, s.fs.pointer = some r ∧ s.fs.ring = front ++ back ∧
        r ∉ front ∧ (back = [] ∨ back.head? = some r) ∧ back ++ front = before ++ p :: after ∧
        Begins s p { s.fs with pointer := t.fs.pointer } t ∧
        (s.fs.ring.Nodup → t.fs.pointer = match after ++ before with
          | q :: _ => some q
          | [] => some p))
  none : t = s → mayChoose s = true →
    (∀ p ∈ s.fs.due, ¬ MayBegin s p) ∧ (s.fs.pointer ≠ none → ∀ p ∈ s.fs.ring, ¬ MayBegin s p)

/-- `t` is `s` after the staging at the end of a happening and the choice that follows it. -/
def ServiceOnly (s t : State) : Prop := ∃ u, StagingOnly s u ∧ ChoiceOnly u t

/-! ### Ending an exchange (R40, R41, R44, R46) -/

/-- The exchange `y` waits in the queue of `p` behind its first (R28, R36): QUEUED, with no buffer and no fault_mark. -/
structure Waits (s : State) (p : PointId) (y : SlotId) : Prop where
  queued : (s.slot y).state = .queued
  point : (s.slot y).point = some p
  jobs : (s.slot y).jobs = 0
  unfaulted : (s.slot y).faultMark = false
  unstaged : ∀ b, (s.point p).staged = some b → (s.buffer b).slot ≠ some y

/-- The exchange `x` is the first of the queue of `p`, with `rest` waiting behind it: the records name each other (R26,
R130), and the point is not on the held list for an exchange before it (R156). -/
structure Leads (s : State) (p : PointId) (x : SlotId) (rest : List SlotId) : Prop where
  queue : s.queue p = x :: rest
  point : (s.slot x).point = some p
  staged : ∀ b, (s.point p).staged = some b → (s.buffer b).point = some p ∧ (s.buffer b).slot = some x
  notHeld : p ∉ s.cu.held
  behind : ∀ y ∈ rest, y ≠ x ∧ Waits s p y

/-- Every ACTIVE first exchange leads its queue. -/
def ActivesLead (s : State) : Prop :=
  ∀ p x rest, s.queue p = x :: rest → (s.slot x).state = .active → Leads s p x rest

/-- A buffer of the exchange `x` of the point `p` becomes FREE (R133, R36): the record takes its FREE values and keeps its
bytes (log 8), the exchange has one job fewer, and the buffer is no longer the point's staged buffer. -/
def bufferFreed (s : State) (b : BufId) (x : SlotId) (p : PointId) : State :=
  ((s.setBuffer b
    { state := .free, point := none, slot := none, count := 0, addr := none, data := (s.buffer b).data }).setSlot x
    { s.slot x with jobs := (s.slot x).jobs - 1 }).setPoint p
    { s.point p with staged := if (s.point p).staged = some b then none else (s.point p).staged }

/-- The STAGED buffer of the exchange `x`, if its point `p` has one for it, becomes FREE (R40). -/
def stagedFreed (s : State) (x : SlotId) (p : PointId) : State :=
  match (s.point p).staged with
  | some b => if (s.buffer b).state = .staged ∧ (s.buffer b).slot = some x then bufferFreed s b x p else s
  | none => s

/-- The point reaches DISABLED (R20): it leaves the ring or the periodic list with its cost, its fields are cleared and
POINT_CLOSED is raised. -/
def pointClosed (s : State) (p : PointId) : State :=
  let c := (s.point p).cfg
  let cost := 152 + 10 * c.maxPayload.bytes + s.sc.params.replyTimeout
  { s.setPoint p { s.point p with state := .disabled, deferCount := 0, haltCause := none, staged := none } with
    fs := match c.kind with
      | .async => { s.fs with
          ring := s.fs.ring.erase p
          pointer := if s.fs.pointer = some p then
            (if successor s.fs.ring p = some p then none else successor s.fs.ring p) else s.fs.pointer }
      | .periodic => { s.fs with
          periodic := s.fs.periodic.erase p
          load := Vector.ofFn fun r => s.fs.load[r] - (if r.val % c.period = c.phase then cost else 0)
          due := s.fs.due.erase p }
    eu := s.eu.take s.hw.config .pointClosed }

/-- The slot becomes FREE, leaves its point's queue and joins the tail of the free list (R29, R41). -/
def slotGone (s : State) (p : PointId) (x : SlotId) (rest : List SlotId) : State :=
  { s with sp := { slots := s.sp.slots.set x Slot.free
                   freeList := s.sp.freeList ++ [x]
                   queues := s.sp.queues.set p rest } }

/-- The completion record of an exchange is written at the head of the ring and COMPLETION_POSTED is raised (R153 to
R155). -/
def recordPosted (s : State) (p : PointId) (x : SlotId) (st : Status) : State :=
  let e := s.slot x
  { s with
    cu := { s.cu with
      ring := s.cu.ring.set s.cu.head
        { tag := e.tag, slot := x, point := p, status := st
          bytesDone := if (s.point p).cfg.direction = .store then e.bytesLine else e.bytesMemory
          errors := e.errors, frame := s.fs.frame }
      head := s.cu.head + 1, count := s.cu.count + 1 }
    eu := s.eu.take s.hw.config .completionPosted }

/-- The status a pending cancel gives (R40): FLUSHED where the point is CLOSING. -/
def cancelGives (s : State) (p : PointId) : Status := if (s.point p).state = .closing then .flushed else .cancelled

/-- The queue of a point once the exchange before it has gone (R42, R160): a CLOSING point left with none reaches DISABLED
(R19); an exchange with cancel_requested that becomes first ends, its record posted where one is due, and the next becomes
first; where its record cannot be posted it is RETIRING and the point joins the held list (R155, R156), with
COMPLETION_BACKLOG if that list was empty, but not in the posting walk of a release (log 17). -/
def followed (walk : Bool) (p : PointId) : List SlotId → State → State
  | [], u => if (u.point p).state = .closing then pointClosed u p else u
  | y :: rest, u =>
    let e := u.slot y
    let st := cancelGives u p
    if e.state ≠ .queued ∨ e.cancelRequested = false then u
    else if e.notify = false then followed walk p rest (slotGone u p y rest)
    else if u.cu.held = [] ∧ u.cu.count < 64 then followed walk p rest (slotGone (recordPosted u p y st) p y rest)
    else { u.setSlot y { e with state := .retiring, status := some st } with
      cu := { u.cu with held := u.cu.held ++ [p] }
      eu := if u.cu.held = [] ∧ walk = false then u.eu.take u.hw.config .completionBacklog else u.eu }

/-- The slot of the first exchange is freed and the queue is followed (R41, R42). -/
def slotFreed (s : State) (p : PointId) (x : SlotId) (rest : List SlotId) : State :=
  followed false p rest (slotGone s p x rest)

/-- A completion is due (R27): with notify, and for a status posted even without it. -/
abbrev CompletionIsDue (e : Slot) (st : Status) : Prop :=
  e.notify = true ∨ st ∈ [Status.short, .refused, .failedSilent, .failedCheck, .failedOverlength, .stationGone,
    .lineReset, .moverFault]

/-- The first exchange ends with a status, its STAGED buffer already freed (R40, R41, R155, R156): with jobs outstanding it
stays RETIRING; with none its slot is freed, its record posted first where one is due; and where a record is due that
cannot be posted, it stays RETIRING and its point joins the held list, with COMPLETION_BACKLOG if that list was empty.
A RETIRING exchange keeps its cancel_requested (log 10). -/
def ended (s : State) (p : PointId) (x : SlotId) (rest : List SlotId) (st : Status) : State :=
  let e := s.slot x
  let retiring := s.setSlot x { e with state := .retiring, status := some st }
  if e.jobs ≠ 0 then retiring
  else if ¬ CompletionIsDue e st then slotFreed s p x rest
  else if s.cu.held = [] ∧ s.cu.count < 64 then slotFreed (recordPosted s p x st) p x rest
  else { retiring with
    cu := { s.cu with held := s.cu.held ++ [p] }
    eu := if s.cu.held = [] then s.eu.take s.hw.config .completionBacklog else s.eu }

/-- The status an ending cause gives: a pending mark decides it (R40). -/
def statusBy (s : State) (p : PointId) (x : SlotId) (cause : Status) : Status :=
  if (s.slot x).faultMark then .moverFault else if (s.slot x).cancelRequested then cancelGives s p else cause

/-- What a pending mark of an ACTIVE first exchange with no transaction in flight makes due: fault_mark ends it with
MOVER_FAULT (R46, over a cancel: log 9), cancel_requested ends it once no job but its STAGED buffer remains (R44). -/
def markTaken (s : State) (p : PointId) (x : SlotId) (rest : List SlotId) : State :=
  let u := stagedFreed s x p
  if (s.slot x).faultMark then ended u p x rest .moverFault
  else if (s.slot x).cancelRequested = true ∧ (u.slot x).jobs = 0 then ended u p x rest (cancelGives s p)
  else s

/-- An ending cause reaches the first exchange of a point if it is ACTIVE (R40, R48, R49). -/
def activeEnds (cause : Status) (s : State) (p : PointId) : State :=
  match s.queue p with
  | x :: rest =>
    if (s.slot x).state = .active then ended (stagedFreed s x p) p x rest (statusBy s p x cause) else s
  | [] => s

/-- The ACTIVE exchanges of all points end LINE_RESET, in ascending point id (R48). -/
def lineResets (s : State) : State := (List.finRange 64).foldl (activeEnds .lineReset) s

/-- A READY or PAUSED point enters HALTED with a cause and POINT_HALTED is raised; another point stays as it is (R14). -/
def pointHalted (s : State) (p : PointId) (c : HaltCause) : State :=
  if (s.point p).state = .ready ∨ (s.point p).state = .paused then
    { s.setPoint p { s.point p with state := .halted, haltCause := some c } with
      eu := s.eu.take s.hw.config .pointHalted }
  else s

/-- The points of a station that is lost or detached, in ascending point id (R15, R49, R127; the CLOSING ones among them:
log 11): a READY or PAUSED point is HALTED and its ACTIVE exchange ends STATION_GONE, and so does that of a CLOSING one.
POINT_HALTED comes before the events of the ending (for COMPLETION_BACKLOG: log 30). -/
def stationLeft (c : HaltCause) (i : StationId) (s : State) : State :=
  (List.finRange 64).foldl (fun u p =>
    let g := (u.point p).state
    if (u.point p).cfg.station = i ∧ (g = .ready ∨ g = .paused ∨ g = .closing) then
      activeEnds .stationGone (pointHalted u p c) p
    else u) s

/-- A halt request of the happening is taken, if there is one (R112 to R114): RUNNING and SUSPENDING enter HALTED, or
HALTING with a transaction in flight, and the due list is emptied; RESETTING, WAKING and SUSPENDED note it in halt_pending;
the other states ignore it. The request is taken after the effects of its happening (log 18). -/
def haltTaken (s : State) : State :=
  let t : State := { s with eu := { s.eu with haltRequest := false } }
  let dropped := s.sc.suspendDropped || decide (s.sc.state = .suspending)
  if s.eu.haltRequest = false then s
  else if s.sc.state = .running ∨ s.sc.state = .suspending then
    if s.le.txn = none then
      { t with
        sc := { s.sc with state := .halted, haltPending := false, suspendDropped := dropped }
        fs := { s.fs with due := [] }
        eu := t.eu.take s.hw.config .segmentChanged }
    else { t with sc := { s.sc with state := .halting, suspendDropped := dropped }, fs := { s.fs with due := [] } }
  else if s.sc.state = .resetting ∨ s.sc.state = .waking ∨ s.sc.state = .suspended then
    { t with sc := { s.sc with haltPending := true } }
  else t

/-! ### The end of a transaction and the segment's transitions -/

/-- A transaction of the first exchange of its point is in flight (R84, R85), and no halt request is left over. -/
structure TxnUnderway (s : State) (t : Txn) (rest : List SlotId) : Prop where
  txn : s.le.txn = some t
  running : s.fs.running = true
  leads : Leads s t.point t.slot rest
  active : (s.slot t.slot).state = .active
  direction : t.direction = (s.point t.point).cfg.direction
  buffer : (s.buffer t.buffer).point = some t.point ∧ (s.buffer t.buffer).slot = some t.slot
  staged : (s.point t.point).staged = if t.direction = .store then some t.buffer else none
  noHalt : s.eu.haltRequest = false

/-- The record of the transaction is removed at an elapsed time, the line engine is IDLE, and the station of the point has
a timeout streak (R86, R98). -/
def txnEnded (s : State) (t : Txn) (moment streak : Nat) : State :=
  let i := (s.point t.point).cfg.station
  { s.setStation i { s.station i with streak := streak } with
    fs := { s.fs with elapsed := moment }
    le := { s.le with state := .idle, txn := none } }

/-- Entry to DOWN but for the exchanges that end (R111): the stations are ABSENT, the sequence bits 0, the timer stopped,
the due list empty and the line engine off; the frame number, the lists, the load table and all else stay. -/
def EnteredDown (s t : State) : Prop :=
  t = { s with
    pt := t.pt
    sc := { s.sc with state := .down, haltPending := false, waiting := .none, stations := t.sc.stations }
    fs := { s.fs with running := false, due := [] }
    le := { s.le with state := .off, slotsRead := 0, lineBits := 0 } } ∧
  (∀ p, t.point p = { s.point p with seq := false }) ∧
  ∀ i, t.station i = { s.station i with presence := .absent, silent := 0, streak := 0, answered := false }

/-- Entry to RESETTING but for the exchanges that end (R108): as entry to DOWN, with the defer counts 0, the frame number 0
and reset signalling under way. -/
def EnteredResetting (s t : State) : Prop :=
  t = { s with
    pt := t.pt
    sc := { s.sc with state := .resetting, haltPending := false, waiting := .none, stations := t.sc.stations }
    fs := { s.fs with running := false, frame := 0, due := [] }
    le := { s.le with state := .signalling, slotsRead := 0, lineBits := 0 } } ∧
  (∀ p, t.point p = { s.point p with seq := false, deferCount := 0 }) ∧
  ∀ i, t.station i = { s.station i with presence := .absent, silent := 0, streak := 0, answered := false }

/-- What follows the outcome of a transaction (R115): a waiting STOP or RESET is carried out and ends the ACTIVE exchanges,
in HALTING the segment enters HALTED, and otherwise it goes on; then the halt requests are taken, the staging is served and
the scheduler chooses. `s` is the state before the transaction's end, `u` the one after its outcome. -/
structure TxnCloses (s u v : State) : Prop where
  goesOn : s.sc.waiting = .none → s.sc.state ≠ .halting → ServiceOnly (haltTaken u) v
  halts : s.sc.waiting = .none → s.sc.state = .halting → ServiceOnly (haltTaken { u with
    sc := { u.sc with state := .halted, haltPending := false }
    eu := u.eu.take u.hw.config .segmentChanged }) v
  stops : s.sc.waiting = .stop → ActivesLead s → ∃ d, EnteredDown u d ∧ ServiceOnly (haltTaken { lineResets d with
    eu := (lineResets d).eu.take u.hw.config .segmentChanged }) v
  resets : s.sc.waiting = .reset → ActivesLead s → ∃ d, EnteredResetting u d ∧ ServiceOnly (haltTaken (lineResets d)) v

/-- The posting walk of a release (R159, R160): while points are held and the ring has room, the first held point leaves the
list, the record of its first exchange is posted, its slot is freed and its queue is followed. -/
inductive PostingWalk : State → State → Prop
  /-- It ends with no point held or the ring full. -/
  | ends (s : State) (h : s.cu.held = [] ∨ 64 ≤ s.cu.count) : PostingWalk s s
  /-- A round of it. -/
  | posts {s t : State} (p : PointId) (ps : List PointId) (x : SlotId) (rest : List SlotId) (st : Status)
      (held : s.cu.held = p :: ps) (once : p ∉ ps) (room : s.cu.count < 64) (queue : s.queue p = x :: rest)
      (status : (s.slot x).status = some st) (behind : ∀ y ∈ rest, y ≠ x ∧ Waits s p y)
      (more : PostingWalk
        (followed true p rest (slotGone (recordPosted { s with cu := { s.cu with held := ps } } p x st) p x rest)) t) :
      PostingWalk s t

/-! ### The slot pool and the buffers together (R24, R28 to R30, R36, R41, R42, R131, R135, R156) -/

/-- The queues, the slots, the buffers, the transaction, the mover's jobs and the held list agree. -/
structure PoolAgrees (s : State) : Prop where
  freeList : s.sp.freeList.Nodup ∧ ∀ x, x ∈ s.sp.freeList ↔ (s.slot x).state = .free
  freeSlots : ∀ x, (s.slot x).state = .free → s.slot x = Slot.free
  queues : ∀ p, (s.queue p).Nodup ∧ ∀ x, x ∈ s.queue p ↔ (s.slot x).state ≠ .free ∧ (s.slot x).point = some p
  owned : ∀ x, (s.slot x).state ≠ .free → (s.slot x).point.isSome = true
  total : s.sp.freeList.length + ((List.finRange 64).map fun p => (s.queue p).length).sum = 256
  limit : ∀ p, (s.queue p).length ≤ (s.point p).cfg.queueLimit
  service : ∀ p, ((s.point p).state = .disabled → s.queue p = [] ∧ (s.point p).staged = none) ∧
    ((s.point p).state = .closing → s.queue p ≠ [])
  behind : ∀ p x rest, s.queue p = x :: rest → ∀ y ∈ rest, (s.slot y).state = .queued
  queued : ∀ x, (s.slot x).state = .queued → (s.slot x).bytesLine = 0 ∧ (s.slot x).bytesMemory = 0 ∧
    (s.slot x).errors = 0 ∧ (s.slot x).jobs = 0 ∧ (s.slot x).faultMark = false
  firstQueued : ∀ p x, s.first p = some x → (s.slot x).state = .queued → (s.slot x).cancelRequested = false
  marked : ∀ x, (s.slot x).state = .active → inFlight s x = false → (s.slot x).faultMark = false ∧
    ((s.slot x).cancelRequested = true →
      ∃ b, (s.buffer b).slot = some x ∧ (s.buffer b).state ≠ .staged)
  retiring : ∀ x, (s.slot x).state = .retiring → ∃ p, (s.slot x).point = some p ∧ ((s.slot x).jobs ≠ 0 ∨ p ∈ s.cu.held)
  status : ∀ x, (s.slot x).status.isSome = true ↔ (s.slot x).state = .retiring
  jobs : ∀ x, (s.slot x).jobs = (List.finRange 8).countP fun b => decide ((s.buffer b).slot = some x)
  buffers : FreeBuffersEmpty s ∧ ∀ b, (s.buffer b).state ≠ .free → ∃ p x, (s.buffer b).point = some p ∧
    (s.buffer b).slot = some x ∧ s.first p = some x ∧ ((s.slot x).state = .active ∨ (s.slot x).state = .retiring) ∧
    ((s.point p).cfg.direction = .store ↔ (s.buffer b).state = .staging ∨ (s.buffer b).state = .staged)
  staged : ∀ p b, (s.point p).staged = some b ↔
    (s.buffer b).point = some p ∧ ((s.buffer b).state = .staging ∨ (s.buffer b).state = .staged)
  stagedActive : ∀ b x, (s.buffer b).state = .staged → (s.buffer b).slot = some x → (s.slot x).state = .active
  six : (List.finRange 8).countP (fun b => decide ((s.buffer b).state = .staging ∨ (s.buffer b).state = .staged)) ≤ 6
  receiving : ∀ b, (s.buffer b).state = .receiving ↔ ∃ t, s.le.txn = some t ∧ t.direction = .fetch ∧ t.buffer = b
  txn : ∀ t, s.le.txn = some t → s.first t.point = some t.slot ∧ (s.slot t.slot).state = .active ∧
    t.direction = (s.point t.point).cfg.direction ∧ (s.buffer t.buffer).point = some t.point ∧
    (t.direction = .store → (s.buffer t.buffer).state = .staged)
  stageJobs : s.pm.stageQueue.Nodup ∧ ∀ b, (s.buffer b).state = .staging ↔
    b ∈ s.pm.stageQueue ∨ ∃ j, s.pm.job = some j ∧ j.kind = .stage ∧ j.buffer = b
  drainJobs : s.pm.drainQueue.Nodup ∧ ∀ b, (s.buffer b).state = .draining ↔
    b ∈ s.pm.drainQueue ∨ ∃ j, s.pm.job = some j ∧ j.kind = .drain ∧ j.buffer = b
  job : ∀ j, s.pm.job = some j → (s.buffer j.buffer).slot = some j.slot ∧ j.buffer ∉ s.pm.stageQueue ∧
    j.buffer ∉ s.pm.drainQueue
  held : s.cu.held.Nodup ∧ ∀ p, p ∈ s.cu.held ↔
    ∃ x, s.first p = some x ∧ (s.slot x).state = .retiring ∧ (s.slot x).jobs = 0
  heldDue : ∀ p x, p ∈ s.cu.held → s.first p = some x → ∃ st, (s.slot x).status = some st ∧ CompletionIsDue (s.slot x) st
  heldFull : s.cu.held ≠ [] → s.cu.count = 64
  waits : s.bp.waitList.Nodup ∧ ∀ p, p ∈ s.bp.waitList ↔ NeedsStaging s p

/-- What the pool invariant takes in: the segment, the mover and the ring agree, and the pool does, but for the wait of a
controller reset, in which the records stand still (R195, R196). -/
def PoolSound (s : State) : Prop :=
  SegmentAgrees s ∧ MoverAgrees s ∧ RingAgrees s ∧ (s.hw.access.resetPending = false → PoolAgrees s)

end Sys2Proof.Machine
end

