-- ==== Sys2Proof/Certificates/Slice0/Obligations.lean ====
section
/-! DEFINITION. The statements for the provers. Each names the rules it formalises in OBLIGATIONS.json. -/

section

open Sys2Proof Sys2Proof.Machine

/-! ### The step -/

/-- The step takes the command at the front of the queue and runs it on the state with the queue's rest. -/
def Obligations.StepTakesFrontCommand : Prop :=
  ∀ (c : Instr) (rest : List Instr) (s : State), s.pending = c :: rest → step s = exec c { s with pending := rest }

/-- With no command waiting one bit time passes and nothing else (the model's own choice, log 1). The frame timer counts up to
the next moment at which the line engine has something to do: 64, L - 168, the ends of the census slots, L, and the
transaction's moments; the bit times of signalling and of the SUSPEND MARK count up to 2,000, 1,000 or 38; and while the
line is watched for the wake pattern it reads 1, so that a hold at 0 ends (log 25). -/
def Obligations.EmptyQueuePassesABitTime : Prop :=
  ∀ s : State, s.pending = [] →
    let length := s.sc.params.frameLength
    let timeout := s.sc.params.replyTimeout
    let opens (t : Txn) : Nat := t.began + (if t.direction = .store then 114 + 10 * t.requested else 58)
    let timer (moment : Nat) : Prop := step s = .next { s with
      fs := { s.fs with elapsed := if s.fs.elapsed < moment then s.fs.elapsed + 1 else s.fs.elapsed } }
    let bits (span : Nat) : Prop := step s = .next { s with
      le := { s.le with lineBits := if s.le.lineBits < span then s.le.lineBits + 1 else s.le.lineBits } }
    (s.fs.running = true →
      (s.le.state = .marking → timer 64) ∧
      (s.le.state = .idle → timer (length - 168)) ∧
      (s.le.state = .census → s.le.slotsRead < 30 → timer (length - 130 + 4 * (s.le.slotsRead + 1))) ∧
      (s.le.state = .census → 30 ≤ s.le.slotsRead → timer length) ∧
      (s.le.state = .off ∨ s.le.state = .signalling → step s = .next s) ∧
      ∀ t, s.le.txn = some t →
        (s.le.state = .requesting → timer (t.began + 58)) ∧
        (s.le.state = .sendingData → timer (opens t)) ∧
        (s.le.state = .awaitAnswer → timer (opens t + timeout)) ∧
        (s.le.state = .awaitReply → t.answerBegan = none → timer (opens t + timeout)) ∧
        ∀ a, t.answerBegan = some a →
          (s.le.state = .awaitReply → timer (a + 38)) ∧
          (s.le.state = .receiving → timer (a + 28)) ∧
          ∀ k seq, t.received = some (k, seq) → s.le.state = .acknowledging → timer (a + 94 + 10 * k)) ∧
    (s.fs.running = false →
      (s.le.state = .signalling → s.sc.state = .resetting → bits 2000) ∧
      (s.le.state = .signalling → s.sc.state = .waking → bits 1000) ∧
      (s.le.state = .marking → s.sc.state = .suspended → bits 38) ∧
      (s.le.state = .idle → s.sc.state = .suspended → step s = .next { s with le := { s.le with lowBits := 0 } }) ∧
      (s.le.state = .off → step s = .next s))

/-- What the host reads in the window (Tables 9-1, 9-2 and 7-1). Under the RESET pin no read is answered (R197), a read that
is no word access gives 0 (R181), and while a controller reset is pending ID and ACCESS STATUS alone show their content
(R195). Otherwise each register shows its record: the view the record at the tail while the count is above 0 (R158), the
mover's words its fault record if it has one (R147), and the sets a bit for each station, point or buffer. After device reset
the words are those of Table 9-1 (R183). -/
def Obligations.WindowReadsShowTheRegisters : Prop :=
  ((∀ o : BitVec 7, o.toNat % 4 = 0 → o ∉ [0x00#7, 0x04#7, 0x3C#7, 0x40#7, 0x44#7] →
      windowRead State.reset o 0xF#4 = some 0) ∧
    windowRead State.reset 0x00#7 0xF#4 = some 0x56624001#32 ∧
    windowRead State.reset 0x04#7 0xF#4 = some 0x00000F03#32 ∧
    windowRead State.reset 0x3C#7 0xF#4 = some 0x00007FFD#32 ∧
    windowRead State.reset 0x40#7 0xF#4 = some 0x00002000#32 ∧
    windowRead State.reset 0x44#7 0xF#4 = some 0x00002358#32) ∧
  ∀ s : State,
    let a := s.hw.access
    let access : Word := placeBit a.undefinedOffset 0 ||| placeBit a.readOnlyWrite 1 ||| placeBit a.staleAck 2 |||
      placeBit a.releaseExcess 3 ||| placeBit a.resetPending 4
    let c := s.hw.config
    let r := s.cu.ring[s.cu.tail]
    let shown (w : Word) : Word := if s.cu.count = 0 then 0 else w
    let reads (o : BitVec 7) (f : Word → Prop) : Prop := ∃ w, windowRead s o 0xF#4 = some w ∧ f w
    let stations (o : BitVec 7) (f : Station → Bool) : Prop := reads o fun w =>
      w.getLsbD 0 = false ∧ w.getLsbD 31 = false ∧ ∀ i : StationId, w.getLsbD (i.val + 1) = f (s.station i)
    let points (o : BitVec 7) (base : Nat) : Prop := reads o fun w =>
      ∀ p : PointId, base ≤ p.val → p.val < base + 32 →
        w.getLsbD (p.val - base) = decide ((s.point p).state = .halted)
    (s.hw.resetPin = true → ∀ o e, windowRead s o e = none) ∧
    (s.hw.resetPin = false → ∀ o e, (o.toNat % 4 ≠ 0 ∨ e ≠ 0xF#4) → windowRead s o e = some 0) ∧
    (s.hw.resetPin = false → a.resetPending = true → ∀ o : BitVec 7, o.toNat % 4 = 0 →
      windowRead s o 0xF#4 = some (if o = 0x00#7 then 0x56624001#32 else if o = 0x78#7 then access else 0)) ∧
    (s.hw.resetPin = false → a.resetPending = false →
      (∀ (o : BitVec 7) (w : Word),
        (o, w) ∈ [(0x00#7, 0x56624001#32),
          (0x04#7, place c.maxBurst.toNat 0 ||| place c.retryLimit.toNat 8 ||| placeBit c.attnEnable 16 |||
            placeBit c.alarmEnable 17 ||| placeBit c.pushPull 24),
          (0x08#7, place s.hw.lastCode.toNat 0 ||| place s.hw.seqNumber.toNat 16),
          (0x0C#7, s.param 0), (0x10#7, s.param 1), (0x14#7, s.param 2), (0x18#7, s.param 3),
          (0x1C#7, s.hw.result0), (0x20#7, s.hw.result1), (0x24#7, s.hw.result2),
          (0x28#7, place s.sc.state.code 0 ||| placeBit s.sc.haltPending 3 ||| placeBit s.sc.suspendDropped 4 |||
            place s.pm.state.code 8 ||| place s.fs.frame.toNat 16),
          (0x2C#7, place s.eu.presented.toNat 0 ||| place s.eu.number.toNat 16),
          (0x30#7, s.eu.gathered.setWidth 32), (0x34#7, s.eu.quiet.setWidth 32), (0x38#7, 0),
          (0x3C#7, s.eu.reportEnable.setWidth 32), (0x40#7, s.eu.haltEnable.setWidth 32),
          (0x44#7, s.eu.route.setWidth 32),
          (0x48#7, place s.cu.head.val 0 ||| place s.cu.tail.val 8 ||| place s.cu.count 16 |||
            place s.cu.held.length 24),
          (0x4C#7, shown (place 1 31 ||| place r.point.val 24 ||| place r.slot.val 16 ||| place r.tag.toNat 0)),
          (0x50#7, shown (place r.errors 20 ||| place r.status.code 16 ||| place r.bytesDone 0)),
          (0x54#7, shown (place s.cu.tail.val 16 ||| place r.frame.toNat 0)), (0x58#7, 0), (0x78#7, access)] →
        windowRead s o 0xF#4 = some w) ∧
      stations 0x5C#7 (fun x => decide (x.presence = .present)) ∧ stations 0x60#7 (fun x => x.alert) ∧
      stations 0x64#7 (fun x => decide (x.presence = .lost)) ∧ points 0x68#7 0 ∧ points 0x6C#7 32 ∧
      (s.pm.faultRecord = none → windowRead s 0x70#7 0xF#4 = some 0 ∧ windowRead s 0x74#7 0xF#4 = some 0) ∧
      (∀ f, s.pm.faultRecord = some f → windowRead s 0x70#7 0xF#4 = some f.addr ∧
        windowRead s 0x74#7 0xF#4 = some (place f.kind.code 0 ||| place f.buffer.val 4 ||| place f.slot.val 8 |||
          place f.cause.code 16 ||| place 1 31)) ∧
      reads 0x7C#7 fun w => ∀ b : BufId, w.extractLsb' (4 * b.val) 4 = BitVec.ofNat 4 (s.buffer b).state.code)

/-- Which command a slave write cycle is (R181, Table 9-1, Table 9-3): every register and every code; a cycle that is no
word access is an access at an undefined offset, and a code outside Table 9-3 is an unknown command.
Rests on the model's choice of log 26. -/
def Obligations.SlaveWritesNameTheirCommand : Prop :=
  (∀ (o : BitVec 7) (e : BitVec 4) (w : Word), (o.toNat % 4 ≠ 0 ∨ e ≠ 0xF#4) →
      slaveWrite o e w = .undefinedOffset true o e) ∧
    (∀ (o : BitVec 7) (f : Word → Instr) (w : Word),
      (o, f) ∈ [(0x00#7, Instr.readOnlyWrite .id), (0x04#7, .hostConfigWrite), (0x0C#7, .registerWrite 0),
        (0x10#7, .registerWrite 1), (0x14#7, .registerWrite 2), (0x18#7, .registerWrite 3),
        (0x1C#7, .readOnlyWrite .result0), (0x20#7, .readOnlyWrite .result1), (0x24#7, .readOnlyWrite .result2),
        (0x28#7, .readOnlyWrite .segmentStatus), (0x2C#7, .readOnlyWrite .eventPresented),
        (0x30#7, .readOnlyWrite .eventGathered), (0x34#7, .eventQuietWrite), (0x38#7, .eventAck),
        (0x3C#7, .reportEnableWrite), (0x40#7, .haltEnableWrite), (0x44#7, .routeWrite),
        (0x48#7, .readOnlyWrite .completionStatus), (0x4C#7, .readOnlyWrite .completionView0),
        (0x50#7, .readOnlyWrite .completionView1), (0x54#7, .readOnlyWrite .completionView2), (0x58#7, .completionRelease),
        (0x5C#7, .readOnlyWrite .stationPresent), (0x60#7, .readOnlyWrite .stationAlert),
        (0x64#7, .readOnlyWrite .stationLost), (0x68#7, .readOnlyWrite .pointHaltedLow),
        (0x6C#7, .readOnlyWrite .pointHaltedHigh), (0x70#7, .readOnlyWrite .moverFaultAddress),
        (0x74#7, .readOnlyWrite .moverFaultInfo), (0x78#7, .accessStatusWrite), (0x7C#7, .readOnlyWrite .bufferStatus)] →
      slaveWrite o 0xF#4 w = f w) ∧
    ∀ w : Word,
      (∀ (code : BitVec 8) (c : Instr),
        (code, c) ∈ [(0x01#8, Instr.configurePoint), (0x02#8, .enablePoint), (0x03#8, .disablePoint),
          (0x04#8, .pausePoint), (0x05#8, .continuePoint), (0x06#8, .clearPoint), (0x07#8, .inspectPoint),
          (0x10#8, .postExchange), (0x11#8, .cancelExchange), (0x12#8, .inspectSlot), (0x18#8, .inspectLoad),
          (0x20#8, .setSegmentParameters), (0x21#8, .startSegment), (0x22#8, .stopSegment), (0x23#8, .resetSegment),
          (0x24#8, .haltSegment), (0x25#8, .resumeSegment), (0x26#8, .suspendSegment), (0x27#8, .wakeSegment),
          (0x28#8, .clearStation), (0x30#8, .resumeMover), (0x5A#8, .resetController)] →
        w.setWidth 8 = code → slaveWrite 0x08#7 0xF#4 w = c) ∧
      (w.setWidth 8 ∉ commandCodes → slaveWrite 0x08#7 0xF#4 w = .unknownCommand (w.setWidth 8))

/-! ### Point commands (chapter 1) -/

/-- The point id is checked first: over 63 it gives UNKNOWN_POINT and nothing else changes (R5, R38, R190). -/
def Obligations.PointCommandsCheckTheId : Prop :=
  ∀ (code : BitVec 8) (c : Instr) (s : State),
    (code, c) ∈ [(0x01#8, Instr.configurePoint), (0x02#8, .enablePoint), (0x03#8, .disablePoint), (0x04#8, .pausePoint),
      (0x05#8, .continuePoint), (0x06#8, .clearPoint), (0x07#8, .inspectPoint), (0x10#8, .postExchange)] →
    deaf s = false → 63 < (s.param 0).toNat % 256 →
    exec c s = .next { s with hw := answeredWindow s.hw code 0x11 0 0 0 }

/-- The state check of each point command: BAD_POINT_STATE and nothing else changes (R6, R8, R11, R12, R17, R18, R38). -/
def Obligations.PointCommandsCheckTheState : Prop :=
  ∀ (p : PointId) (s : State), deaf s = false → (s.param 0).toNat % 256 = p.val →
    ((s.point p).state ≠ .disabled →
      exec .configurePoint s = .next { s with hw := answeredWindow s.hw 0x01 0x12 0 0 0 } ∧
      exec .enablePoint s = .next { s with hw := answeredWindow s.hw 0x02 0x12 0 0 0 }) ∧
    ((s.point p).state = .disabled ∨ (s.point p).state = .closing →
      exec .disablePoint s = .next { s with hw := answeredWindow s.hw 0x03 0x12 0 0 0 } ∧
      exec .postExchange s = .next { s with hw := answeredWindow s.hw 0x10 0x12 0 0 0 }) ∧
    ((s.point p).state ≠ .ready → exec .pausePoint s = .next { s with hw := answeredWindow s.hw 0x04 0x12 0 0 0 }) ∧
    ((s.point p).state ≠ .paused →
      exec .continuePoint s = .next { s with hw := answeredWindow s.hw 0x05 0x12 0 0 0 }) ∧
    ((s.point p).state ≠ .halted → exec .clearPoint s = .next { s with hw := answeredWindow s.hw 0x06 0x12 0 0 0 })

/-- CONFIGURE POINT on a DISABLED point writes all ten fields, or none of them with BAD_PARAMETER (R6, R7, R190). -/
def Obligations.ConfigurePointWritesAllOrNone : Prop :=
  ∀ (p : PointId) (s : State), deaf s = false → (s.param 0).toNat % 256 = p.val → (s.point p).state = .disabled →
    let p1 := s.param 1
    let p2 := s.param 2
    (configFieldsLegal p1 p2 (s.param 3) →
      ∃ c : PointConfig,
        exec .configurePoint s =
          .next { s.setPoint p { s.point p with cfg := c } with hw := answeredWindow s.hw 0x01 0 0 0 0 } ∧
        stationAddress c.station = p1.toNat % 256 ∧ c.number.val = p1.toNat / 256 % 16 ∧
        (c.direction = .store ↔ p1.getLsbD 12 = true) ∧ (c.kind = .periodic ↔ p1.getLsbD 13 = true) ∧
        c.maxPayload.bytes = p1.toNat / 65536 % 256 ∧ c.attemptLimit = p2.toNat / 65536 % 16 ∧
        c.queueLimit = (s.param 3).toNat % 256 ∧
        (c.kind = .periodic → c.period = p2.toNat % 256 ∧ c.phase = p2.toNat / 256 % 256 ∧ c.deferInterval = 1) ∧
        (c.kind = .async → c.period = 1 ∧ c.phase = 0 ∧ c.deferInterval = p2.toNat / 2 ^ 24 % 32)) ∧
    (¬ configFieldsLegal p1 p2 (s.param 3) →
      exec .configurePoint s = .next { s with hw := answeredWindow s.hw 0x01 0x13 0 0 0 })

/-- ENABLE POINT on a DISABLED point (R8, R9, R70): of either kind, a binding that another point not DISABLED has gives
BINDING_IN_USE and changes nothing else; with its binding free an ASYNC point is READY at the ring's tail.
Rests on the model's choices of logs 13 and 14. -/
def Obligations.EnablePointJoinsTheRing : Prop :=
  ∀ (p : PointId) (s : State), deaf s = false → (s.param 0).toNat % 256 = p.val → (s.point p).state = .disabled →
    let taken := ∃ q : PointId, q ≠ p ∧ (s.point q).state ≠ .disabled ∧
      (s.point q).cfg.station = (s.point p).cfg.station ∧ (s.point q).cfg.number = (s.point p).cfg.number ∧
      (s.point q).cfg.direction = (s.point p).cfg.direction
    (taken → exec .enablePoint s = .next { s with hw := answeredWindow s.hw 0x02 0x17 0 0 0 }) ∧
    (¬ taken → (s.point p).cfg.kind = .async → ∃ t, exec .enablePoint s = .next t ∧
      ServiceOnly
        { s.setPoint p { s.point p with state := .ready, seq := false, deferCount := 0, missCount := 0,
                                        haltCause := none } with
          fs := { s.fs with ring := s.fs.ring ++ [p], pointer := if s.fs.ring = [] then some p else s.fs.pointer }
          hw := answeredWindow s.hw 0x02 0 0 0 0 } t)

/-- ENABLE POINT on a DISABLED PERIODIC point whose binding is free: position, room and admission in order, then READY at
the position with its cost in the load table (R10, R59, R63, R64). Rests on the model's choices of logs 13 and 14. -/
def Obligations.EnablePointAdmitsPeriodicPoints : Prop :=
  ∀ (p : PointId) (s : State), deaf s = false → (s.param 0).toNat % 256 = p.val → (s.point p).state = .disabled →
    (s.point p).cfg.kind = .periodic → bindingFree s p = true →
    let c := (s.point p).cfg
    let position := (s.param 1).toNat % 256
    let cost := 152 + 10 * c.maxPayload.bytes + s.sc.params.replyTimeout
    let fits := ∀ r : Residue, r.val % c.period = c.phase →
      s.fs.load[r] + cost ≤ 3 * (s.sc.params.frameLength - 232) / 4
    (s.fs.periodic.length < position →
      exec .enablePoint s = .next { s with hw := answeredWindow s.hw 0x02 0x13 0 0 0 }) ∧
    (position ≤ s.fs.periodic.length → 32 ≤ s.fs.periodic.length →
      exec .enablePoint s = .next { s with hw := answeredWindow s.hw 0x02 0x18 0 0 0 }) ∧
    (position ≤ s.fs.periodic.length → s.fs.periodic.length < 32 → ¬ fits →
      exec .enablePoint s = .next { s with hw := answeredWindow s.hw 0x02 0x19 0 0 0 }) ∧
    (position ≤ s.fs.periodic.length → s.fs.periodic.length < 32 → fits →
      ∃ t, exec .enablePoint s = .next t ∧
        (∀ r : Residue, t.fs.load[r] = s.fs.load[r] + (if r.val % c.period = c.phase then cost else 0)) ∧
        ServiceOnly
          { s.setPoint p { s.point p with state := .ready, seq := false, deferCount := 0, missCount := 0,
                                          haltCause := none } with
            fs := { s.fs with
              periodic := s.fs.periodic.take position ++ p :: s.fs.periodic.drop position, load := t.fs.load }
            hw := answeredWindow s.hw 0x02 0 0 0 0 } t)

/-- PAUSE POINT takes a READY point to PAUSED, off the staging wait list and with its staged buffer kept; CONTINUE POINT and
CLEAR POINT bring it back to READY (R11, R12, R17, R4), with the grants of its happening and the choice that follows.
Rests on the model's choices of logs 13 and 14. -/
def Obligations.PauseContinueAndClearMoveThePoint : Prop :=
  ∀ (p : PointId) (s : State), deaf s = false → (s.param 0).toNat % 256 = p.val →
    ((s.point p).state = .ready → ∃ t, exec .pausePoint s = .next t ∧ p ∉ t.bp.waitList ∧
      (t.point p).staged = (s.point p).staged ∧
      StagingOnly
        { s.setPoint p { s.point p with state := .paused } with hw := answeredWindow s.hw 0x04 0 0 0 0 } t) ∧
    ((s.point p).state = .paused → ∃ t, exec .continuePoint s = .next t ∧
      ServiceOnly
        { s.setPoint p { s.point p with state := .ready } with hw := answeredWindow s.hw 0x05 0 0 0 0 } t) ∧
    ((s.point p).state = .halted → ∃ t, exec .clearPoint s = .next t ∧
      ServiceOnly
        { s.setPoint p { s.point p with state := .ready, haltCause := none, seq := false } with
          hw := answeredWindow s.hw 0x06 0 0 0 0 } t)

/-- DISABLE POINT with an empty queue: the point reaches DISABLED, leaves the scheduler, POINT_CLOSED is raised and the
result is CLOSED (R18, R20). Rests on the model's choices of logs 13 and 14. -/
def Obligations.DisablePointWithNothingQueuedCloses : Prop :=
  ∀ (p : PointId) (s : State), deaf s = false → (s.param 0).toNat % 256 = p.val →
    ((s.point p).state = .ready ∨ (s.point p).state = .paused ∨ (s.point p).state = .halted) → s.queue p = [] →
    ∃ t, exec .disablePoint s = .next t ∧
      ServiceOnly { pointClosed s p with hw := answeredWindow s.hw 0x03 0x06 0 0 0 } t

/-- DISABLE POINT flushes the queue from its first exchange on (R18, R47, R27, R29). A first exchange that is QUEUED, or
ACTIVE with no mark and nothing of it in flight or outstanding but a STAGED buffer, which is freed, ends FLUSHED; so do the
QUEUED ones behind it, each with its record posted where it has notify. Where the records all fit, the point reaches
DISABLED; the first record that cannot be posted leaves its exchange held, each later one takes cancel_requested, and the
point stays CLOSING (R155, R156). So it does behind a first exchange that stays: any other ACTIVE one, which takes
cancel_requested unless it has fault_mark, and a RETIRING one, which keeps its status.
Rests on the model's choices of logs 8, 10, 13 and 14. -/
def Obligations.DisablePointFlushesTheQueue : Prop :=
  ∀ (p : PointId) (x : SlotId) (rest : List SlotId) (s : State), deaf s = false → (s.param 0).toNat % 256 = p.val →
    ((s.point p).state = .ready ∨ (s.point p).state = .paused ∨ (s.point p).state = .halted) →
    s.queue p = x :: rest → (x :: rest).Nodup → (s.slot x).point = some p → (∀ y ∈ rest, Waits s p y) →
    (∀ b, (s.point p).staged = some b → (s.buffer b).point = some p ∧ (s.buffer b).slot = some x) →
    let e := s.slot x
    let u := stagedFreed s x p
    let ends := (u.slot x).jobs = 0 ∧
      (e.state = .queued ∨
        e.state = .active ∧ e.faultMark = false ∧ e.cancelRequested = false ∧ inFlight s x = false)
    let recorded (l : List SlotId) : List SlotId := l.filter fun y => (s.slot y).notify
    let fit (l : List SlotId) : Prop := recorded l = [] ∨ s.cu.held = [] ∧ s.cu.count + (recorded l).length ≤ 64
    let record (y : SlotId) : Record :=
      { tag := (s.slot y).tag, slot := y, point := p, status := .flushed
        bytesDone := if (s.point p).cfg.direction = .store then (s.slot y).bytesLine else (s.slot y).bytesMemory
        errors := (s.slot y).errors, frame := s.fs.frame }
    let written (l : List SlotId) (ring : Vector Record 64) : Prop :=
      (∀ i y, (recorded l)[i]? = some y → ring[s.cu.head + Fin.ofNat 64 i] = record y) ∧
        ∀ j, (∀ i, i < (recorded l).length → s.cu.head + Fin.ofNat 64 i ≠ j) → ring[j] = s.cu.ring[j]
    let closing (v : State) : State := v.setPoint p { v.point p with state := .closing, haltCause := none }
    let flushed (l behind : List SlotId) (ring : Vector Record 64) : State := closing { u with
      sp := { slots := Vector.ofFn fun y => if y ∈ l then Slot.free else u.slot y
              freeList := u.sp.freeList ++ l
              queues := u.sp.queues.set p behind }
      cu := { s.cu with
        ring := ring, head := s.cu.head + Fin.ofNat 64 (recorded l).length
        count := s.cu.count + (recorded l).length }
      eu := (recorded l).foldl (fun e _ => e.take s.hw.config .completionPosted) s.eu }
    let marked (v : State) (l : List SlotId) : State := { v with
      sp := { v.sp with slots := Vector.ofFn fun y =>
        if y ∈ l then { v.slot y with cancelRequested := true } else v.slot y } }
    let answers (rc n : Nat) (v : State) : Prop := ∃ t, exec .disablePoint s = .next t ∧
      ServiceOnly { v with hw := answeredWindow s.hw 0x03 rc 0 (BitVec.ofNat 32 n) 0 } t
    (ends → fit (x :: rest) → ∃ ring, written (x :: rest) ring ∧
      answers 0x06 0 (pointClosed (flushed (x :: rest) [] ring) p)) ∧
    (ends → ∀ before y later, x :: rest = before ++ y :: later → (s.slot y).notify = true → fit before →
      (s.cu.held ≠ [] ∨ 64 ≤ s.cu.count + (recorded before).length) → p ∉ s.cu.held →
      ∃ ring, written before ring ∧
        let v := flushed before (y :: later) ring
        answers 0x07 (later.length + 1)
          { marked (v.setSlot y { v.slot y with state := .retiring, status := some .flushed }) later with
            cu := { v.cu with held := v.cu.held ++ [p] }
            eu := if s.cu.held = [] then v.eu.take s.hw.config .completionBacklog else v.eu }) ∧
    (e.state = .active → ¬ ends → answers 0x07 (rest.length + 1)
      (closing (marked s (if e.faultMark = true then rest else x :: rest)))) ∧
    (e.state = .retiring → (e.jobs ≠ 0 ∨ p ∈ s.cu.held ∧ ∃ st, e.status = some st ∧ CompletionIsDue e st) →
      answers 0x07 (rest.length + 1) (closing (marked s rest)))

/-- INSPECT POINT changes only the window, and its words carry the items of R25 at the places of R190. -/
def Obligations.InspectPointReportsThePoint : Prop :=
  ∀ (p : PointId) (s : State), deaf s = false → (s.param 0).toNat % 256 = p.val →
    let q := s.point p
    let staged : Bool := match q.staged with
      | some b => decide ((s.buffer b).state = .staged)
      | none => false
    let first : Word := match (s.queue p).head? with
      | some x => place x.val 16 ||| place 1 24
      | none => 0
    let word1 : Word :=
      place q.state.code 0 ||| placeBit q.seq 3 ||| place (s.queue p).length 8 ||| first ||| placeBit staged 25
    let word2 : Word := place q.missCount 0 ||| place q.deferCount 8 ||| place (haltCauseCode q.haltCause) 12
    exec .inspectPoint s = .next { s with hw := answeredWindow s.hw 0x07 0 0 word1 word2 }

/-! ### Exchange commands and the load (chapters 2 and 3) -/

/-- The checks of POST EXCHANGE after the point's state, in their order; each refusal changes nothing else (R38). -/
def Obligations.PostExchangeChecksInOrder : Prop :=
  ∀ (p : PointId) (s : State), deaf s = false → (s.param 0).toNat % 256 = p.val →
    (s.point p).state ≠ .disabled → (s.point p).state ≠ .closing →
    let length := (s.param 2).toNat
    let bad := 32768 < length ∨ ((s.point p).cfg.direction = .fetch ∧ length = 0) ∨
      2 ^ 32 < (s.param 1).toNat + length
    (bad → exec .postExchange s = .next { s with hw := answeredWindow s.hw 0x10 0x14 0 0 0 }) ∧
    (¬ bad → (s.point p).cfg.queueLimit ≤ (s.queue p).length →
      exec .postExchange s = .next { s with hw := answeredWindow s.hw 0x10 0x15 0 0 0 }) ∧
    (¬ bad → (s.queue p).length < (s.point p).cfg.queueLimit → s.sp.freeList = [] →
      exec .postExchange s = .next { s with hw := answeredWindow s.hw 0x10 0x16 0 0 0 })

/-- An accepted POST EXCHANGE takes the slot at the head of the free list and appends the exchange to the point's queue;
then staging and the scheduler are served (R39, R29, R30, R191). Rests on the model's choices of logs 13 and 14. -/
def Obligations.PostExchangeTakesTheFirstFreeSlot : Prop :=
  ∀ (p : PointId) (x : SlotId) (rest : List SlotId) (s : State), deaf s = false → (s.param 0).toNat % 256 = p.val →
    (s.point p).state ≠ .disabled → (s.point p).state ≠ .closing →
    (s.param 2).toNat ≤ 32768 → ((s.point p).cfg.direction = .fetch → (s.param 2).toNat ≠ 0) →
    (s.param 1).toNat + (s.param 2).toNat ≤ 2 ^ 32 → (s.queue p).length < (s.point p).cfg.queueLimit →
    s.sp.freeList = x :: rest →
    ∃ t, exec .postExchange s = .next t ∧
      ServiceOnly
        { s with
          sp := { slots := s.sp.slots.set x
                    { Slot.free with
                      state := .queued, point := some p, tag := (s.param 0).extractLsb' 16 16, hostAddr := s.param 1,
                      length := (s.param 2).toNat, notify := (s.param 0).getLsbD 8,
                      shortOk := (s.param 0).getLsbD 9 && decide ((s.point p).cfg.direction = .fetch) }
                  freeList := rest
                  queues := s.sp.queues.set p (s.queue p ++ [x]) }
          hw := answeredWindow s.hw 0x10 0x01 x.val
            (place ((s.queue p).length + 1) 0 ||| place rest.length 16) 0 } t

/-- CANCEL EXCHANGE ends an exchange with nothing in flight (R43, R44), CANCELLED, or FLUSHED where its point is CLOSING: a
QUEUED one leaves the queue, with its record posted where one is due and the ring has room; with the ring full the first of a
queue is held, with COMPLETION_BACKLOG where the list was empty (R156), and a later one takes cancel_requested; an ACTIVE one
frees its STAGED buffer and ends. An exchange behind it with cancel_requested that becomes first ends too (R42).
Rests on the model's choices of logs 8, 10, 13 and 14. -/
def Obligations.CancelRemovesAQueuedExchange : Prop :=
  ∀ (x : SlotId) (p : PointId) (s : State), deaf s = false → (s.param 0).toNat % 65536 = x.val →
    (s.slot x).point = some p → (s.slot x).cancelRequested = false →
    let e := s.slot x
    let st := cancelGives s p
    let left := (s.queue p).erase x
    let full := e.notify = true ∧ 64 ≤ s.cu.count
    let stays (y : SlotId) : Prop := y ≠ x ∧
      ((s.slot y).state = .queued ∧ (s.slot y).cancelRequested = false ∨
        (s.slot y).state = .active ∧ (inFlight s y = true ∨ (s.slot y).faultMark = false ∧
          ((s.slot y).cancelRequested = false ∨
            (s.slot y).point = some p ∧ ((stagedFreed s y p).slot y).jobs ≠ 0)) ∨
        (s.slot y).state = .retiring ∧ ((s.slot y).jobs ≠ 0 ∨
          p ∈ s.cu.held ∧ ∃ st, (s.slot y).status = some st ∧ CompletionIsDue (s.slot y) st))
    let answered (rc state mark : Nat) (u : State) : State :=
      { u with hw := answeredWindow s.hw 0x11 rc state (BitVec.ofNat 32 mark) 0 }
    (e.state = .queued → (∀ b, (s.point p).staged = some b → (s.buffer b).slot ≠ some x) →
      ((∃ y, left.head? = some y ∧ stays y) ∨ p ∉ s.cu.held ∧ ∀ y ∈ left, y ≠ x ∧ Waits s p y) →
      (¬ full → ∃ t, exec .cancelExchange s = .next t ∧
        ServiceOnly (answered 0x02 0 0 (slotFreed
          (if e.notify = true then recordPosted s p x st else s) p x left)) t) ∧
      (full → s.first p = some x → e.jobs = 0 → p ∉ s.cu.held → ∃ t, exec .cancelExchange s = .next t ∧
        ServiceOnly (answered 0x02 3 0 { s.setSlot x { e with state := .retiring, status := some st } with
          cu := { s.cu with held := s.cu.held ++ [p] }
          eu := if s.cu.held = [] then s.eu.take s.hw.config .completionBacklog else s.eu }) t) ∧
      (full → s.first p ≠ some x → ∃ t, exec .cancelExchange s = .next t ∧
        StagingOnly (answered 0x03 1 1 (s.setSlot x { e with cancelRequested := true })) t)) ∧
    ∀ rest, e.state = .active → Leads s p x rest → e.faultMark = false → inFlight s x = false →
      ((stagedFreed s x p).slot x).jobs = 0 →
      let u := ended (stagedFreed s x p) p x rest st
      ∃ t, exec .cancelExchange s = .next t ∧ ServiceOnly (answered 0x02 (u.slot x).state.code 0 u) t

/-- The rows of CANCEL EXCHANGE's table that change no exchange, and the one that marks an ACTIVE exchange of which
something is in flight or outstanding (R43, R191); a number over 255 gives BAD_PARAMETER. A slot that a completed retirement
has freed answers NOT_QUEUED: R45 names ALREADY_ENDING there, and the model follows R43 (log 4). Rests on the model's choices
of logs 13 and 14. -/
def Obligations.CancelOutcomesByTheSlot : Prop :=
  (∀ s : State, deaf s = false → 255 < (s.param 0).toNat % 65536 →
    exec .cancelExchange s = .next { s with hw := answeredWindow s.hw 0x11 0x13 0 0 0 }) ∧
  ∀ (x : SlotId) (s : State), deaf s = false → (s.param 0).toNat % 65536 = x.val →
    let e := s.slot x
    let answer (rc value flag : Nat) : State :=
      { s with hw := answeredWindow s.hw 0x11 rc value (BitVec.ofNat 32 flag) 0 }
    (e.state = .free → exec .cancelExchange s = .next (answer 0x04 0 e.cancelRequested.toNat)) ∧
    (e.state = .retiring → exec .cancelExchange s = .next (answer 0x05 3 e.cancelRequested.toNat)) ∧
    (e.state = .active → e.point ≠ none → e.faultMark = true →
      exec .cancelExchange s = .next (answer 0x05 2 e.cancelRequested.toNat)) ∧
    (e.state = .active → e.point ≠ none → e.faultMark = false → e.cancelRequested = true →
      exec .cancelExchange s = .next (answer 0x03 2 1)) ∧
    (e.state = .queued → e.point ≠ none → e.cancelRequested = true →
      exec .cancelExchange s = .next (answer 0x03 1 1)) ∧
    (∀ p rest, e.state = .active → Leads s p x rest → e.faultMark = false → e.cancelRequested = false →
      (inFlight s x = true ∨ ((stagedFreed s x p).slot x).jobs ≠ 0) →
      ∃ t, exec .cancelExchange s = .next t ∧
        StagingOnly { s.setSlot x { e with cancelRequested := true } with
          hw := answeredWindow s.hw 0x11 0x03 2 1 0 } t)

/-- INSPECT SLOT changes only the window, and the words of its two views carry the items of R50 at the places of R192; a
number over 255 gives BAD_PARAMETER. -/
def Obligations.InspectSlotReportsTheSlot : Prop :=
  (∀ s : State, deaf s = false → 255 < (s.param 0).toNat % 65536 →
    exec .inspectSlot s = .next { s with hw := answeredWindow s.hw 0x12 0x13 0 0 0 }) ∧
  ∀ (x : SlotId) (s : State), deaf s = false → (s.param 0).toNat % 65536 = x.val →
    let e := s.slot x
    let point : Word := match e.point with
      | some p => place p.val 16 ||| place 1 22
      | none => 0
    let final : Nat := match e.state, e.status with
      | .retiring, some st => st.code
      | _, _ => 0xF
    let next : Word := match nextSlot s x with
      | some y => place y.val 16 ||| place 1 24
      | none => 0
    let view0 : Word × Word :=
      (place e.tag.toNat 0 ||| point ||| place final 28,
        place e.errors 0 ||| place e.jobs 4 ||| placeBit e.notify 8 ||| placeBit e.shortOk 9 |||
          placeBit e.cancelRequested 10 ||| placeBit e.faultMark 11 ||| placeBit (isHeld s x) 12 |||
          placeBit (inFlight s x) 13 ||| next)
    let view1 : Word × Word := (place e.length 0 ||| place e.bytesLine 16, place e.bytesMemory 0)
    ((s.param 1).getLsbD 0 = false →
      exec .inspectSlot s = .next { s with hw := answeredWindow s.hw 0x12 0 e.state.code view0.1 view0.2 }) ∧
    ((s.param 1).getLsbD 0 = true →
      exec .inspectSlot s = .next { s with hw := answeredWindow s.hw 0x12 0 e.state.code view1.1 view1.2 })

/-- INSPECT LOAD changes only the window: the load and limit of the residue, its due count and the list's length; a
residue over 127 gives BAD_PARAMETER (R65, R64, R193). -/
def Obligations.InspectLoadReportsTheResidue : Prop :=
  (∀ s : State, deaf s = false → 127 < (s.param 0).toNat % 256 →
    exec .inspectLoad s = .next { s with hw := answeredWindow s.hw 0x18 0x13 0 0 0 }) ∧
  ∀ (r : Residue) (s : State), deaf s = false → (s.param 0).toNat % 256 = r.val →
    let due := s.fs.periodic.countP fun p => decide (r.val % (s.point p).cfg.period = (s.point p).cfg.phase)
    let word1 : Word := place s.fs.load[r] 0 ||| place (3 * (s.sc.params.frameLength - 232) / 4) 16
    let word2 : Word := place due 0 ||| place s.fs.periodic.length 8
    exec .inspectLoad s = .next { s with hw := answeredWindow s.hw 0x18 0 0 word1 word2 }

/-! ### Segment and station commands (chapter 5), RESUME MOVER, RESET CONTROLLER -/

/-- SET SEGMENT PARAMETERS: the three checks in order, and the parameters in force returned after every outcome (R122,
R189, R193). -/
def Obligations.SetSegmentParametersChecksAndReturns : Prop :=
  ∀ s : State, deaf s = false →
    let p0 := s.param 0
    let p1 := s.param 1
    let legal := 1280 ≤ p0.toNat % 65536 ∧ 16 ≤ p0.toNat / 65536 % 256 ∧ 1 ≤ p0.toNat / 2 ^ 24 % 16 ∧
      1 ≤ p0.toNat / 2 ^ 28 % 16
    let refused (rc : Nat) : State :=
      { s with hw := answeredWindow s.hw 0x20 rc 0 s.sc.params.word0 s.sc.params.word1 }
    (s.sc.state ≠ .down → exec .setSegmentParameters s = .next (refused 0x1A)) ∧
    (s.sc.state = .down → ¬ legal → exec .setSegmentParameters s = .next (refused 0x13)) ∧
    (s.sc.state = .down → legal → s.fs.periodic ≠ [] → exec .setSegmentParameters s = .next (refused 0x1B)) ∧
    (s.sc.state = .down → legal → s.fs.periodic = [] →
      ∃ q : SegParams,
        exec .setSegmentParameters s = .next { s with
          sc := { s.sc with params := q }, hw := answeredWindow s.hw 0x20 0 0 p0 (p1 &&& 0x31#32) } ∧
        q.frameLength = p0.toNat % 65536 ∧ q.replyTimeout = p0.toNat / 65536 % 256 ∧
        q.detachCount = p0.toNat / 2 ^ 24 % 16 ∧ q.silenceLimit = p0.toNat / 2 ^ 28 % 16 ∧
        q.autoWake = p1.getLsbD 0 ∧ q.bitRate.code = p1.toNat / 16 % 4)

/-- What entry to RESETTING does to the points, the stations, the scheduler and the line engine (R108). -/
def Obligations.StartSegmentEntersResetting : Prop :=
  ∀ s : State, deaf s = false → s.sc.state = .down →
    ∃ t, exec .startSegment s = .next t ∧
      t = { s with
        pt := t.pt
        sc := { s.sc with state := .resetting, haltPending := false, suspendDropped := false, waiting := .none,
                          stations := t.sc.stations }
        fs := { s.fs with running := false, frame := 0, due := [] }
        le := { s.le with state := .signalling, slotsRead := t.le.slotsRead, lineBits := t.le.lineBits }
        hw := answeredWindow s.hw 0x21 0 1 0 0 } ∧
      (∀ p, t.point p = { s.point p with seq := false, deferCount := 0 }) ∧
      (∀ i, t.station i =
        { s.station i with presence := .absent, silent := 0, streak := 0, answered := false })

/-- STOP SEGMENT with no transaction in flight: the segment is DOWN in the command's happening, in every state but DOWN
(R111, R106). The ACTIVE exchanges of all points end LINE_RESET, or by their marks, in ascending point id, before
SEGMENT_CHANGED (R48); that entry and their ending are the whole effect but for staging.
Rests on the model's choices of logs 8 to 10, 13 and 14. -/
def Obligations.StopSegmentEntersDown : Prop :=
  ∀ s : State, deaf s = false → s.sc.state ≠ .down → s.le.txn = none →
    ∃ t u, exec .stopSegment s = .next t ∧ EnteredDown s u ∧ t.hw = answeredWindow s.hw 0x22 0 0 0 0 ∧
      t.sc = u.sc ∧ t.le = u.le ∧ t.fs.running = false ∧ t.fs.frame = s.fs.frame ∧ t.fs.due = [] ∧
      (∀ p, (t.point p).seq = false ∧ (t.point p).cfg = (s.point p).cfg) ∧
      (ActivesLead s → StagingOnly { lineResets u with
        eu := (lineResets u).eu.take s.hw.config .segmentChanged
        hw := answeredWindow s.hw 0x22 0 0 0 0 } t)

/-- RESET SEGMENT with no transaction in flight: the segment is RESETTING in the command's happening (R110, R108, R106) and
no event is raised for it. The ACTIVE exchanges of all points end LINE_RESET, or by their marks, in ascending point id (R48),
their records with frame number 0 (log 12); that entry and their ending are the whole effect but for staging.
Rests on the model's choices of logs 8 to 10 and 12 to 14. -/
def Obligations.ResetSegmentEntersResetting : Prop :=
  ∀ s : State, deaf s = false →
    (s.sc.state = .running ∨ s.sc.state = .halting ∨ s.sc.state = .halted ∨ s.sc.state = .suspending ∨
      s.sc.state = .suspended) → s.le.txn = none →
    ∃ t u, exec .resetSegment s = .next t ∧ EnteredResetting s u ∧ t.hw = answeredWindow s.hw 0x23 0 0 0 0 ∧
      t.sc = u.sc ∧ t.le = u.le ∧ t.fs.running = false ∧ t.fs.frame = 0 ∧ t.fs.due = [] ∧
      (∀ p, (t.point p).seq = false ∧ (t.point p).deferCount = 0 ∧ (t.point p).cfg = (s.point p).cfg) ∧
      (ActivesLead s → StagingOnly { lineResets u with hw := answeredWindow s.hw 0x23 0 0 0 0 } t)

/-- RESET SEGMENT and STOP SEGMENT taken with a transaction in flight wait for its end: only the waiting transition and
the result change, and the later of the two replaces the earlier (R110, R111, R106). Whatever the transaction ends with, the
waiting STOP leaves the segment DOWN and the waiting RESET leaves it RESETTING, and in HALTING it enters HALTED (R115). At
the end of a transaction answered DEFER the transition follows the outcome and ends the ACTIVE exchanges (R48), at a RESET
with frame number 0 in their records (log 12). The elapsed time moves up to the happening's moment (log 2).
Rests on the model's choices of logs 2, 8 to 10, 12 to 14 and 18. -/
def Obligations.ResetAndStopWaitForTheTransaction : Prop :=
  (∀ s : State, deaf s = false → s.le.txn ≠ none →
    (s.sc.state ≠ .down → exec .stopSegment s = .next { s with
      sc := { s.sc with waiting := .stop }, hw := answeredWindow s.hw 0x22 0 1 0 0 }) ∧
    ((s.sc.state = .running ∨ s.sc.state = .halting ∨ s.sc.state = .halted ∨ s.sc.state = .suspending ∨
      s.sc.state = .suspended) → exec .resetSegment s = .next { s with
        sc := { s.sc with waiting := .reset }, hw := answeredWindow s.hw 0x23 0 1 0 0 })) ∧
  (∀ (levels : List Bool) (s v : State), exec (.transactionEnd levels) s = .next v →
    let absent := ∀ i, (v.station i).presence = .absent ∧ (v.station i).silent = 0 ∧ (v.station i).streak = 0 ∧
      (v.station i).answered = false
    (s.sc.waiting = .stop → v.sc.state = .down ∧ v.sc.haltPending = false ∧ v.sc.waiting = .none ∧ absent ∧
      v.le = { s.le with state := .off, txn := none, slotsRead := 0, lineBits := 0 } ∧ v.fs.running = false ∧
      v.fs.due = [] ∧ v.fs.frame = s.fs.frame ∧ ∀ p, (v.point p).seq = false) ∧
    (s.sc.waiting = .reset → v.sc.state = .resetting ∧ v.sc.waiting = .none ∧ absent ∧
      v.le = { s.le with state := .signalling, txn := none, slotsRead := 0, lineBits := 0 } ∧ v.fs.running = false ∧
      v.fs.due = [] ∧ v.fs.frame = 0 ∧ ∀ p, (v.point p).seq = false ∧ (v.point p).deferCount = 0) ∧
    (s.sc.waiting = .none → s.sc.state = .halting → v.sc.state = .halted ∧ v.sc.haltPending = false ∧
      v.sc.waiting = .none ∧ v.le = { s.le with state := .idle, txn := none })) ∧
  ∀ (t : Txn) (a : Nat) (rest : List SlotId) (s : State), TxnUnderway s t rest →
    s.le.state = (if t.direction = .store then .awaitReply else .receiving) → t.answerBegan = some a →
    s.fs.elapsed ≤ a + 38 →
    let freed :=
      if t.direction = .store then txnEnded s t (a + 38) 0
      else bufferFreed (txnEnded s t (a + 38) 0) t.buffer t.slot t.point
    let q := s.point t.point
    ∃ v, exec (.transactionEnd (Packet.reply .defer).levels) s = .next v ∧
      TxnCloses s (markTaken (freed.setPoint t.point { freed.point t.point with
        deferCount := if q.cfg.kind = .async then q.cfg.deferInterval else q.deferCount }) t.point t.slot rest) v

/-- HALT SEGMENT in RUNNING and SUSPENDING (R112): the due list is emptied, a suspend is dropped, and the segment is HALTED
at once, or HALTING with a transaction in flight. -/
def Obligations.HaltSegmentHaltsOrWaits : Prop :=
  ∀ s : State, deaf s = false → (s.sc.state = .running ∨ s.sc.state = .suspending) →
    let dropped := s.sc.suspendDropped || decide (s.sc.state = .suspending)
    (s.le.txn = none → exec .haltSegment s = .next { s with
      sc := { s.sc with state := .halted, haltPending := false, suspendDropped := dropped }
      fs := { s.fs with due := [] }
      eu := s.eu.take s.hw.config .segmentChanged
      hw := answeredWindow s.hw 0x24 0 4 0 0 }) ∧
    (s.le.txn ≠ none → exec .haltSegment s = .next { s with
      sc := { s.sc with state := .halting, suspendDropped := dropped }
      fs := { s.fs with due := [] }
      hw := answeredWindow s.hw 0x24 0 3 0 0 })

/-- RESUME SEGMENT in HALTED (R116, R121): RUNNING with SEGMENT_CHANGED and a choice, or MOVER_FAULTED. -/
def Obligations.ResumeSegmentRunsUnlessMoverFaulted : Prop :=
  ∀ s : State, deaf s = false → s.sc.state = .halted →
    (s.pm.state = .faulted → exec .resumeSegment s = .next { s with hw := answeredWindow s.hw 0x25 0x1C 0 0 0 }) ∧
    (s.pm.state ≠ .faulted → ∃ t, exec .resumeSegment s = .next t ∧
      ChoiceOnly { s with
        sc := { s.sc with state := .running }
        eu := s.eu.take s.hw.config .segmentChanged
        hw := answeredWindow s.hw 0x25 0 2 0 0 } t)

/-- SUSPEND SEGMENT in RUNNING and WAKE SEGMENT in SUSPENDED (R117, R120); the end of the SUSPEND MARK (R100). In SUSPENDED
after that end the line is watched (R102, R119): 100 bit times at 0 report the wake pattern once, fewer report nothing, a
level of 1 ends the hold, and with auto_wake the report wakes the segment; elsewhere levels change nothing. The count of
the hold is the model's own field (logs 25, 27). -/
def Obligations.SuspendAndWakeMoveTheSegment : Prop :=
  ∀ s : State,
    let waking (u : State) : State :=
      { u with sc := { u.sc with state := .waking }, le := { u.le with state := .signalling, lineBits := 0 } }
    let low (n : Nat) : State := { s with le := { s.le with lowBits := n } }
    (deaf s = false → s.sc.state = .running → exec .suspendSegment s = .next { s with
      sc := { s.sc with state := .suspending, suspendDropped := false }, hw := answeredWindow s.hw 0x26 0 5 0 0 }) ∧
    (deaf s = false → s.sc.state = .suspended →
      exec .wakeSegment s = .next { waking s with hw := answeredWindow s.hw 0x27 0 7 0 0 }) ∧
    (s.sc.state = .suspended → s.le.state = .marking →
      exec .suspendMarkEnd s = .next { s with le := { s.le with state := .idle, lineBits := 0, lowBits := 0 } }) ∧
    (s.sc.state = .suspended → s.le.state = .idle → s.le.lowBits ≤ 100 →
      (∀ k, s.le.lowBits + k < 100 → exec (.wakePattern (List.replicate k false)) s = .next (low (s.le.lowBits + k))) ∧
      (∀ k, s.le.lowBits < 100 → 100 ≤ s.le.lowBits + k →
        let reported : State := { low 100 with eu := s.eu.take s.hw.config .stationWake }
        exec (.wakePattern (List.replicate k false)) s =
          .next (if s.sc.params.autoWake = true then waking reported else reported)) ∧
      (∀ k, s.le.lowBits = 100 → exec (.wakePattern (List.replicate k false)) s = .next s) ∧
      ∀ rest, exec (.wakePattern (true :: rest)) s = exec (.wakePattern rest) (low 0)) ∧
    ((s.sc.state ≠ .suspended ∨ s.le.state ≠ .idle) → ∀ levels, exec (.wakePattern levels) s = .next s)

/-- The "—" entries of the table of R106: WRONG_SEGMENT_STATE and nothing else changes. -/
def Obligations.SegmentCommandsCheckTheState : Prop :=
  ∀ (code : BitVec 8) (c : Instr) (taken : List SegState) (s : State),
    (code, c, taken) ∈ [(0x21#8, Instr.startSegment, [SegState.down]),
      (0x23#8, .resetSegment, [.running, .halting, .halted, .suspending, .suspended]),
      (0x22#8, .stopSegment, [.resetting, .running, .halting, .halted, .suspending, .suspended, .waking]),
      (0x24#8, .haltSegment, [.running, .suspending]), (0x25#8, .resumeSegment, [.halted]),
      (0x26#8, .suspendSegment, [.running]), (0x27#8, .wakeSegment, [.suspended])] →
    deaf s = false → s.sc.state ∉ taken →
    exec c s = .next { s with hw := answeredWindow s.hw code 0x1A 0 0 0 }

/-- CLEAR STATION (R128, R194): the flags and the streak are cleared, a LOST station becomes PRESENT or ABSENT by its last
census answer, the entry before is returned, and the scheduler chooses where R73 allows. -/
def Obligations.ClearStationClearsTheEntry : Prop :=
  (∀ s : State, deaf s = false → ((s.param 0).toNat % 256 = 0 ∨ 30 < (s.param 0).toNat % 256) →
    exec .clearStation s = .next { s with hw := answeredWindow s.hw 0x28 0x13 0 0 0 }) ∧
  ∀ (i : StationId) (s : State), deaf s = false → (s.param 0).toNat % 256 = i.val + 1 →
    let x := s.station i
    let after : Presence := if x.presence = .lost then (if x.answered then .present else .absent) else x.presence
    let word1 : Word := place x.presence.code 0 ||| place x.silent 4 ||| place x.streak 8 ||| placeBit x.alert 12 |||
      placeBit x.clash 13 ||| placeBit x.answered 14
    ∃ t, exec .clearStation s = .next t ∧
      ChoiceOnly
        { s.setStation i { x with alert := false, clash := false, streak := 0, presence := after } with
          hw := answeredWindow s.hw 0x28 0 0 word1 (BitVec.ofNat 32 after.code) } t

/-- RESUME MOVER (R150): in FAULTED the record goes and the mover takes the first drain job, or failing that the first
stage job (R139), with its buffer's count, slot and address (R140) and its first burst chosen (R142, log 14), or is IDLE;
otherwise NOT_FAULTED. No event is raised and the segment stays as it is. -/
def Obligations.ResumeMoverClearsTheFault : Prop :=
  ∀ s : State, deaf s = false →
    (s.pm.state ≠ .faulted → exec .resumeMover s = .next { s with hw := answeredWindow s.hw 0x30 0x1D 0 0 0 }) ∧
    (s.pm.state = .faulted → s.pm.drainQueue = [] → s.pm.stageQueue = [] →
      exec .resumeMover s = .next { s with
        pm := { s.pm with state := .idle, faultRecord := none }, hw := answeredWindow s.hw 0x30 0 0 0 0 }) ∧
    (∀ (k : JobKind) (b : BufId) (drains stages : List BufId), s.pm.state = .faulted →
      ((k = .drain ∧ s.pm.drainQueue = b :: drains ∧ s.pm.stageQueue = stages) ∨
        (k = .stage ∧ s.pm.drainQueue = [] ∧ drains = [] ∧ s.pm.stageQueue = b :: stages)) →
      ∃ t, exec .resumeMover s = .next t ∧
        t = { s with pm := t.pm, hw := answeredWindow s.hw 0x30 0 1 0 0 } ∧
        JobTaken { s.pm with faultRecord := none } s.hw.config.maxWords k b (s.buffer b) drains stages t.pm)

/-- RESET CONTROLLER outside a burst: every block takes its reset values and HOST CONFIG stays; in a burst the reset waits
with the line quiet and the lines released, and any answer of the burst completes it (R195, R196). The kept ring and
buffer contents are the model's (logs 7, 8), and so is what stands still during the wait: the timer stopped, the due list
empty and no transition waiting, the other records as they were (log 23). -/
def Obligations.ResetControllerResetsOrWaits : Prop :=
  ∀ s : State, deaf s = false →
    let fresh (u t : State) : Prop :=
      t.pt = PointTable.reset ∧ t.sp = SlotPool.reset ∧ t.fs = FrameScheduler.reset ∧ t.le = LineEngine.reset ∧
        t.sc = SegmentControl.reset ∧ t.pm = Mover.reset ∧ t.cu = { CompletionUnit.reset with ring := u.cu.ring } ∧
        t.eu = EventUnit.reset ∧ t.hw = { HostWindow.reset with config := u.hw.config } ∧ t.bp.waitList = [] ∧
        (∀ b, t.buffer b = { Buffer.reset with data := (u.buffer b).data }) ∧ t.pending = u.pending
    (s.pm.state ≠ .burst → ∃ t, exec .resetController s = .next t ∧ fresh s t) ∧
    (s.pm.state = .burst → ∃ t, exec .resetController s = .next t ∧
      t = { s with
        le := LineEngine.reset
        sc := { s.sc with state := .down, waiting := .none }
        fs := { s.fs with running := false, due := [] }
        eu := { s.eu with attn := .released, alarm := .released }
        hw := { answeredWindow s.hw 0x5A 0 0 0 0 with access := { s.hw.access with resetPending := true } } } ∧
      ∀ (w : Vector Word 16) (k : Nat) (c : Instr),
        c ∈ [Instr.burstCompleted w, .burstRetry, .burstCutShort k w, .burstError] →
        ∃ u, exec c t = .next u ∧ fresh t u)

/-! ### The register window (chapters 7 to 9) -/

/-- EVENT ACK (R172, R173, R176): the number is the low byte of the word. A valid one moves the gathered set in, or empties
the presented set, and an asserted line that is due again begins a release interval; a stale one sets STALE_ACK and raises
ACCESS_FAULT. At the end of a release interval the line is asserted if it is due. -/
def Obligations.EventAckMovesTheGatheredSetIn : Prop :=
  ∀ (w : Word) (s : State),
    let valid := s.eu.presented ≠ 0 ∧ w.toNat % 256 = s.eu.number.toNat
    (deaf s = false → valid → ∃ t, exec (.eventAck w) s = .next t ∧
      t = { s with eu := { s.eu with
        presented := s.eu.gathered, gathered := 0
        number := if s.eu.gathered = 0 then s.eu.number else s.eu.number + 1
        attn := t.eu.attn, alarm := t.eu.alarm } } ∧
      ∀ l : IntLine,
        (s.eu.line l = .asserted → t.eu.lineDue s.hw.config l = false → t.eu.line l = .released) ∧
        (s.eu.line l = .asserted → t.eu.lineDue s.hw.config l = true → t.eu.line l = .interval) ∧
        (s.eu.line l = .released → t.eu.lineDue s.hw.config l = true → t.eu.line l = .asserted) ∧
        (s.eu.line l = .released → t.eu.lineDue s.hw.config l = false → t.eu.line l = .released) ∧
        (s.eu.line l = .interval → t.eu.line l = .interval)) ∧
    (deaf s = false → ¬ valid → exec (.eventAck w) s = .next { s with
      eu := s.eu.take s.hw.config .accessFault
      hw := { s.hw with access := { s.hw.access with staleAck := true } } }) ∧
    (s.eu.attn = .interval → exec (.releaseIntervalEnd .attn) s = .next { s with
      eu := { s.eu with attn := if s.eu.lineDue s.hw.config .attn = true then .asserted else .released } }) ∧
    (s.eu.alarm = .interval → exec (.releaseIntervalEnd .alarm) s = .next { s with
      eu := { s.eu with alarm := if s.eu.lineDue s.hw.config .alarm = true then .asserted else .released } })

/-- COMPLETION RELEASE with no point held (R159): the tail advances and the count falls by min(n, count), and an excess
sets RELEASE_EXCESS and raises ACCESS_FAULT. -/
def Obligations.CompletionReleaseAdvancesTheTail : Prop :=
  ∀ (w : Word) (s : State), deaf s = false → s.cu.held = [] → s.cu.count ≤ 64 →
    ∃ t, exec (.completionRelease w) s = .next t ∧
      t = { s with cu := { s.cu with tail := t.cu.tail, count := s.cu.count - min w.toNat s.cu.count }
                   eu := t.eu, hw := t.hw } ∧
      t.cu.tail.val = (s.cu.tail.val + min w.toNat s.cu.count) % 64 ∧
      (w.toNat ≤ s.cu.count → t.eu = s.eu ∧ t.hw = s.hw) ∧
      (s.cu.count < w.toNat → t.eu = s.eu.take s.hw.config .accessFault ∧
        t.hw = { s.hw with access := { s.hw.access with releaseExcess := true } })

/-- COMPLETION RELEASE with points held (R159, R160, R154): the tail advances and the count falls by min(n, count), an excess
sets RELEASE_EXCESS and raises ACCESS_FAULT, and then the posting walk goes on while points are held and the ring has room.
Each round writes the record of the first held point's first exchange with the frame number of the release, frees its slot
and follows the queue: an exchange behind it with cancel_requested ends in the walk, and its point joins the held list again
where its record cannot be posted (R42, R155), with no COMPLETION_BACKLOG (log 17); a CLOSING point left with none reaches
DISABLED. Then staging and the scheduler are served.
Rests on the model's choices of logs 10, 13, 14 and 17. -/
def Obligations.CompletionReleaseWalksTheHeldPoints : Prop :=
  ∀ (w : Word) (s u : State), deaf s = false → s.cu.held ≠ [] →
    let n := min w.toNat s.cu.count
    let released : State := { s with
      cu := { s.cu with tail := s.cu.tail + Fin.ofNat 64 n, count := s.cu.count - n }
      eu := if s.cu.count < w.toNat then s.eu.take s.hw.config .accessFault else s.eu
      hw := if s.cu.count < w.toNat then
        { s.hw with access := { s.hw.access with releaseExcess := true } } else s.hw }
    PostingWalk released u → ∃ t, exec (.completionRelease w) s = .next t ∧ ServiceOnly u t

/-- The writes that set registers of the window. EVENT QUIET and ACCESS STATUS clear by writing 1, but for RESET_PENDING
(R167, R183, R184); HOST CONFIG replaces its five fields and reads back as written on them, the enables keep their fixed
items, and a change of a route or of a line enable re-evaluates both lines with no release interval (R186, R165, R177). -/
def Obligations.ConfigurationWritesReplaceTheirFields : Prop :=
  ∀ (w : Word) (s : State), deaf s = false →
    let settled (t : State) : Prop := ∀ l : IntLine,
      (s.eu.line l = .interval → t.eu.line l = .interval) ∧
      (s.eu.line l ≠ .interval → t.eu.line l = if t.eu.lineDue t.hw.config l then .asserted else .released)
    (∃ t, exec (.eventQuietWrite w) s = .next t ∧ t = { s with eu := { s.eu with quiet := t.eu.quiet } } ∧
      ∀ i, i < 15 → t.eu.quiet.getLsbD i = (s.eu.quiet.getLsbD i && !w.getLsbD i)) ∧
    (∃ t, exec (.accessStatusWrite w) s = .next t ∧ t = { s with hw := { s.hw with access := t.hw.access } } ∧
      t.hw.access.undefinedOffset = (s.hw.access.undefinedOffset && !w.getLsbD 0) ∧
      t.hw.access.readOnlyWrite = (s.hw.access.readOnlyWrite && !w.getLsbD 1) ∧
      t.hw.access.staleAck = (s.hw.access.staleAck && !w.getLsbD 2) ∧
      t.hw.access.releaseExcess = (s.hw.access.releaseExcess && !w.getLsbD 3) ∧
      t.hw.access.resetPending = s.hw.access.resetPending) ∧
    (∃ t, exec (.hostConfigWrite w) s = .next t ∧
      t = { s with hw := { s.hw with config := t.hw.config }, eu := { s.eu with attn := t.eu.attn, alarm := t.eu.alarm } } ∧
      windowRead t 0x04#7 0xF#4 = some (w &&& 0x01033F03#32) ∧
      (t.hw.config.attnEnable = s.hw.config.attnEnable → t.hw.config.alarmEnable = s.hw.config.alarmEnable →
        t.eu = s.eu) ∧
      ((t.hw.config.attnEnable ≠ s.hw.config.attnEnable ∨ t.hw.config.alarmEnable ≠ s.hw.config.alarmEnable) →
        settled t)) ∧
    (∃ t, exec (.reportEnableWrite w) s = .next t ∧ t = { s with eu := { s.eu with reportEnable := t.eu.reportEnable } } ∧
      ∀ i, i < 15 → t.eu.reportEnable.getLsbD i = (decide (i = 13) || w.getLsbD i)) ∧
    (∃ t, exec (.haltEnableWrite w) s = .next t ∧ t = { s with eu := { s.eu with haltEnable := t.eu.haltEnable } } ∧
      ∀ i, i < 15 → t.eu.haltEnable.getLsbD i = (decide (i = 13) || (decide (i ∈ [3, 4, 6, 8, 9]) && w.getLsbD i))) ∧
    (∃ t, exec (.routeWrite w) s = .next t ∧
      t = { s with eu := { s.eu with route := t.eu.route, attn := t.eu.attn, alarm := t.eu.alarm } } ∧
      (∀ i, i < 15 → t.eu.route.getLsbD i = w.getLsbD i) ∧ settled t)

/-- The command port (R187, R188): a parameter word takes the word written and reads back as it while the other three keep
theirs, and a code outside Table 9-3 gives UNKNOWN_COMMAND, is kept as the last code and changes nothing else. -/
def Obligations.ParameterWordsAndUnknownCodes : Prop :=
  ∀ s : State, deaf s = false →
    (∀ (i : Fin 4) (w : Word), ∃ t, exec (.registerWrite i w) s = .next t ∧
      t = { s with hw := { s.hw with params := t.hw.params } } ∧
      windowRead t (BitVec.ofNat 7 (12 + 4 * i.val)) 0xF#4 = some w ∧ ∀ j : Fin 4, j ≠ i → t.param j = s.param j) ∧
    ∀ code : BitVec 8, (Instr.unknownCommand code).wellFormed = true →
      exec (.unknownCommand code) s = .next { s with hw := answeredWindow s.hw code 0x10 0 0 0 }

/-- A write to a register of type R, and a slave cycle that is no word access, change nothing but a flag of ACCESS STATUS
and raise ACCESS_FAULT (R184, R181). -/
def Obligations.AccessFaultsAreReported : Prop :=
  ∀ s : State, deaf s = false →
    (∀ (r : ReadOnlyReg) (w : Word), exec (.readOnlyWrite r w) s = .next { s with
      eu := s.eu.take s.hw.config .accessFault
      hw := { s.hw with access := { s.hw.access with readOnlyWrite := true } } }) ∧
    (∀ (isWrite : Bool) (o : BitVec 7) (e : BitVec 4), (o.toNat % 4 ≠ 0 ∨ e ≠ 0xF#4) →
      exec (.undefinedOffset isWrite o e) s = .next { s with
        eu := s.eu.take s.hw.config .accessFault
        hw := { s.hw with access := { s.hw.access with undefinedOffset := true } } })

/-- The RESET pin (R197): every block takes its reset values and HOST CONFIG its defaults, no slave cycle is answered, and
after the release the window reads as Table 9-1 gives. The kept ring and buffer contents are the model's (logs 7, 8). -/
def Obligations.DeviceResetResetsEveryBlock : Prop :=
  (∀ s : State, ∃ t u, exec .deviceReset s = .next t ∧ exec .resetPinReleased t = .next u ∧
    (∀ (o : BitVec 7) (e : BitVec 4), windowRead t o e = none) ∧ t = { u with hw := { u.hw with resetPin := true } } ∧
    u = { State.reset with bp := u.bp, cu := { CompletionUnit.reset with ring := s.cu.ring }, pending := s.pending } ∧
    u.bp.waitList = [] ∧ (∀ b, u.buffer b = { Buffer.reset with data := (s.buffer b).data })) ∧
  ∀ s : State, s.hw.resetPin = true →
    exec .resetPinReleased s = .next { s with hw := { s.hw with resetPin := false } }

/-- While a controller reset is pending, or the RESET pin is asserted, every window write is ignored with no flag and no
event (R195, R197). That a write under the asserted pin leaves the state as it is, is the model's choice (log 5). -/
def Obligations.WindowWritesAreIgnoredWhenDeaf : Prop :=
  ∀ (o : BitVec 7) (e : BitVec 4) (w : Word) (s : State),
    (s.hw.access.resetPending = true ∨ s.hw.resetPin = true) → exec (slaveWrite o e w) s = .next s

/-- Taking an occurrence (R166 to R169, R171): quiet, presented with the next number, or gathered. A presented set is
weighed for both lines, and one in its release interval stays there (R175 to R177); the enables and the routes stay. A
halting occurrence leaves a halt request, which is the model's own flag (log 18). -/
def Obligations.OccurrencesArePresentedGatheredOrQuiet : Prop :=
  ∀ (c : Cause) (cfg : HostConfig) (e : EventUnit),
    let halting := c = .moverFault ∨ (c ∈ [Cause.stationDetached, .stationLost, .addressClash, .pointHalted, .periodicMiss] ∧
      e.haltEnable.getLsbD c.num = true)
    let effective := e.reportEnable.getLsbD c.num = true ∨ halting
    let t := e.take cfg c
    (t.haltRequest = true ↔ e.haltRequest = true ∨ halting) ∧
    (¬ effective → t = { e with quiet := e.quiet ||| BitVec.twoPow 15 c.num }) ∧
    (effective → e.presented = 0 →
      t = { e with
        presented := BitVec.twoPow 15 c.num, number := e.number + 1
        attn := t.attn, alarm := t.alarm, haltRequest := t.haltRequest } ∧
      ∀ l : IntLine,
        let due := (cfg.lineEnable l && decide (e.route.getLsbD c.num = decide (l = .alarm)))
        (e.line l = .interval → t.line l = .interval) ∧
        (e.line l ≠ .interval → t.line l = if due then .asserted else .released)) ∧
    (effective → e.presented ≠ 0 →
      t = { e with gathered := e.gathered ||| BitVec.twoPow 15 c.num, haltRequest := t.haltRequest })

/-! ### Frames and the census (chapters 3 to 5) -/

/-- Mark end (R57) and the choice (R72 to R75, R60, R85): the first due entry that is eligible and fits, or failing that the
first such member of the async ring from the rotation pointer on, begins its transaction; with none nothing begins.
The elapsed time moves up to the happening's moment (the model's choice, log 2). -/
def Obligations.MarkEndChoosesDueThenRing : Prop :=
  ∀ s : State, s.le.state = .marking → s.fs.running = true → s.fs.elapsed ≤ 64 → s.fs.ring.Nodup →
    let u : State := { s with fs := { s.fs with elapsed := 64 }, le := { s.le with state := .idle } }
    let ok (p : PointId) : Prop :=
      let q := s.point p
      q.state = .ready ∧ (s.station q.cfg.station).presence = .present ∧
        (∃ x, s.first p = some x ∧ ((s.slot x).state = .queued ∨ (s.slot x).state = .active) ∧
          (s.slot x).cancelRequested = false ∧ (s.slot x).faultMark = false ∧
          ((s.slot x).bytesLine < (s.slot x).length ∨ (q.cfg.direction = .store ∧ (s.slot x).length = 0))) ∧
        (q.cfg.kind = .periodic ∨ q.deferCount = 0) ∧
        (q.cfg.direction = .store → ∃ b, q.staged = some b ∧ (s.buffer b).state = .staged) ∧
        (q.cfg.direction = .fetch → ∃ b, (s.buffer b).state = .free) ∧
        64 + (152 + 10 * q.cfg.maxPayload.bytes + s.sc.params.replyTimeout) + 168 ≤ s.sc.params.frameLength
    let begins (p : PointId) (f : FrameScheduler) : Prop :=
      ∃ t x b n, exec .markEnd s = .next t ∧ s.first p = some x ∧
        t = { s with
          sp := t.sp, bp := t.bp, fs := f
          le := { s.le with
            state := .requesting
            txn := some { point := p, slot := x, direction := (s.point p).cfg.direction, buffer := b,
                          seq := (s.point p).seq, requested := n, began := 64, answerBegan := none, received := none } } } ∧
        ((s.point p).cfg.direction = .store →
          (s.point p).staged = some b ∧ n = (s.buffer b).count ∧ t.sp = s.sp ∧ t.bp = s.bp) ∧
        ((s.point p).cfg.direction = .fetch →
          n = min (s.point p).cfg.maxPayload.bytes ((s.slot x).length - (s.slot x).bytesLine) ∧
          (s.buffer b).state = .free ∧ (∀ c, c < b → (s.buffer c).state ≠ .free) ∧
          t.sp = (s.setSlot x { s.slot x with state := .active, jobs := (s.slot x).jobs + 1 }).sp ∧
          t.bp = (s.setBuffer b
            { s.buffer b with state := .receiving, point := some p, slot := some x, count := 0, addr := none }).bp)
    let serves := s.sc.state = .running ∨ s.sc.state = .suspending
    (¬ serves → exec .markEnd s = .next u) ∧
    (serves → (∀ q ∈ s.fs.due, ¬ ok q) → s.fs.pointer = none → exec .markEnd s = .next u) ∧
    (serves → ∀ p before after, s.fs.due = before ++ p :: after → (∀ q ∈ before, ¬ ok q) → ok p →
      begins p { s.fs with elapsed := 64, due := before ++ after }) ∧
    (serves → (∀ q ∈ s.fs.due, ¬ ok q) → ∀ r front back, s.fs.pointer = some r → s.fs.ring = front ++ r :: back →
      ((∀ q ∈ s.fs.ring, ¬ ok q) → exec .markEnd s = .next u) ∧
      ∀ p before after, r :: back ++ front = before ++ p :: after → (∀ q ∈ before, ¬ ok q) → ok p →
        begins p { s.fs with
          elapsed := 64
          pointer := match after ++ before with
            | q :: _ => some q
            | [] => some p })

/-- Census start (R58, R68, R23): each due entry that is ready, with a PRESENT station and work waiting, is charged a miss;
the due list is emptied and the CENSUS begins. A halting miss halts the segment in the same happening (R113, R115).
The elapsed time moves up to the happening's moment (the model's choice, log 2).
Rests on the model's choices of logs 18 and 29. -/
def Obligations.CensusStartChargesTheMisses : Prop :=
  ∀ (missed : List PointId) (s : State), s.le.state = .idle → s.fs.running = true →
    s.fs.elapsed + 168 ≤ s.sc.params.frameLength → s.fs.due.Nodup → s.eu.haltRequest = false → s.le.txn = none →
    missed.Nodup →
    (∀ p, p ∈ missed ↔ p ∈ s.fs.due ∧ (s.point p).state = .ready ∧
      (s.station (s.point p).cfg.station).presence = .present ∧
      (firstOffers s p = true ∨ ∃ x y rest, s.queue p = x :: y :: rest ∧ (s.slot x).state = .retiring ∧
        (s.slot y).state = .queued ∧ (s.slot y).cancelRequested = false)) →
    let e := missed.foldl (fun e _ => e.take s.hw.config .periodicMiss) s.eu
    ∃ t, exec .censusStart s = .next t ∧
      (∀ p, t.point p =
        if p ∈ missed then { s.point p with missCount := min 255 ((s.point p).missCount + 1) } else s.point p) ∧
      t = { s with
        pt := t.pt, sc := t.sc, eu := t.eu
        fs := { s.fs with elapsed := s.sc.params.frameLength - 168, due := [] }
        le := { s.le with state := .census, slotsRead := 0 } } ∧
      (missed = [] ∨ s.eu.haltEnable.getLsbD 9 = false → t.sc = s.sc ∧ t.eu = e) ∧
      (missed ≠ [] → s.eu.haltEnable.getLsbD 9 = true → (s.sc.state = .running ∨ s.sc.state = .suspending) →
        t.sc = { s.sc with
          state := .halted, haltPending := false
          suspendDropped := s.sc.suspendDropped || decide (s.sc.state = .suspending) } ∧
        t.eu = { e with haltRequest := false }.take s.hw.config .segmentChanged)

/-- How a frame opens (R55, R56, R22, R66, R109, R120): at frame end, after the 30 slots, in RUNNING and HALTED, and at the
end of reset and wake signalling; in SUSPENDING the frame end begins the SUSPEND MARK (R118).
The elapsed time moves up to the happening's moment (the model's choice, log 2). -/
def Obligations.FramesOpenByTheSegmentState : Prop :=
  ∀ s : State,
    let due (f : BitVec 12) : List PointId :=
      s.fs.periodic.filter fun p => decide (f.toNat % (s.point p).cfg.period = (s.point p).cfg.phase)
    let lowered (t : State) : Prop := ∀ p, t.point p = { s.point p with deferCount := (s.point p).deferCount - 1 }
    let opened (f : BitVec 12) (t : State) (g : SegState) (e : EventUnit) : State :=
      { s with
        pt := t.pt
        sc := { s.sc with state := g, haltPending := t.sc.haltPending }
        fs := { s.fs with running := true, elapsed := 0, frame := f, due := if g = .running then due f else [] }
        le := { s.le with state := .marking, slotsRead := 0, lineBits := 0 }
        eu := e }
    (s.le.state = .census → s.fs.running = true → s.fs.elapsed ≤ s.sc.params.frameLength → s.le.slotsRead = 30 →
      ((s.sc.state = .running ∨ s.sc.state = .halted) → ∃ t, exec .frameEnd s = .next t ∧ lowered t ∧
        t.sc.haltPending = s.sc.haltPending ∧
        t = opened (s.fs.frame + 1) t s.sc.state (s.eu.take s.hw.config .frameTick)) ∧
      (s.sc.state = .suspending → exec .frameEnd s = .next { s with
        sc := { s.sc with state := .suspended }
        fs := { s.fs with running := false, elapsed := s.sc.params.frameLength, due := [] }
        le := { s.le with state := .marking, slotsRead := 0, lineBits := 0 }
        eu := s.eu.take s.hw.config .segmentChanged })) ∧
    (∀ (c : Instr) (g : SegState) (f : BitVec 12),
      (c, g, f) ∈ [(Instr.resetSignallingEnd, SegState.resetting, 0#12), (.wakeSignallingEnd, .waking, s.fs.frame + 1)] →
      s.le.state = .signalling → s.sc.state = g →
      ∃ t, exec c s = .next t ∧ lowered t ∧ t.sc.haltPending = false ∧
        t = opened f t (if s.sc.haltPending = true then .halted else .running)
          ((s.eu.take s.hw.config .segmentChanged).take s.hw.config .frameTick))

/-- An answer in a census slot (R101, R124): the silent count is 0, an ABSENT station becomes PRESENT with
STATION_ATTACHED, and a first alert or clash is recorded and raised. A halting ADDRESS_CLASH halts the segment, and
changes nothing more in HALTED (R113).
The slots come in address order, and the elapsed time moves up to the slot's end (the model's choice, log 2).
Rests on the model's choice of log 18. -/
def Obligations.CensusAnswersMakeAStationPresent : Prop :=
  ∀ (i : StationId) (v : SlotLevels) (s : State), s.le.state = .census → s.fs.running = true →
    s.fs.elapsed ≤ s.sc.params.frameLength - 130 + 4 * (i.val + 1) → s.le.slotsRead = i.val →
    s.eu.haltRequest = false → s.le.txn = none → v ≠ ⟨true, true, true, true⟩ →
    let alert := v = ⟨false, true, false, true⟩
    let garbled := v ≠ ⟨false, false, true, true⟩ ∧ ¬ alert
    let x := s.station i
    let cfg := s.hw.config
    let e1 := if x.presence = .absent then s.eu.take cfg .stationAttached else s.eu
    let e2 :=
      if alert ∧ x.alert = false then e1.take cfg .stationAlert
      else if garbled ∧ x.clash = false then e1.take cfg .addressClash
      else e1
    let y : Station :=
      { presence := if x.presence = .absent then .present else x.presence, silent := 0
        streak := if x.presence = .absent then 0 else x.streak
        alert := x.alert || decide alert, clash := x.clash || decide garbled, answered := true }
    let u : State :=
      { s.setStation i y with
        fs := { s.fs with elapsed := s.sc.params.frameLength - 130 + 4 * (i.val + 1) }
        le := { s.le with slotsRead := i.val + 1 }
        eu := e2 }
    let halts := garbled ∧ x.clash = false ∧ s.eu.haltEnable.getLsbD 6 = true
    (¬ halts → exec (.censusSlotEnd i v) s = .next u) ∧
    (halts → (s.sc.state = .running ∨ s.sc.state = .suspending) → exec (.censusSlotEnd i v) s = .next { u with
      sc := { u.sc with
        state := .halted, haltPending := false
        suspendDropped := s.sc.suspendDropped || decide (s.sc.state = .suspending) }
      fs := { u.fs with due := [] }
      eu := { e2 with haltRequest := false }.take cfg .segmentChanged }) ∧
    (halts → s.sc.state = .halted →
      exec (.censusSlotEnd i v) s = .next { u with eu := { e2 with haltRequest := false } })

/-- Silence in a census slot (R125, R15, R49): the silent count rises to at most 15; a PRESENT or LOST station at the detach
count is ABSENT with STATION_DETACHED and its READY and PAUSED points are HALTED. The points bound to it are treated in
ascending point id (R127; CLOSING ones among them: log 11): each is halted with POINT_HALTED and its ACTIVE exchange ends
STATION_GONE, or by its mark; and a halting event halts the segment.
The elapsed time moves up to the slot's end (the model's choice, log 2).
Rests on the model's choices of logs 8 to 11, 13, 14, 18 and 30. -/
def Obligations.CensusSilenceDetachesAtTheCount : Prop :=
  ∀ (i : StationId) (s : State), s.le.state = .census → s.fs.running = true →
    s.fs.elapsed ≤ s.sc.params.frameLength - 130 + 4 * (i.val + 1) → s.le.slotsRead = i.val →
    let x := s.station i
    let n := min 15 (x.silent + 1)
    let u (y : Station) : State :=
      { s.setStation i y with
        fs := { s.fs with elapsed := s.sc.params.frameLength - 130 + 4 * (i.val + 1) }
        le := { s.le with slotsRead := i.val + 1 } }
    let silence := Instr.censusSlotEnd i ⟨true, true, true, true⟩
    ((x.presence = .absent ∨ n < s.sc.params.detachCount) →
      exec silence s = .next (u { x with answered := false, silent := n })) ∧
    (x.presence ≠ .absent → s.sc.params.detachCount ≤ n →
      let gone : State := { u { x with answered := false, silent := n, presence := .absent } with
        eu := s.eu.take s.hw.config .stationDetached }
      ∃ t, exec silence s = .next t ∧ t.sc.stations = gone.sc.stations ∧ t.hw = s.hw ∧ t.pending = s.pending ∧
        (∀ p, (s.point p).cfg.station = i → ((s.point p).state = .ready ∨ (s.point p).state = .paused) →
          { t.point p with staged := none } =
            { s.point p with state := .halted, haltCause := some .stationDetached, staged := none }) ∧
        (∀ p, ((s.point p).cfg.station ≠ i ∨ (s.point p).state = .halted ∨ (s.point p).state = .disabled) →
          { t.point p with staged := none } = { s.point p with staged := none }) ∧
        (s.le.txn = none →
          (∀ p y rest, (s.point p).cfg.station = i → s.queue p = y :: rest → (s.slot y).state = .active →
            Leads s p y rest) →
          StagingOnly (haltTaken (stationLeft .stationDetached i gone)) t))

/-! ### Transactions (chapter 4) -/

/-- The moments of a transaction (R83, R87, R82): the end of the REQUEST, the end of a STORE's DATA, and the beginning of an
answer within the reply timeout. With no answer window open the head ignores line activity.
The elapsed time moves up to the happening's moment, and the moments kept in the transaction record are the model's own
fields (the model's choices, logs 2, 27). -/
def Obligations.TransactionMomentsMoveTheLineEngine : Prop :=
  ∀ (t : Txn) (delay : Nat) (s : State),
    let opens := t.began + (if t.direction = .store then 114 + 10 * t.requested else 58)
    (s.le.txn = some t → s.fs.running = true →
      (s.le.state = .requesting → s.fs.elapsed ≤ t.began + 58 → exec .requestEnd s = .next { s with
        fs := { s.fs with elapsed := t.began + 58 }
        le := { s.le with state := if t.direction = .store then .sendingData else .awaitAnswer } }) ∧
      (s.le.state = .sendingData → t.direction = .store → s.fs.elapsed ≤ opens → exec .storeDataEnd s = .next { s with
        fs := { s.fs with elapsed := opens }, le := { s.le with state := .awaitReply } }) ∧
      ((s.le.state = .awaitReply ∨ s.le.state = .awaitAnswer) → t.answerBegan = none →
        delay ≤ s.sc.params.replyTimeout → s.fs.elapsed ≤ opens + delay →
        exec (.answerBegins delay) s = .next { s with
          fs := { s.fs with elapsed := opens + delay }
          le := { s.le with
            state := if t.direction = .store then .awaitReply else .receiving
            txn := some { t with answerBegan := some (opens + delay) } } })) ∧
    (s.le.state ≠ .awaitReply → s.le.state ≠ .awaitAnswer → exec (.answerBegins delay) s = .next s)

/-- A DATA packet of k bytes, k not above the requested length, is received as it was sent: its reception ends 48 + 10k bt
after it began, its payload is in the buffer and the line engine acknowledges it (R78 to R81, R91).
The elapsed time moves up to the happening's moment (the model's choice, log 2).
Rests on the model's choices of logs 8, 16 and 21. -/
def Obligations.FetchDataIsReceivedIntoTheBuffer : Prop :=
  ∀ (t : Txn) (a : Nat) (seq : Bool) (payload : List Byte) (s : State), s.le.state = .receiving → s.le.txn = some t →
    t.answerBegan = some a → payload.length ≤ t.requested → t.requested ≤ 64 → s.fs.running = true →
    s.fs.elapsed ≤ a + 48 + 10 * payload.length →
    ∃ v, exec (.dataReceived (Packet.data seq payload).levels) s = .next v ∧
      v = { s with
        bp := (s.setBuffer t.buffer { s.buffer t.buffer with data := (v.buffer t.buffer).data }).bp
        fs := { s.fs with elapsed := a + 48 + 10 * payload.length }
        le := { s.le with state := .acknowledging, txn := some { t with received := some (payload.length, seq) } } } ∧
      ∀ i : Fin 64, (v.buffer t.buffer).data[i] = payload.getD i.val (s.buffer t.buffer).data[i]

/-- Sending and receiving agree (R78 to R81, R87, R91, R94, R96): a DATA within the requested length and a REPLY are read
back as they were sent, a longer DATA is OVERLENGTH, and a REPLY ACCEPT is no answer to a FETCH.
Rests on the model's choices of logs 15, 16 and 21. -/
def Obligations.PacketsReadBackAsSent : Prop :=
  (∀ (m : Nat) (seq : Bool) (payload : List Byte), payload.length < 256 →
    let levels := (Packet.data seq payload).levels
    levels.length = 48 + 10 * payload.length ∧
    (payload.length ≤ m → fetchAnswer m levels = (.data payload.length seq, 48 + 10 * payload.length) ∧
      rxPayload levels payload.length = payload) ∧
    (m < payload.length → fetchAnswer m levels = (.overlength, 48 + 10 * m))) ∧
  ∀ (m : Nat) (c : ReplyCode),
    let levels := (Packet.reply c).levels
    levels.length = 38 ∧ storeAnswer levels = .reply c ∧
      (c ≠ .accept → fetchAnswer m levels = (.reply c, 38)) ∧ (c = .accept → fetchAnswer m levels = (.check true, 38))

/-- The end of a STORE transaction answered ACCEPT (R88, R98, R86): the packet counts, errors and the timeout streak are 0,
the sequence bit toggles and the buffer is freed. With no line work left the exchange ends DONE, or by its mark (R40);
otherwise a pending mark ends it (R44), and with none it goes on. The slot is freed with the record posted where one is due.
Then a waiting STOP or RESET is carried out, or HALTING goes over to HALTED (R115).
The elapsed time moves up to the happening's moment (the model's choice, log 2).
Rests on the model's choices of logs 8 to 10, 12 to 14 and 18. -/
def Obligations.StoreAcceptCountsThePacket : Prop :=
  ∀ (t : Txn) (a : Nat) (rest : List SlotId) (s : State), TxnUnderway s t rest → s.le.state = .awaitReply →
    t.direction = .store → t.answerBegan = some a → s.fs.elapsed ≤ a + 38 →
    let e := s.slot t.slot
    let q := s.point t.point
    let counted : State := ((txnEnded s t (a + 38) 0).setPoint t.point { q with seq := !q.seq }).setSlot t.slot
      { e with bytesLine := e.bytesLine + t.requested, errors := 0 }
    let u := bufferFreed counted t.buffer t.slot t.point
    ∃ v, exec (.transactionEnd (Packet.reply .accept).levels) s = .next v ∧
      (e.length ≤ e.bytesLine + t.requested →
        TxnCloses s (ended u t.point t.slot rest (statusBy s t.point t.slot .done)) v) ∧
      (e.bytesLine + t.requested < e.length → TxnCloses s (markTaken u t.point t.slot rest) v)

/-- The end of a FETCH transaction with DATA acknowledged (R92, R93, R98). With the expected sequence bit and no mark the
packet counts, the sequence bit toggles and its buffer joins the drain queue with the bytes and the address, or is freed
where it is empty; the last packet ends the exchange DONE and a short one DONE or SHORT. Under a mark the data is discarded
and the mark is taken; with the other sequence bit it is a repeat and counts nothing. Errors and the timeout streak are 0.
Then a waiting STOP or RESET is carried out, or HALTING goes over to HALTED (R115).
The elapsed time moves up to the happening's moment (the model's choice, log 2).
Rests on the model's choices of logs 8 to 10, 12 to 14 and 18. -/
def Obligations.FetchDataJoinsTheDrainQueue : Prop :=
  ∀ (t : Txn) (a k : Nat) (seq : Bool) (rest : List SlotId) (levels : List Bool) (s : State), TxnUnderway s t rest →
    s.le.state = .acknowledging → t.direction = .fetch → t.answerBegan = some a → t.received = some (k, seq) →
    s.fs.elapsed ≤ a + 94 + 10 * k →
    let e := s.slot t.slot
    let q := s.point t.point
    let marked : Bool := e.cancelRequested || e.faultMark
    let counted (bytes : Nat) (bit : Bool) : State :=
      ((txnEnded s t (a + 94 + 10 * k) 0).setPoint t.point { q with seq := bit }).setSlot t.slot
        { e with bytesLine := e.bytesLine + bytes, errors := 0 }
    let taken : State :=
      if k = 0 then bufferFreed (counted k (!q.seq)) t.buffer t.slot t.point
      else { (counted k (!q.seq)).setBuffer t.buffer { s.buffer t.buffer with
          state := .draining, count := k, addr := some (e.hostAddr + BitVec.ofNat 32 e.bytesLine) } with
        pm := { s.pm with drainQueue := s.pm.drainQueue ++ [t.buffer] } }
    let discarded (bit : Bool) : State :=
      markTaken (bufferFreed (counted 0 bit) t.buffer t.slot t.point) t.point t.slot rest
    ∃ v, exec (.transactionEnd levels) s = .next v ∧
      (seq = t.seq → marked = false → e.length ≤ e.bytesLine + k →
        TxnCloses s (ended taken t.point t.slot rest .done) v) ∧
      (seq = t.seq → marked = false → e.bytesLine + k < e.length → k < t.requested →
        TxnCloses s (ended taken t.point t.slot rest (if e.shortOk then .done else .short)) v) ∧
      (seq = t.seq → marked = false → e.bytesLine + k < e.length → t.requested ≤ k → TxnCloses s taken v) ∧
      (seq = t.seq → marked = true → TxnCloses s (discarded (!q.seq)) v) ∧
      (seq ≠ t.seq → TxnCloses s (discarded q.seq) v)

/-- A transaction that ends with no answer, a bad one or an overlong DATA adds 1 to errors (R90, R94, R96), and the streak
rises, clears or stays (R98). At the attempt limit the exchange ends FAILED_*, or by its mark, and the point is HALTED for
ATTEMPTS (R97); below it a pending mark is taken. At the silence limit a PRESENT station is LOST, and the points bound to it
are treated in ascending point id (R127; CLOSING ones among them: log 11): each is halted and its ACTIVE exchange ends
STATION_GONE (R126, R15, R49). A DEFER sets the defer count of an ASYNC point and clears the streak (R89, R95, R22).
Then a waiting STOP or RESET is carried out, or HALTING goes over to HALTED (R115).
The elapsed time moves up to the happening's moment (the model's choice, log 2).
Rests on the model's choices of logs 8 to 15, 18, 21 and 30. -/
def Obligations.SilenceAndDeferOutcomes : Prop :=
  ∀ (t : Txn) (rest : List SlotId) (levels : List Bool) (s : State), TxnUnderway s t rest →
    let e := s.slot t.slot
    let q := s.point t.point
    let i := q.cfg.station
    let x := s.station i
    let opens := t.began + (if t.direction = .store then 114 + 10 * t.requested else 58)
    let silentAt := opens + s.sc.params.replyTimeout
    let streak := min 15 (x.streak + 1)
    let loses := s.sc.params.silenceLimit ≤ streak ∧ x.presence = .present
    let freed (moment n : Nat) : State :=
      if t.direction = .store then txnEnded s t moment n
      else bufferFreed (txnEnded s t moment n) t.buffer t.slot t.point
    let failed (moment n : Nat) (st : Status) : State :=
      let w := (freed moment n).setSlot t.slot { (freed moment n).slot t.slot with errors := e.errors + 1 }
      if q.cfg.attemptLimit ≤ e.errors + 1 then
        ended (pointHalted (stagedFreed w t.slot t.point) t.point .attempts) t.point t.slot rest
          (statusBy s t.point t.slot st)
      else markTaken w t.point t.slot rest
    let closes (u : State) : Prop := ∃ v, exec (.transactionEnd levels) s = .next v ∧ TxnCloses s u v
    let silent := s.fs.elapsed ≤ silentAt ∧
      (s.le.state = .awaitReply ∧ t.direction = .store ∧ t.answerBegan = none ∨
        s.le.state = .awaitAnswer ∧ t.direction = .fetch)
    (silent → ¬ loses → closes (failed silentAt streak .failedSilent)) ∧
    (silent → loses →
      (∀ p y behind, p ≠ t.point → (s.point p).cfg.station = i → s.queue p = y :: behind → (s.slot y).state = .active →
        Leads s p y behind) →
      let w := failed silentAt streak .failedSilent
      closes (stationLeft .stationLost i { w.setStation i { w.station i with presence := .lost } with
        eu := w.eu.take s.hw.config .stationLost })) ∧
    ∀ a, t.answerBegan = some a →
      (s.le.state = .awaitReply → t.direction = .store → s.fs.elapsed ≤ a + 38 →
        (∀ wellFormed, storeAnswer levels = .check wellFormed →
          closes (failed (a + 38) (if wellFormed then 0 else x.streak) .failedCheck))) ∧
      (∀ length, s.le.state = .receiving → t.direction = .fetch → s.fs.elapsed ≤ a + length →
        (∀ wellFormed, fetchAnswer t.requested levels = (.check wellFormed, length) →
          closes (failed (a + length) (if wellFormed then 0 else x.streak) .failedCheck)) ∧
        (fetchAnswer t.requested levels = (.overlength, length) →
          closes (failed (a + length) x.streak .failedOverlength))) ∧
      (s.le.state = (if t.direction = .store then .awaitReply else .receiving) → s.fs.elapsed ≤ a + 38 →
        levels = (Packet.reply .defer).levels →
        closes (markTaken ((freed (a + 38) 0).setPoint t.point { (freed (a + 38) 0).point t.point with
          deferCount := if q.cfg.kind = .async then q.cfg.deferInterval else q.deferCount }) t.point t.slot rest))

/-- A transaction answered REFUSE (R89, R95, R14, R41, R155): its buffer is freed, its point is HALTED with cause REFUSED, the
exchange ends REFUSED, or by its mark, its record is posted and its slot freed. POINT_HALTED comes before COMPLETION_POSTED,
and before a COMPLETION_BACKLOG too (log 30). Then a halting event, a waiting STOP or RESET, or HALTING takes the segment on
(R113, R115).
The elapsed time moves up to the happening's moment (the model's choice, log 2).
Rests on the model's choices of logs 8 to 10, 12 to 14, 18 and 30. -/
def Obligations.RefuseEndsTheExchangeAndHaltsThePoint : Prop :=
  ∀ (t : Txn) (a : Nat) (rest : List SlotId) (s : State), TxnUnderway s t rest →
    s.le.state = (if t.direction = .store then .awaitReply else .receiving) → t.answerBegan = some a →
    s.fs.elapsed ≤ a + 38 →
    let u := pointHalted (bufferFreed (txnEnded s t (a + 38) 0) t.buffer t.slot t.point) t.point .refused
    ∃ v, exec (.transactionEnd (Packet.reply .refuse).levels) s = .next v ∧
      TxnCloses s (ended u t.point t.slot rest (statusBy s t.point t.slot .refused)) v

/-! ### The payload mover (chapter 6) -/

/-- The grant and the answers of the bus partner short of a fault (R143 to R146, R142, R140, R182): the bytes move between
the lanes and the buffer, the next burst is the largest that fits, and a retry asks again for the same burst. The last burst
counts the buffer's bytes in bytes_memory and frees the mover; a stage job leaves its buffer STAGED, or FREE for an ending
exchange (R141), a drain job FREE, and an exchange that waited for it ends (R41, R44).
Rests on the model's choices of logs 8, 10, 13, 14 and 20. -/
def Obligations.BurstsMoveAJobToItsEnd : Prop :=
  ∀ (j : Job) (b : Burst) (w : Vector Word 16) (s : State), s.pm.job = some j → s.pm.burst = some b →
    s.hw.access.resetPending = false →
    let filled (n : Nat) (data : Vector Byte 64) : Prop := ∀ i : Fin 64, data[i] =
      if j.moved ≤ i.val ∧ i.val < j.moved + n then
        let address := j.nextAddr.toNat + (i.val - j.moved)
        (w.toList.getD (address / 4 - j.nextAddr.toNat / 4) 0).extractLsb' (8 * (address % 4)) 8
      else (s.buffer j.buffer).data[i]
    let moves (n : Nat) (c : Instr) : Prop :=
      ∃ t u, exec c s = .next t ∧
        t = { s with
          bp := t.bp
          pm := { s.pm with
            state := .waitGrant
            job := some { j with
              nextAddr := j.nextAddr + BitVec.ofNat 32 n, remaining := j.remaining - n, moved := j.moved + n
              retries := 0 }
            burst := some u } } ∧
        BurstChosen s.hw.config.maxWords (j.nextAddr + BitVec.ofNat 32 n) (j.remaining - n) u ∧
        (j.kind = .drain → t.bp = s.bp) ∧
        (j.kind = .stage → ∃ data, filled n data ∧
          t.bp = (s.setBuffer j.buffer { s.buffer j.buffer with data := data }).bp)
    (s.pm.state = .waitGrant → exec .busGrant s = .next { s with pm := { s.pm with state := .burst } }) ∧
    (j.kind = .drain → (drainBytes s).length = b.bytes ∧
      ∀ i (h : i < b.bytes) (hb : j.moved + i < 64),
        (drainBytes s)[i]? = some (s.buffer j.buffer).data[(⟨j.moved + i, hb⟩ : Fin 64)]) ∧
    (BurstChosen s.hw.config.maxWords j.nextAddr j.remaining b → ∀ lane, lane < 4 →
      ((burstEnables b)[lane]? = some true ↔ ∃ i, i < b.bytes ∧ (b.addr.toNat + i) % 4 = lane)) ∧
    (s.pm.state = .burst →
      (b.bytes < j.remaining → moves b.bytes (.burstCompleted w)) ∧
      (∀ k, 1 ≤ k → k < b.beats → moves (4 * k) (.burstCutShort k w)) ∧
      (j.retries + 1 < s.hw.config.busRetryLimit → exec .burstRetry s = .next { s with
        pm := { s.pm with state := .waitGrant, job := some { j with retries := j.retries + 1 } } }) ∧
      (∀ p rest data, j.remaining ≤ b.bytes → Leads s p j.slot rest →
        (s.buffer j.buffer).point = some p → (s.buffer j.buffer).slot = some j.slot →
        filled b.bytes data →
        let e := s.slot j.slot
        let moved : State := { (s.setSlot j.slot { e with bytesMemory := e.bytesMemory + (s.buffer j.buffer).count }) with
          pm := { s.pm with state := .idle, job := none, burst := none }
          bp := (s.setBuffer j.buffer { s.buffer j.buffer with
            data := if j.kind = .stage then data else (s.buffer j.buffer).data }).bp }
        let freed := bufferFreed moved j.buffer j.slot p
        let goesOn := e.state = .active ∧ e.cancelRequested = false
        ∃ t, exec (.burstCompleted w) s = .next t ∧
          (j.kind = .stage → goesOn → ServiceOnly (moved.setBuffer j.buffer
            { moved.buffer j.buffer with state := .staged }) t) ∧
          (e.state = .active → ¬ (j.kind = .stage ∧ goesOn) → inFlight s j.slot = false →
            ServiceOnly (markTaken freed p j.slot rest) t) ∧
          (e.state = .active → ¬ (j.kind = .stage ∧ goesOn) → inFlight s j.slot = true → ServiceOnly freed t) ∧
          ∀ st, e.state = .retiring → e.status = some st → ServiceOnly (ended freed p j.slot rest st) t))

/-- A fault (R147, R148, R46, R113): an error answer, or a retry at the bus retry limit. The mover is FAULTED with its record,
and the exchange's queued jobs are removed with their buffers freed. An ACTIVE exchange takes fault_mark with its transaction
in flight and otherwise ends MOVER_FAULT, with or without cancel_requested (log 9); a RETIRING one takes MOVER_FAULT in place
of its status. MOVER_FAULT is raised before the completion, and before a COMPLETION_BACKLOG too (log 30), and its halt
request is taken. Rests on the model's choices of logs 8, 10, 13, 14, 18 and 30. -/
def Obligations.BusErrorsFaultTheJob : Prop :=
  ∀ (j : Job) (b : Burst) (c : Instr) (cause : FaultCause) (s : State), s.pm.state = .burst → s.pm.job = some j →
    s.pm.burst = some b → s.hw.access.resetPending = false →
    (c, cause) ∈ [(Instr.burstError, FaultCause.busError), (.burstRetry, .retryExhausted)] →
    (c = .burstRetry → s.hw.config.busRetryLimit ≤ j.retries + 1) →
    (∃ t more, exec c s = .next t ∧
      t.pm = { state := .faulted, job := none, burst := none
               faultRecord := some { kind := j.kind, buffer := j.buffer, slot := j.slot, addr := b.addr, cause := cause }
               drainQueue := s.pm.drainQueue.filter fun i => decide ((s.buffer i).slot ≠ some j.slot)
               stageQueue := (s.pm.stageQueue.filter fun i => decide ((s.buffer i).slot ≠ some j.slot)) ++ more }) ∧
    ∀ p rest, Leads s p j.slot rest → (s.buffer j.buffer).slot = some j.slot → (s.buffer j.buffer).point = some p →
      let others := (s.pm.drainQueue ++ s.pm.stageQueue).filter fun i => decide ((s.buffer i).slot = some j.slot)
      j.buffer ∉ others → others.Nodup → (∀ i ∈ others, (s.buffer i).point = some p) →
      let e := s.slot j.slot
      let faulted : State := { s.setSlot j.slot { e with bytesMemory := e.bytesMemory + j.moved } with
        pm := { s.pm with
          state := .faulted, job := none, burst := none
          faultRecord := some { kind := j.kind, buffer := j.buffer, slot := j.slot, addr := b.addr, cause := cause }
          drainQueue := s.pm.drainQueue.filter fun i => decide ((s.buffer i).slot ≠ some j.slot)
          stageQueue := s.pm.stageQueue.filter fun i => decide ((s.buffer i).slot ≠ some j.slot) } }
      let freed := (j.buffer :: others).foldl (fun u i => bufferFreed u i j.slot p) faulted
      let u : State := { freed with eu := s.eu.take s.hw.config .moverFault }
      ∃ t, exec c s = .next t ∧
        (e.state = .active → inFlight s j.slot = true →
          ServiceOnly (haltTaken (u.setSlot j.slot { u.slot j.slot with faultMark := true })) t) ∧
        (e.state = .active → inFlight s j.slot = false → (∀ i, (u.point p).staged = some i → (u.buffer i).state ≠ .staged) →
          ServiceOnly (haltTaken (ended u p j.slot rest .moverFault)) t) ∧
        (e.state = .retiring → ServiceOnly (haltTaken (ended u p j.slot rest .moverFault)) t)

/-! ### What every step keeps -/

/-- Every step keeps the event unit sound (R165, R169, R175 to R179). -/
def Obligations.EventInvariantKept : Prop :=
  ∀ s t : State, (EventSetsAgree s ∧ FixedEnables s ∧ LinesAgree s) → step s = .next t →
    EventSetsAgree t ∧ FixedEnables t ∧ LinesAgree t

/-- Every step keeps the segment state, the line engine and the frame timer in agreement (R83, R104, R105). -/
def Obligations.SegmentInvariantKept : Prop :=
  ∀ s t : State, SegmentAgrees s → step s = .next t → SegmentAgrees t

/-- Every step keeps the counts in their ranges, the ring's head, the halt causes, the bindings, the mover's records and the
FREE buffers as the spec says they are (R1, R2, R9, R30, R123, R130, R140, R147, R153), and leaves no halt request untaken
(R113). -/
def Obligations.RecordInvariantsKept : Prop :=
  ∀ s t : State, step s = .next t →
    (CountsInRange s → CountsInRange t) ∧ (RingAgrees s → RingAgrees t) ∧ (HaltCausesAgree s → HaltCausesAgree t) ∧
      (BindingsAgree s → BindingsAgree t) ∧ (MoverAgrees s → MoverAgrees t) ∧
      (FreeBuffersEmpty s → FreeBuffersEmpty t) ∧ (HaltRequestsTaken s → HaltRequestsTaken t)

/-- Every step keeps the slot pool sound: every slot FREE and on the free list once or in exactly one queue, the lengths
256 in all (R29), only the first of a queue ACTIVE or RETIRING (R28, R30), jobs_outstanding the buffers owned (R36), at most
6 buffers STAGING or STAGED and the one RECEIVING that of the transaction (R131), the mover's jobs those of the STAGING and
DRAINING buffers (R139), the held list with points only while the ring is full (R156), and the staging wait list the points
that need staging (R135). -/
def Obligations.PoolInvariantKept : Prop :=
  ∀ s t : State, PoolSound s → step s = .next t → PoolSound t

/-- Every step keeps the scheduler's lists, its rotation pointer and its load table in agreement with the points (R61, R63,
R66, R69, R70). -/
def Obligations.SchedulerInvariantKept : Prop :=
  ∀ s t : State, SchedulerAgrees s → step s = .next t → SchedulerAgrees t

/-- Right after reset every invariant holds. -/
def Obligations.ResetStateIsSound : Prop :=
  EventSetsAgree State.reset ∧ FixedEnables State.reset ∧ LinesAgree State.reset ∧ SegmentAgrees State.reset ∧
    CountsInRange State.reset ∧ RingAgrees State.reset ∧ HaltCausesAgree State.reset ∧ BindingsAgree State.reset ∧
    MoverAgrees State.reset ∧ FreeBuffersEmpty State.reset ∧ HaltRequestsTaken State.reset ∧
    SchedulerAgrees State.reset ∧ PoolSound State.reset

end
end

