-- ==== Sys2Proof/Laws/State.lean ====
section
/-! SUPPORT. One lemma per field per update of the state, true by rfl, and what reading a table gives after writing one of
its records. No later proof needs to unfold a record update. -/

namespace Sys2Proof.Machine

/-! ### setPoint -/

@[simp] theorem State.setPoint_sp (s : State) (p : PointId) (x : Point) : (s.setPoint p x).sp = s.sp := rfl
@[simp] theorem State.setPoint_fs (s : State) (p : PointId) (x : Point) : (s.setPoint p x).fs = s.fs := rfl
@[simp] theorem State.setPoint_le (s : State) (p : PointId) (x : Point) : (s.setPoint p x).le = s.le := rfl
@[simp] theorem State.setPoint_sc (s : State) (p : PointId) (x : Point) : (s.setPoint p x).sc = s.sc := rfl
@[simp] theorem State.setPoint_bp (s : State) (p : PointId) (x : Point) : (s.setPoint p x).bp = s.bp := rfl
@[simp] theorem State.setPoint_pm (s : State) (p : PointId) (x : Point) : (s.setPoint p x).pm = s.pm := rfl
@[simp] theorem State.setPoint_cu (s : State) (p : PointId) (x : Point) : (s.setPoint p x).cu = s.cu := rfl
@[simp] theorem State.setPoint_eu (s : State) (p : PointId) (x : Point) : (s.setPoint p x).eu = s.eu := rfl
@[simp] theorem State.setPoint_hw (s : State) (p : PointId) (x : Point) : (s.setPoint p x).hw = s.hw := rfl
@[simp] theorem State.setPoint_pending (s : State) (p : PointId) (x : Point) : (s.setPoint p x).pending = s.pending := rfl

/-! ### setSlot -/

@[simp] theorem State.setSlot_pt (s : State) (y : SlotId) (e : Slot) : (s.setSlot y e).pt = s.pt := rfl
@[simp] theorem State.setSlot_fs (s : State) (y : SlotId) (e : Slot) : (s.setSlot y e).fs = s.fs := rfl
@[simp] theorem State.setSlot_le (s : State) (y : SlotId) (e : Slot) : (s.setSlot y e).le = s.le := rfl
@[simp] theorem State.setSlot_sc (s : State) (y : SlotId) (e : Slot) : (s.setSlot y e).sc = s.sc := rfl
@[simp] theorem State.setSlot_bp (s : State) (y : SlotId) (e : Slot) : (s.setSlot y e).bp = s.bp := rfl
@[simp] theorem State.setSlot_pm (s : State) (y : SlotId) (e : Slot) : (s.setSlot y e).pm = s.pm := rfl
@[simp] theorem State.setSlot_cu (s : State) (y : SlotId) (e : Slot) : (s.setSlot y e).cu = s.cu := rfl
@[simp] theorem State.setSlot_eu (s : State) (y : SlotId) (e : Slot) : (s.setSlot y e).eu = s.eu := rfl
@[simp] theorem State.setSlot_hw (s : State) (y : SlotId) (e : Slot) : (s.setSlot y e).hw = s.hw := rfl
@[simp] theorem State.setSlot_pending (s : State) (y : SlotId) (e : Slot) : (s.setSlot y e).pending = s.pending := rfl

/-! ### setQueue -/

@[simp] theorem State.setQueue_pt (s : State) (p : PointId) (q : List SlotId) : (s.setQueue p q).pt = s.pt := rfl
@[simp] theorem State.setQueue_fs (s : State) (p : PointId) (q : List SlotId) : (s.setQueue p q).fs = s.fs := rfl
@[simp] theorem State.setQueue_le (s : State) (p : PointId) (q : List SlotId) : (s.setQueue p q).le = s.le := rfl
@[simp] theorem State.setQueue_sc (s : State) (p : PointId) (q : List SlotId) : (s.setQueue p q).sc = s.sc := rfl
@[simp] theorem State.setQueue_bp (s : State) (p : PointId) (q : List SlotId) : (s.setQueue p q).bp = s.bp := rfl
@[simp] theorem State.setQueue_pm (s : State) (p : PointId) (q : List SlotId) : (s.setQueue p q).pm = s.pm := rfl
@[simp] theorem State.setQueue_cu (s : State) (p : PointId) (q : List SlotId) : (s.setQueue p q).cu = s.cu := rfl
@[simp] theorem State.setQueue_eu (s : State) (p : PointId) (q : List SlotId) : (s.setQueue p q).eu = s.eu := rfl
@[simp] theorem State.setQueue_hw (s : State) (p : PointId) (q : List SlotId) : (s.setQueue p q).hw = s.hw := rfl
@[simp] theorem State.setQueue_pending (s : State) (p : PointId) (q : List SlotId) : (s.setQueue p q).pending = s.pending := rfl

/-! ### setBuffer -/

@[simp] theorem State.setBuffer_pt (s : State) (b : BufId) (x : Buffer) : (s.setBuffer b x).pt = s.pt := rfl
@[simp] theorem State.setBuffer_sp (s : State) (b : BufId) (x : Buffer) : (s.setBuffer b x).sp = s.sp := rfl
@[simp] theorem State.setBuffer_fs (s : State) (b : BufId) (x : Buffer) : (s.setBuffer b x).fs = s.fs := rfl
@[simp] theorem State.setBuffer_le (s : State) (b : BufId) (x : Buffer) : (s.setBuffer b x).le = s.le := rfl
@[simp] theorem State.setBuffer_sc (s : State) (b : BufId) (x : Buffer) : (s.setBuffer b x).sc = s.sc := rfl
@[simp] theorem State.setBuffer_pm (s : State) (b : BufId) (x : Buffer) : (s.setBuffer b x).pm = s.pm := rfl
@[simp] theorem State.setBuffer_cu (s : State) (b : BufId) (x : Buffer) : (s.setBuffer b x).cu = s.cu := rfl
@[simp] theorem State.setBuffer_eu (s : State) (b : BufId) (x : Buffer) : (s.setBuffer b x).eu = s.eu := rfl
@[simp] theorem State.setBuffer_hw (s : State) (b : BufId) (x : Buffer) : (s.setBuffer b x).hw = s.hw := rfl
@[simp] theorem State.setBuffer_pending (s : State) (b : BufId) (x : Buffer) : (s.setBuffer b x).pending = s.pending := rfl

/-! ### setStation -/

@[simp] theorem State.setStation_pt (s : State) (i : StationId) (x : Station) : (s.setStation i x).pt = s.pt := rfl
@[simp] theorem State.setStation_sp (s : State) (i : StationId) (x : Station) : (s.setStation i x).sp = s.sp := rfl
@[simp] theorem State.setStation_fs (s : State) (i : StationId) (x : Station) : (s.setStation i x).fs = s.fs := rfl
@[simp] theorem State.setStation_le (s : State) (i : StationId) (x : Station) : (s.setStation i x).le = s.le := rfl
@[simp] theorem State.setStation_bp (s : State) (i : StationId) (x : Station) : (s.setStation i x).bp = s.bp := rfl
@[simp] theorem State.setStation_pm (s : State) (i : StationId) (x : Station) : (s.setStation i x).pm = s.pm := rfl
@[simp] theorem State.setStation_cu (s : State) (i : StationId) (x : Station) : (s.setStation i x).cu = s.cu := rfl
@[simp] theorem State.setStation_eu (s : State) (i : StationId) (x : Station) : (s.setStation i x).eu = s.eu := rfl
@[simp] theorem State.setStation_hw (s : State) (i : StationId) (x : Station) : (s.setStation i x).hw = s.hw := rfl
@[simp] theorem State.setStation_pending (s : State) (i : StationId) (x : Station) : (s.setStation i x).pending = s.pending := rfl

/-! ### setSeg -/

@[simp] theorem State.setSeg_pt (s : State) (g : SegState) : (s.setSeg g).pt = s.pt := rfl
@[simp] theorem State.setSeg_sp (s : State) (g : SegState) : (s.setSeg g).sp = s.sp := rfl
@[simp] theorem State.setSeg_fs (s : State) (g : SegState) : (s.setSeg g).fs = s.fs := rfl
@[simp] theorem State.setSeg_le (s : State) (g : SegState) : (s.setSeg g).le = s.le := rfl
@[simp] theorem State.setSeg_bp (s : State) (g : SegState) : (s.setSeg g).bp = s.bp := rfl
@[simp] theorem State.setSeg_pm (s : State) (g : SegState) : (s.setSeg g).pm = s.pm := rfl
@[simp] theorem State.setSeg_cu (s : State) (g : SegState) : (s.setSeg g).cu = s.cu := rfl
@[simp] theorem State.setSeg_eu (s : State) (g : SegState) : (s.setSeg g).eu = s.eu := rfl
@[simp] theorem State.setSeg_hw (s : State) (g : SegState) : (s.setSeg g).hw = s.hw := rfl
@[simp] theorem State.setSeg_pending (s : State) (g : SegState) : (s.setSeg g).pending = s.pending := rfl

/-! ### setLine -/

@[simp] theorem State.setLine_pt (s : State) (l : LineState) : (s.setLine l).pt = s.pt := rfl
@[simp] theorem State.setLine_sp (s : State) (l : LineState) : (s.setLine l).sp = s.sp := rfl
@[simp] theorem State.setLine_fs (s : State) (l : LineState) : (s.setLine l).fs = s.fs := rfl
@[simp] theorem State.setLine_sc (s : State) (l : LineState) : (s.setLine l).sc = s.sc := rfl
@[simp] theorem State.setLine_bp (s : State) (l : LineState) : (s.setLine l).bp = s.bp := rfl
@[simp] theorem State.setLine_pm (s : State) (l : LineState) : (s.setLine l).pm = s.pm := rfl
@[simp] theorem State.setLine_cu (s : State) (l : LineState) : (s.setLine l).cu = s.cu := rfl
@[simp] theorem State.setLine_eu (s : State) (l : LineState) : (s.setLine l).eu = s.eu := rfl
@[simp] theorem State.setLine_hw (s : State) (l : LineState) : (s.setLine l).hw = s.hw := rfl
@[simp] theorem State.setLine_pending (s : State) (l : LineState) : (s.setLine l).pending = s.pending := rfl

/-! ### setElapsed -/

@[simp] theorem State.setElapsed_pt (s : State) (t : Nat) : (s.setElapsed t).pt = s.pt := rfl
@[simp] theorem State.setElapsed_sp (s : State) (t : Nat) : (s.setElapsed t).sp = s.sp := rfl
@[simp] theorem State.setElapsed_le (s : State) (t : Nat) : (s.setElapsed t).le = s.le := rfl
@[simp] theorem State.setElapsed_sc (s : State) (t : Nat) : (s.setElapsed t).sc = s.sc := rfl
@[simp] theorem State.setElapsed_bp (s : State) (t : Nat) : (s.setElapsed t).bp = s.bp := rfl
@[simp] theorem State.setElapsed_pm (s : State) (t : Nat) : (s.setElapsed t).pm = s.pm := rfl
@[simp] theorem State.setElapsed_cu (s : State) (t : Nat) : (s.setElapsed t).cu = s.cu := rfl
@[simp] theorem State.setElapsed_eu (s : State) (t : Nat) : (s.setElapsed t).eu = s.eu := rfl
@[simp] theorem State.setElapsed_hw (s : State) (t : Nat) : (s.setElapsed t).hw = s.hw := rfl
@[simp] theorem State.setElapsed_pending (s : State) (t : Nat) : (s.setElapsed t).pending = s.pending := rfl

/-! ### The other fields of the block an update writes -/

@[simp] theorem State.setSlot_sp_freeList (s : State) (y : SlotId) (e : Slot) : (s.setSlot y e).sp.freeList = s.sp.freeList := rfl
@[simp] theorem State.setSlot_sp_queues (s : State) (y : SlotId) (e : Slot) : (s.setSlot y e).sp.queues = s.sp.queues := rfl
@[simp] theorem State.setQueue_sp_freeList (s : State) (p : PointId) (q : List SlotId) : (s.setQueue p q).sp.freeList = s.sp.freeList := rfl
@[simp] theorem State.setQueue_sp_slots (s : State) (p : PointId) (q : List SlotId) : (s.setQueue p q).sp.slots = s.sp.slots := rfl
@[simp] theorem State.setBuffer_bp_waitList (s : State) (b : BufId) (x : Buffer) : (s.setBuffer b x).bp.waitList = s.bp.waitList := rfl
@[simp] theorem State.setStation_sc_state (s : State) (i : StationId) (x : Station) : (s.setStation i x).sc.state = s.sc.state := rfl
@[simp] theorem State.setStation_sc_haltPending (s : State) (i : StationId) (x : Station) : (s.setStation i x).sc.haltPending = s.sc.haltPending := rfl
@[simp] theorem State.setStation_sc_suspendDropped (s : State) (i : StationId) (x : Station) : (s.setStation i x).sc.suspendDropped = s.sc.suspendDropped := rfl
@[simp] theorem State.setStation_sc_waiting (s : State) (i : StationId) (x : Station) : (s.setStation i x).sc.waiting = s.sc.waiting := rfl
@[simp] theorem State.setStation_sc_params (s : State) (i : StationId) (x : Station) : (s.setStation i x).sc.params = s.sc.params := rfl
@[simp] theorem State.setSeg_sc_haltPending (s : State) (g : SegState) : (s.setSeg g).sc.haltPending = s.sc.haltPending := rfl
@[simp] theorem State.setSeg_sc_suspendDropped (s : State) (g : SegState) : (s.setSeg g).sc.suspendDropped = s.sc.suspendDropped := rfl
@[simp] theorem State.setSeg_sc_waiting (s : State) (g : SegState) : (s.setSeg g).sc.waiting = s.sc.waiting := rfl
@[simp] theorem State.setSeg_sc_params (s : State) (g : SegState) : (s.setSeg g).sc.params = s.sc.params := rfl
@[simp] theorem State.setSeg_sc_stations (s : State) (g : SegState) : (s.setSeg g).sc.stations = s.sc.stations := rfl
@[simp] theorem State.setLine_le_txn (s : State) (l : LineState) : (s.setLine l).le.txn = s.le.txn := rfl
@[simp] theorem State.setLine_le_slotsRead (s : State) (l : LineState) : (s.setLine l).le.slotsRead = s.le.slotsRead := rfl
@[simp] theorem State.setLine_le_lineBits (s : State) (l : LineState) : (s.setLine l).le.lineBits = s.le.lineBits := rfl
@[simp] theorem State.setLine_le_lowBits (s : State) (l : LineState) : (s.setLine l).le.lowBits = s.le.lowBits := rfl
@[simp] theorem State.setElapsed_fs_running (s : State) (t : Nat) : (s.setElapsed t).fs.running = s.fs.running := rfl
@[simp] theorem State.setElapsed_fs_frame (s : State) (t : Nat) : (s.setElapsed t).fs.frame = s.fs.frame := rfl
@[simp] theorem State.setElapsed_fs_periodic (s : State) (t : Nat) : (s.setElapsed t).fs.periodic = s.fs.periodic := rfl
@[simp] theorem State.setElapsed_fs_load (s : State) (t : Nat) : (s.setElapsed t).fs.load = s.fs.load := rfl
@[simp] theorem State.setElapsed_fs_due (s : State) (t : Nat) : (s.setElapsed t).fs.due = s.fs.due := rfl
@[simp] theorem State.setElapsed_fs_ring (s : State) (t : Nat) : (s.setElapsed t).fs.ring = s.fs.ring := rfl
@[simp] theorem State.setElapsed_fs_pointer (s : State) (t : Nat) : (s.setElapsed t).fs.pointer = s.fs.pointer := rfl
@[simp] theorem State.setSeg_state (s : State) (g : SegState) : (s.setSeg g).sc.state = g := rfl
@[simp] theorem State.setLine_state (s : State) (l : LineState) : (s.setLine l).le.state = l := rfl
@[simp] theorem State.setElapsed_elapsed (s : State) (t : Nat) : (s.setElapsed t).fs.elapsed = t := rfl

/-! ### Reading a record of another table -/

@[simp] theorem State.setPoint_slot (s : State) (p : PointId) (x : Point) (y' : SlotId) : (s.setPoint p x).slot y' = s.slot y' := rfl
@[simp] theorem State.setPoint_queue (s : State) (p : PointId) (x : Point) (p' : PointId) : (s.setPoint p x).queue p' = s.queue p' := rfl
@[simp] theorem State.setPoint_buffer (s : State) (p : PointId) (x : Point) (b' : BufId) : (s.setPoint p x).buffer b' = s.buffer b' := rfl
@[simp] theorem State.setPoint_station (s : State) (p : PointId) (x : Point) (i' : StationId) : (s.setPoint p x).station i' = s.station i' := rfl
@[simp] theorem State.setPoint_first (s : State) (p : PointId) (x : Point) (p' : PointId) : (s.setPoint p x).first p' = s.first p' := rfl
@[simp] theorem State.setSlot_point (s : State) (y : SlotId) (e : Slot) (p' : PointId) : (s.setSlot y e).point p' = s.point p' := rfl
@[simp] theorem State.setSlot_queue (s : State) (y : SlotId) (e : Slot) (p' : PointId) : (s.setSlot y e).queue p' = s.queue p' := rfl
@[simp] theorem State.setSlot_buffer (s : State) (y : SlotId) (e : Slot) (b' : BufId) : (s.setSlot y e).buffer b' = s.buffer b' := rfl
@[simp] theorem State.setSlot_station (s : State) (y : SlotId) (e : Slot) (i' : StationId) : (s.setSlot y e).station i' = s.station i' := rfl
@[simp] theorem State.setSlot_first (s : State) (y : SlotId) (e : Slot) (p' : PointId) : (s.setSlot y e).first p' = s.first p' := rfl
@[simp] theorem State.setQueue_point (s : State) (p : PointId) (q : List SlotId) (p' : PointId) : (s.setQueue p q).point p' = s.point p' := rfl
@[simp] theorem State.setQueue_slot (s : State) (p : PointId) (q : List SlotId) (y' : SlotId) : (s.setQueue p q).slot y' = s.slot y' := rfl
@[simp] theorem State.setQueue_buffer (s : State) (p : PointId) (q : List SlotId) (b' : BufId) : (s.setQueue p q).buffer b' = s.buffer b' := rfl
@[simp] theorem State.setQueue_station (s : State) (p : PointId) (q : List SlotId) (i' : StationId) : (s.setQueue p q).station i' = s.station i' := rfl
@[simp] theorem State.setBuffer_point (s : State) (b : BufId) (x : Buffer) (p' : PointId) : (s.setBuffer b x).point p' = s.point p' := rfl
@[simp] theorem State.setBuffer_slot (s : State) (b : BufId) (x : Buffer) (y' : SlotId) : (s.setBuffer b x).slot y' = s.slot y' := rfl
@[simp] theorem State.setBuffer_queue (s : State) (b : BufId) (x : Buffer) (p' : PointId) : (s.setBuffer b x).queue p' = s.queue p' := rfl
@[simp] theorem State.setBuffer_station (s : State) (b : BufId) (x : Buffer) (i' : StationId) : (s.setBuffer b x).station i' = s.station i' := rfl
@[simp] theorem State.setBuffer_first (s : State) (b : BufId) (x : Buffer) (p' : PointId) : (s.setBuffer b x).first p' = s.first p' := rfl
@[simp] theorem State.setStation_point (s : State) (i : StationId) (x : Station) (p' : PointId) : (s.setStation i x).point p' = s.point p' := rfl
@[simp] theorem State.setStation_slot (s : State) (i : StationId) (x : Station) (y' : SlotId) : (s.setStation i x).slot y' = s.slot y' := rfl
@[simp] theorem State.setStation_queue (s : State) (i : StationId) (x : Station) (p' : PointId) : (s.setStation i x).queue p' = s.queue p' := rfl
@[simp] theorem State.setStation_buffer (s : State) (i : StationId) (x : Station) (b' : BufId) : (s.setStation i x).buffer b' = s.buffer b' := rfl
@[simp] theorem State.setStation_first (s : State) (i : StationId) (x : Station) (p' : PointId) : (s.setStation i x).first p' = s.first p' := rfl
@[simp] theorem State.setSeg_point (s : State) (g : SegState) (p' : PointId) : (s.setSeg g).point p' = s.point p' := rfl
@[simp] theorem State.setSeg_slot (s : State) (g : SegState) (y' : SlotId) : (s.setSeg g).slot y' = s.slot y' := rfl
@[simp] theorem State.setSeg_queue (s : State) (g : SegState) (p' : PointId) : (s.setSeg g).queue p' = s.queue p' := rfl
@[simp] theorem State.setSeg_buffer (s : State) (g : SegState) (b' : BufId) : (s.setSeg g).buffer b' = s.buffer b' := rfl
@[simp] theorem State.setSeg_station (s : State) (g : SegState) (i' : StationId) : (s.setSeg g).station i' = s.station i' := rfl
@[simp] theorem State.setSeg_first (s : State) (g : SegState) (p' : PointId) : (s.setSeg g).first p' = s.first p' := rfl
@[simp] theorem State.setLine_point (s : State) (l : LineState) (p' : PointId) : (s.setLine l).point p' = s.point p' := rfl
@[simp] theorem State.setLine_slot (s : State) (l : LineState) (y' : SlotId) : (s.setLine l).slot y' = s.slot y' := rfl
@[simp] theorem State.setLine_queue (s : State) (l : LineState) (p' : PointId) : (s.setLine l).queue p' = s.queue p' := rfl
@[simp] theorem State.setLine_buffer (s : State) (l : LineState) (b' : BufId) : (s.setLine l).buffer b' = s.buffer b' := rfl
@[simp] theorem State.setLine_station (s : State) (l : LineState) (i' : StationId) : (s.setLine l).station i' = s.station i' := rfl
@[simp] theorem State.setLine_first (s : State) (l : LineState) (p' : PointId) : (s.setLine l).first p' = s.first p' := rfl
@[simp] theorem State.setElapsed_point (s : State) (t : Nat) (p' : PointId) : (s.setElapsed t).point p' = s.point p' := rfl
@[simp] theorem State.setElapsed_slot (s : State) (t : Nat) (y' : SlotId) : (s.setElapsed t).slot y' = s.slot y' := rfl
@[simp] theorem State.setElapsed_queue (s : State) (t : Nat) (p' : PointId) : (s.setElapsed t).queue p' = s.queue p' := rfl
@[simp] theorem State.setElapsed_buffer (s : State) (t : Nat) (b' : BufId) : (s.setElapsed t).buffer b' = s.buffer b' := rfl
@[simp] theorem State.setElapsed_station (s : State) (t : Nat) (i' : StationId) : (s.setElapsed t).station i' = s.station i' := rfl
@[simp] theorem State.setElapsed_first (s : State) (t : Nat) (p' : PointId) : (s.setElapsed t).first p' = s.first p' := rfl

/-! ### Reading a record of the table just written -/

theorem State.point_setPoint (s : State) (p p' : PointId) (v : Point) :
    (s.setPoint p v).point p' = if p = p' then v else s.point p' := by
  simp [State.point, State.setPoint, Vector.getElem_set, Fin.ext_iff]
@[simp] theorem State.point_setPoint_same (s : State) (p : PointId) (v : Point) : (s.setPoint p v).point p = v := by
  simp [State.point_setPoint]
theorem State.point_setPoint_other (s : State) {p p' : PointId} (h : p ≠ p') (v : Point) :
    (s.setPoint p v).point p' = s.point p' := by simp [State.point_setPoint, h]

theorem State.slot_setSlot (s : State) (y y' : SlotId) (v : Slot) :
    (s.setSlot y v).slot y' = if y = y' then v else s.slot y' := by
  simp [State.slot, State.setSlot, Vector.getElem_set, Fin.ext_iff]
@[simp] theorem State.slot_setSlot_same (s : State) (y : SlotId) (v : Slot) : (s.setSlot y v).slot y = v := by
  simp [State.slot_setSlot]
theorem State.slot_setSlot_other (s : State) {y y' : SlotId} (h : y ≠ y') (v : Slot) :
    (s.setSlot y v).slot y' = s.slot y' := by simp [State.slot_setSlot, h]

theorem State.queue_setQueue (s : State) (p p' : PointId) (v : List SlotId) :
    (s.setQueue p v).queue p' = if p = p' then v else s.queue p' := by
  simp [State.queue, State.setQueue, Vector.getElem_set, Fin.ext_iff]
@[simp] theorem State.queue_setQueue_same (s : State) (p : PointId) (v : List SlotId) : (s.setQueue p v).queue p = v := by
  simp [State.queue_setQueue]
theorem State.queue_setQueue_other (s : State) {p p' : PointId} (h : p ≠ p') (v : List SlotId) :
    (s.setQueue p v).queue p' = s.queue p' := by simp [State.queue_setQueue, h]

theorem State.buffer_setBuffer (s : State) (b b' : BufId) (v : Buffer) :
    (s.setBuffer b v).buffer b' = if b = b' then v else s.buffer b' := by
  simp [State.buffer, State.setBuffer, Vector.getElem_set, Fin.ext_iff]
@[simp] theorem State.buffer_setBuffer_same (s : State) (b : BufId) (v : Buffer) : (s.setBuffer b v).buffer b = v := by
  simp [State.buffer_setBuffer]
theorem State.buffer_setBuffer_other (s : State) {b b' : BufId} (h : b ≠ b') (v : Buffer) :
    (s.setBuffer b v).buffer b' = s.buffer b' := by simp [State.buffer_setBuffer, h]

theorem State.station_setStation (s : State) (i i' : StationId) (v : Station) :
    (s.setStation i v).station i' = if i = i' then v else s.station i' := by
  simp [State.station, State.setStation, Vector.getElem_set, Fin.ext_iff]
@[simp] theorem State.station_setStation_same (s : State) (i : StationId) (v : Station) : (s.setStation i v).station i = v := by
  simp [State.station_setStation]
theorem State.station_setStation_other (s : State) {i i' : StationId} (h : i ≠ i') (v : Station) :
    (s.setStation i v).station i' = s.station i' := by simp [State.station_setStation, h]

/-! ### Raising a cause and setting an access flag -/

@[simp] theorem raise_pt (c : Cause) (s : State) : (raise c s).pt = s.pt := rfl
@[simp] theorem raise_sp (c : Cause) (s : State) : (raise c s).sp = s.sp := rfl
@[simp] theorem raise_fs (c : Cause) (s : State) : (raise c s).fs = s.fs := rfl
@[simp] theorem raise_le (c : Cause) (s : State) : (raise c s).le = s.le := rfl
@[simp] theorem raise_sc (c : Cause) (s : State) : (raise c s).sc = s.sc := rfl
@[simp] theorem raise_bp (c : Cause) (s : State) : (raise c s).bp = s.bp := rfl
@[simp] theorem raise_pm (c : Cause) (s : State) : (raise c s).pm = s.pm := rfl
@[simp] theorem raise_cu (c : Cause) (s : State) : (raise c s).cu = s.cu := rfl
@[simp] theorem raise_hw (c : Cause) (s : State) : (raise c s).hw = s.hw := rfl
@[simp] theorem raise_pending (c : Cause) (s : State) : (raise c s).pending = s.pending := rfl
@[simp] theorem setAccess_pt (f : AccessStatus → AccessStatus) (s : State) : (setAccess f s).pt = s.pt := rfl
@[simp] theorem setAccess_sp (f : AccessStatus → AccessStatus) (s : State) : (setAccess f s).sp = s.sp := rfl
@[simp] theorem setAccess_fs (f : AccessStatus → AccessStatus) (s : State) : (setAccess f s).fs = s.fs := rfl
@[simp] theorem setAccess_le (f : AccessStatus → AccessStatus) (s : State) : (setAccess f s).le = s.le := rfl
@[simp] theorem setAccess_sc (f : AccessStatus → AccessStatus) (s : State) : (setAccess f s).sc = s.sc := rfl
@[simp] theorem setAccess_bp (f : AccessStatus → AccessStatus) (s : State) : (setAccess f s).bp = s.bp := rfl
@[simp] theorem setAccess_pm (f : AccessStatus → AccessStatus) (s : State) : (setAccess f s).pm = s.pm := rfl
@[simp] theorem setAccess_cu (f : AccessStatus → AccessStatus) (s : State) : (setAccess f s).cu = s.cu := rfl
@[simp] theorem setAccess_eu (f : AccessStatus → AccessStatus) (s : State) : (setAccess f s).eu = s.eu := rfl
@[simp] theorem setAccess_pending (f : AccessStatus → AccessStatus) (s : State) : (setAccess f s).pending = s.pending := rfl
@[simp] theorem setAccess_hw_config (f : AccessStatus → AccessStatus) (s : State) : (setAccess f s).hw.config = s.hw.config := rfl
@[simp] theorem setAccess_hw_params (f : AccessStatus → AccessStatus) (s : State) : (setAccess f s).hw.params = s.hw.params := rfl
@[simp] theorem setAccess_hw_result0 (f : AccessStatus → AccessStatus) (s : State) : (setAccess f s).hw.result0 = s.hw.result0 := rfl
@[simp] theorem setAccess_hw_result1 (f : AccessStatus → AccessStatus) (s : State) : (setAccess f s).hw.result1 = s.hw.result1 := rfl
@[simp] theorem setAccess_hw_result2 (f : AccessStatus → AccessStatus) (s : State) : (setAccess f s).hw.result2 = s.hw.result2 := rfl
@[simp] theorem setAccess_hw_lastCode (f : AccessStatus → AccessStatus) (s : State) : (setAccess f s).hw.lastCode = s.hw.lastCode := rfl
@[simp] theorem setAccess_hw_seqNumber (f : AccessStatus → AccessStatus) (s : State) : (setAccess f s).hw.seqNumber = s.hw.seqNumber := rfl
@[simp] theorem setAccess_hw_resetPin (f : AccessStatus → AccessStatus) (s : State) : (setAccess f s).hw.resetPin = s.hw.resetPin := rfl
@[simp] theorem setAccess_hw_access (f : AccessStatus → AccessStatus) (s : State) : (setAccess f s).hw.access = f s.hw.access := rfl
@[simp] theorem raise_point (c : Cause) (s : State) (p' : PointId) : (raise c s).point p' = s.point p' := rfl
@[simp] theorem setAccess_point (f : AccessStatus → AccessStatus) (s : State) (p' : PointId) : (setAccess f s).point p' = s.point p' := rfl
@[simp] theorem raise_slot (c : Cause) (s : State) (y' : SlotId) : (raise c s).slot y' = s.slot y' := rfl
@[simp] theorem setAccess_slot (f : AccessStatus → AccessStatus) (s : State) (y' : SlotId) : (setAccess f s).slot y' = s.slot y' := rfl
@[simp] theorem raise_queue (c : Cause) (s : State) (p' : PointId) : (raise c s).queue p' = s.queue p' := rfl
@[simp] theorem setAccess_queue (f : AccessStatus → AccessStatus) (s : State) (p' : PointId) : (setAccess f s).queue p' = s.queue p' := rfl
@[simp] theorem raise_buffer (c : Cause) (s : State) (b' : BufId) : (raise c s).buffer b' = s.buffer b' := rfl
@[simp] theorem setAccess_buffer (f : AccessStatus → AccessStatus) (s : State) (b' : BufId) : (setAccess f s).buffer b' = s.buffer b' := rfl
@[simp] theorem raise_station (c : Cause) (s : State) (i' : StationId) : (raise c s).station i' = s.station i' := rfl
@[simp] theorem setAccess_station (f : AccessStatus → AccessStatus) (s : State) (i' : StationId) : (setAccess f s).station i' = s.station i' := rfl
@[simp] theorem raise_first (c : Cause) (s : State) (p' : PointId) : (raise c s).first p' = s.first p' := rfl
@[simp] theorem setAccess_first (f : AccessStatus → AccessStatus) (s : State) (p' : PointId) : (setAccess f s).first p' = s.first p' := rfl

/-! ### The records right after reset -/

@[simp] theorem State.reset_point (p : PointId) : State.reset.point p = Point.reset := Vector.getElem_replicate ..
@[simp] theorem State.reset_slot (x : SlotId) : State.reset.slot x = Slot.free := Vector.getElem_replicate ..
@[simp] theorem State.reset_queue (p : PointId) : State.reset.queue p = [] := Vector.getElem_replicate ..
@[simp] theorem State.reset_first (p : PointId) : State.reset.first p = none := by
  unfold State.first
  rw [State.reset_queue]
  rfl
@[simp] theorem State.reset_buffer (b : BufId) : State.reset.buffer b = Buffer.reset := Vector.getElem_replicate ..
@[simp] theorem State.reset_station (i : StationId) : State.reset.station i = Station.reset := Vector.getElem_replicate ..

/-! ### Changing every entry of a table -/

@[simp] theorem getElem_mapTable {α : Type} {n : Nat} (f : α → α) (v : Vector α n) (i : Nat) (h : i < n) :
    (mapTable f v)[i] = f v[i] := by
  simp only [mapTable, Vector.getElem_mk, List.getElem_toArray, List.getElem_map]
  rfl

end Sys2Proof.Machine
end

