-- ==== Sys2Proof/Laws/Blocks.lean ====
section
/-! SUPPORT. The blocks an operation leaves alone: one lemma per operation per block, for the operations that change a whole
block or table at once. -/

namespace Sys2Proof.Machine

/-! ### writeResult -/

@[simp] theorem writeResult_pt (code : BitVec 8) (r : Reply) (s : State) : (writeResult code r s).pt = s.pt := by unfold writeResult; rfl
@[simp] theorem writeResult_sp (code : BitVec 8) (r : Reply) (s : State) : (writeResult code r s).sp = s.sp := by unfold writeResult; rfl
@[simp] theorem writeResult_fs (code : BitVec 8) (r : Reply) (s : State) : (writeResult code r s).fs = s.fs := by unfold writeResult; rfl
@[simp] theorem writeResult_le (code : BitVec 8) (r : Reply) (s : State) : (writeResult code r s).le = s.le := by unfold writeResult; rfl
@[simp] theorem writeResult_sc (code : BitVec 8) (r : Reply) (s : State) : (writeResult code r s).sc = s.sc := by unfold writeResult; rfl
@[simp] theorem writeResult_bp (code : BitVec 8) (r : Reply) (s : State) : (writeResult code r s).bp = s.bp := by unfold writeResult; rfl
@[simp] theorem writeResult_pm (code : BitVec 8) (r : Reply) (s : State) : (writeResult code r s).pm = s.pm := by unfold writeResult; rfl
@[simp] theorem writeResult_cu (code : BitVec 8) (r : Reply) (s : State) : (writeResult code r s).cu = s.cu := by unfold writeResult; rfl
@[simp] theorem writeResult_eu (code : BitVec 8) (r : Reply) (s : State) : (writeResult code r s).eu = s.eu := by unfold writeResult; rfl
@[simp] theorem writeResult_pending (code : BitVec 8) (r : Reply) (s : State) : (writeResult code r s).pending = s.pending := by unfold writeResult; rfl
theorem writeResult_hw (code : BitVec 8) (r : Reply) (s : State) : (writeResult code r s).hw = { s.hw with result0 := resultWord r (s.hw.seqNumber + 1), result1 := r.r1, result2 := r.r2, lastCode := code, seqNumber := s.hw.seqNumber + 1 } := by unfold writeResult; rfl
@[simp] theorem writeResult_hw_config (code : BitVec 8) (r : Reply) (s : State) : (writeResult code r s).hw.config = s.hw.config := by rw [writeResult_hw]
@[simp] theorem writeResult_hw_access (code : BitVec 8) (r : Reply) (s : State) : (writeResult code r s).hw.access = s.hw.access := by rw [writeResult_hw]
@[simp] theorem writeResult_hw_params (code : BitVec 8) (r : Reply) (s : State) : (writeResult code r s).hw.params = s.hw.params := by rw [writeResult_hw]
@[simp] theorem writeResult_hw_resetPin (code : BitVec 8) (r : Reply) (s : State) : (writeResult code r s).hw.resetPin = s.hw.resetPin := by rw [writeResult_hw]

/-! ### lowerDefers -/

@[simp] theorem lowerDefers_sp (s : State) : (lowerDefers s).sp = s.sp := by unfold lowerDefers; rfl
@[simp] theorem lowerDefers_fs (s : State) : (lowerDefers s).fs = s.fs := by unfold lowerDefers; rfl
@[simp] theorem lowerDefers_le (s : State) : (lowerDefers s).le = s.le := by unfold lowerDefers; rfl
@[simp] theorem lowerDefers_sc (s : State) : (lowerDefers s).sc = s.sc := by unfold lowerDefers; rfl
@[simp] theorem lowerDefers_bp (s : State) : (lowerDefers s).bp = s.bp := by unfold lowerDefers; rfl
@[simp] theorem lowerDefers_pm (s : State) : (lowerDefers s).pm = s.pm := by unfold lowerDefers; rfl
@[simp] theorem lowerDefers_cu (s : State) : (lowerDefers s).cu = s.cu := by unfold lowerDefers; rfl
@[simp] theorem lowerDefers_eu (s : State) : (lowerDefers s).eu = s.eu := by unfold lowerDefers; rfl
@[simp] theorem lowerDefers_hw (s : State) : (lowerDefers s).hw = s.hw := by unfold lowerDefers; rfl
@[simp] theorem lowerDefers_pending (s : State) : (lowerDefers s).pending = s.pending := by unfold lowerDefers; rfl

/-! ### clearSeqs -/

@[simp] theorem clearSeqs_sp (s : State) : (clearSeqs s).sp = s.sp := by unfold clearSeqs; rfl
@[simp] theorem clearSeqs_fs (s : State) : (clearSeqs s).fs = s.fs := by unfold clearSeqs; rfl
@[simp] theorem clearSeqs_le (s : State) : (clearSeqs s).le = s.le := by unfold clearSeqs; rfl
@[simp] theorem clearSeqs_sc (s : State) : (clearSeqs s).sc = s.sc := by unfold clearSeqs; rfl
@[simp] theorem clearSeqs_bp (s : State) : (clearSeqs s).bp = s.bp := by unfold clearSeqs; rfl
@[simp] theorem clearSeqs_pm (s : State) : (clearSeqs s).pm = s.pm := by unfold clearSeqs; rfl
@[simp] theorem clearSeqs_cu (s : State) : (clearSeqs s).cu = s.cu := by unfold clearSeqs; rfl
@[simp] theorem clearSeqs_eu (s : State) : (clearSeqs s).eu = s.eu := by unfold clearSeqs; rfl
@[simp] theorem clearSeqs_hw (s : State) : (clearSeqs s).hw = s.hw := by unfold clearSeqs; rfl
@[simp] theorem clearSeqs_pending (s : State) : (clearSeqs s).pending = s.pending := by unfold clearSeqs; rfl

/-! ### clearDefers -/

@[simp] theorem clearDefers_sp (s : State) : (clearDefers s).sp = s.sp := by unfold clearDefers; rfl
@[simp] theorem clearDefers_fs (s : State) : (clearDefers s).fs = s.fs := by unfold clearDefers; rfl
@[simp] theorem clearDefers_le (s : State) : (clearDefers s).le = s.le := by unfold clearDefers; rfl
@[simp] theorem clearDefers_sc (s : State) : (clearDefers s).sc = s.sc := by unfold clearDefers; rfl
@[simp] theorem clearDefers_bp (s : State) : (clearDefers s).bp = s.bp := by unfold clearDefers; rfl
@[simp] theorem clearDefers_pm (s : State) : (clearDefers s).pm = s.pm := by unfold clearDefers; rfl
@[simp] theorem clearDefers_cu (s : State) : (clearDefers s).cu = s.cu := by unfold clearDefers; rfl
@[simp] theorem clearDefers_eu (s : State) : (clearDefers s).eu = s.eu := by unfold clearDefers; rfl
@[simp] theorem clearDefers_hw (s : State) : (clearDefers s).hw = s.hw := by unfold clearDefers; rfl
@[simp] theorem clearDefers_pending (s : State) : (clearDefers s).pending = s.pending := by unfold clearDefers; rfl

/-! ### stationsAbsent -/

@[simp] theorem stationsAbsent_pt (s : State) : (stationsAbsent s).pt = s.pt := by unfold stationsAbsent; rfl
@[simp] theorem stationsAbsent_sp (s : State) : (stationsAbsent s).sp = s.sp := by unfold stationsAbsent; rfl
@[simp] theorem stationsAbsent_fs (s : State) : (stationsAbsent s).fs = s.fs := by unfold stationsAbsent; rfl
@[simp] theorem stationsAbsent_le (s : State) : (stationsAbsent s).le = s.le := by unfold stationsAbsent; rfl
@[simp] theorem stationsAbsent_bp (s : State) : (stationsAbsent s).bp = s.bp := by unfold stationsAbsent; rfl
@[simp] theorem stationsAbsent_pm (s : State) : (stationsAbsent s).pm = s.pm := by unfold stationsAbsent; rfl
@[simp] theorem stationsAbsent_cu (s : State) : (stationsAbsent s).cu = s.cu := by unfold stationsAbsent; rfl
@[simp] theorem stationsAbsent_eu (s : State) : (stationsAbsent s).eu = s.eu := by unfold stationsAbsent; rfl
@[simp] theorem stationsAbsent_hw (s : State) : (stationsAbsent s).hw = s.hw := by unfold stationsAbsent; rfl
@[simp] theorem stationsAbsent_pending (s : State) : (stationsAbsent s).pending = s.pending := by unfold stationsAbsent; rfl

/-! ### emptyDue -/

@[simp] theorem emptyDue_pt (s : State) : (emptyDue s).pt = s.pt := by unfold emptyDue; rfl
@[simp] theorem emptyDue_sp (s : State) : (emptyDue s).sp = s.sp := by unfold emptyDue; rfl
@[simp] theorem emptyDue_le (s : State) : (emptyDue s).le = s.le := by unfold emptyDue; rfl
@[simp] theorem emptyDue_sc (s : State) : (emptyDue s).sc = s.sc := by unfold emptyDue; rfl
@[simp] theorem emptyDue_bp (s : State) : (emptyDue s).bp = s.bp := by unfold emptyDue; rfl
@[simp] theorem emptyDue_pm (s : State) : (emptyDue s).pm = s.pm := by unfold emptyDue; rfl
@[simp] theorem emptyDue_cu (s : State) : (emptyDue s).cu = s.cu := by unfold emptyDue; rfl
@[simp] theorem emptyDue_eu (s : State) : (emptyDue s).eu = s.eu := by unfold emptyDue; rfl
@[simp] theorem emptyDue_hw (s : State) : (emptyDue s).hw = s.hw := by unfold emptyDue; rfl
@[simp] theorem emptyDue_pending (s : State) : (emptyDue s).pending = s.pending := by unfold emptyDue; rfl

/-! ### beginFrame -/

@[simp] theorem beginFrame_sp (f : BitVec 12) (s : State) : (beginFrame f s).sp = s.sp := by unfold beginFrame lowerDefers; rfl
@[simp] theorem beginFrame_sc (f : BitVec 12) (s : State) : (beginFrame f s).sc = s.sc := by unfold beginFrame lowerDefers; rfl
@[simp] theorem beginFrame_bp (f : BitVec 12) (s : State) : (beginFrame f s).bp = s.bp := by unfold beginFrame lowerDefers; rfl
@[simp] theorem beginFrame_pm (f : BitVec 12) (s : State) : (beginFrame f s).pm = s.pm := by unfold beginFrame lowerDefers; rfl
@[simp] theorem beginFrame_cu (f : BitVec 12) (s : State) : (beginFrame f s).cu = s.cu := by unfold beginFrame lowerDefers; rfl
@[simp] theorem beginFrame_eu (f : BitVec 12) (s : State) : (beginFrame f s).eu = s.eu := by unfold beginFrame lowerDefers; rfl
@[simp] theorem beginFrame_hw (f : BitVec 12) (s : State) : (beginFrame f s).hw = s.hw := by unfold beginFrame lowerDefers; rfl
@[simp] theorem beginFrame_pending (f : BitVec 12) (s : State) : (beginFrame f s).pending = s.pending := by unfold beginFrame lowerDefers; rfl

/-! ### enterResettingCore -/

@[simp] theorem enterResettingCore_sp (s : State) : (enterResettingCore s).sp = s.sp := by unfold enterResettingCore clearDefers clearSeqs stationsAbsent; rfl
@[simp] theorem enterResettingCore_bp (s : State) : (enterResettingCore s).bp = s.bp := by unfold enterResettingCore clearDefers clearSeqs stationsAbsent; rfl
@[simp] theorem enterResettingCore_pm (s : State) : (enterResettingCore s).pm = s.pm := by unfold enterResettingCore clearDefers clearSeqs stationsAbsent; rfl
@[simp] theorem enterResettingCore_cu (s : State) : (enterResettingCore s).cu = s.cu := by unfold enterResettingCore clearDefers clearSeqs stationsAbsent; rfl
@[simp] theorem enterResettingCore_eu (s : State) : (enterResettingCore s).eu = s.eu := by unfold enterResettingCore clearDefers clearSeqs stationsAbsent; rfl
@[simp] theorem enterResettingCore_hw (s : State) : (enterResettingCore s).hw = s.hw := by unfold enterResettingCore clearDefers clearSeqs stationsAbsent; rfl
@[simp] theorem enterResettingCore_pending (s : State) : (enterResettingCore s).pending = s.pending := by unfold enterResettingCore clearDefers clearSeqs stationsAbsent; rfl

/-! ### enterResettingByStart -/

@[simp] theorem enterResettingByStart_sp (s : State) : (enterResettingByStart s).sp = s.sp := by unfold enterResettingByStart enterResettingCore clearDefers clearSeqs stationsAbsent; rfl
@[simp] theorem enterResettingByStart_bp (s : State) : (enterResettingByStart s).bp = s.bp := by unfold enterResettingByStart enterResettingCore clearDefers clearSeqs stationsAbsent; rfl
@[simp] theorem enterResettingByStart_pm (s : State) : (enterResettingByStart s).pm = s.pm := by unfold enterResettingByStart enterResettingCore clearDefers clearSeqs stationsAbsent; rfl
@[simp] theorem enterResettingByStart_cu (s : State) : (enterResettingByStart s).cu = s.cu := by unfold enterResettingByStart enterResettingCore clearDefers clearSeqs stationsAbsent; rfl
@[simp] theorem enterResettingByStart_eu (s : State) : (enterResettingByStart s).eu = s.eu := by unfold enterResettingByStart enterResettingCore clearDefers clearSeqs stationsAbsent; rfl
@[simp] theorem enterResettingByStart_hw (s : State) : (enterResettingByStart s).hw = s.hw := by unfold enterResettingByStart enterResettingCore clearDefers clearSeqs stationsAbsent; rfl
@[simp] theorem enterResettingByStart_pending (s : State) : (enterResettingByStart s).pending = s.pending := by unfold enterResettingByStart enterResettingCore clearDefers clearSeqs stationsAbsent; rfl

/-! ### enterWaking -/

@[simp] theorem enterWaking_pt (s : State) : (enterWaking s).pt = s.pt := by unfold enterWaking; rfl
@[simp] theorem enterWaking_sp (s : State) : (enterWaking s).sp = s.sp := by unfold enterWaking; rfl
@[simp] theorem enterWaking_fs (s : State) : (enterWaking s).fs = s.fs := by unfold enterWaking; rfl
@[simp] theorem enterWaking_bp (s : State) : (enterWaking s).bp = s.bp := by unfold enterWaking; rfl
@[simp] theorem enterWaking_pm (s : State) : (enterWaking s).pm = s.pm := by unfold enterWaking; rfl
@[simp] theorem enterWaking_cu (s : State) : (enterWaking s).cu = s.cu := by unfold enterWaking; rfl
@[simp] theorem enterWaking_eu (s : State) : (enterWaking s).eu = s.eu := by unfold enterWaking; rfl
@[simp] theorem enterWaking_hw (s : State) : (enterWaking s).hw = s.hw := by unfold enterWaking; rfl
@[simp] theorem enterWaking_pending (s : State) : (enterWaking s).pending = s.pending := by unfold enterWaking; rfl

/-! ### freeSlot -/

@[simp] theorem freeSlot_pt (x : SlotId) (p : PointId) (s : State) : (freeSlot x p s).pt = s.pt := by unfold freeSlot State.setQueue State.setSlot; rfl
@[simp] theorem freeSlot_fs (x : SlotId) (p : PointId) (s : State) : (freeSlot x p s).fs = s.fs := by unfold freeSlot State.setQueue State.setSlot; rfl
@[simp] theorem freeSlot_le (x : SlotId) (p : PointId) (s : State) : (freeSlot x p s).le = s.le := by unfold freeSlot State.setQueue State.setSlot; rfl
@[simp] theorem freeSlot_sc (x : SlotId) (p : PointId) (s : State) : (freeSlot x p s).sc = s.sc := by unfold freeSlot State.setQueue State.setSlot; rfl
@[simp] theorem freeSlot_bp (x : SlotId) (p : PointId) (s : State) : (freeSlot x p s).bp = s.bp := by unfold freeSlot State.setQueue State.setSlot; rfl
@[simp] theorem freeSlot_pm (x : SlotId) (p : PointId) (s : State) : (freeSlot x p s).pm = s.pm := by unfold freeSlot State.setQueue State.setSlot; rfl
@[simp] theorem freeSlot_cu (x : SlotId) (p : PointId) (s : State) : (freeSlot x p s).cu = s.cu := by unfold freeSlot State.setQueue State.setSlot; rfl
@[simp] theorem freeSlot_eu (x : SlotId) (p : PointId) (s : State) : (freeSlot x p s).eu = s.eu := by unfold freeSlot State.setQueue State.setSlot; rfl
@[simp] theorem freeSlot_hw (x : SlotId) (p : PointId) (s : State) : (freeSlot x p s).hw = s.hw := by unfold freeSlot State.setQueue State.setSlot; rfl
@[simp] theorem freeSlot_pending (x : SlotId) (p : PointId) (s : State) : (freeSlot x p s).pending = s.pending := by unfold freeSlot State.setQueue State.setSlot; rfl

/-! ### postRecord -/

@[simp] theorem postRecord_pt (x : SlotId) (p : PointId) (s : State) : (postRecord x p s).pt = s.pt := by unfold postRecord raise; rfl
@[simp] theorem postRecord_sp (x : SlotId) (p : PointId) (s : State) : (postRecord x p s).sp = s.sp := by unfold postRecord raise; rfl
@[simp] theorem postRecord_fs (x : SlotId) (p : PointId) (s : State) : (postRecord x p s).fs = s.fs := by unfold postRecord raise; rfl
@[simp] theorem postRecord_le (x : SlotId) (p : PointId) (s : State) : (postRecord x p s).le = s.le := by unfold postRecord raise; rfl
@[simp] theorem postRecord_sc (x : SlotId) (p : PointId) (s : State) : (postRecord x p s).sc = s.sc := by unfold postRecord raise; rfl
@[simp] theorem postRecord_bp (x : SlotId) (p : PointId) (s : State) : (postRecord x p s).bp = s.bp := by unfold postRecord raise; rfl
@[simp] theorem postRecord_pm (x : SlotId) (p : PointId) (s : State) : (postRecord x p s).pm = s.pm := by unfold postRecord raise; rfl
@[simp] theorem postRecord_hw (x : SlotId) (p : PointId) (s : State) : (postRecord x p s).hw = s.hw := by unfold postRecord raise; rfl
@[simp] theorem postRecord_pending (x : SlotId) (p : PointId) (s : State) : (postRecord x p s).pending = s.pending := by unfold postRecord raise; rfl

/-! ### reachDisabled -/

@[simp] theorem reachDisabled_sp (p : PointId) (s : State) : (reachDisabled p s).sp = s.sp := by unfold reachDisabled raise State.modPoint State.setPoint; rfl
@[simp] theorem reachDisabled_le (p : PointId) (s : State) : (reachDisabled p s).le = s.le := by unfold reachDisabled raise State.modPoint State.setPoint; rfl
@[simp] theorem reachDisabled_sc (p : PointId) (s : State) : (reachDisabled p s).sc = s.sc := by unfold reachDisabled raise State.modPoint State.setPoint; rfl
@[simp] theorem reachDisabled_bp (p : PointId) (s : State) : (reachDisabled p s).bp = s.bp := by unfold reachDisabled raise State.modPoint State.setPoint; rfl
@[simp] theorem reachDisabled_pm (p : PointId) (s : State) : (reachDisabled p s).pm = s.pm := by unfold reachDisabled raise State.modPoint State.setPoint; rfl
@[simp] theorem reachDisabled_cu (p : PointId) (s : State) : (reachDisabled p s).cu = s.cu := by unfold reachDisabled raise State.modPoint State.setPoint; rfl
@[simp] theorem reachDisabled_hw (p : PointId) (s : State) : (reachDisabled p s).hw = s.hw := by unfold reachDisabled raise State.modPoint State.setPoint; rfl
@[simp] theorem reachDisabled_pending (p : PointId) (s : State) : (reachDisabled p s).pending = s.pending := by unfold reachDisabled raise State.modPoint State.setPoint; rfl

/-! ### clearJob -/

@[simp] theorem clearJob_pt (s : State) : (clearJob s).pt = s.pt := by unfold clearJob; rfl
@[simp] theorem clearJob_sp (s : State) : (clearJob s).sp = s.sp := by unfold clearJob; rfl
@[simp] theorem clearJob_fs (s : State) : (clearJob s).fs = s.fs := by unfold clearJob; rfl
@[simp] theorem clearJob_le (s : State) : (clearJob s).le = s.le := by unfold clearJob; rfl
@[simp] theorem clearJob_sc (s : State) : (clearJob s).sc = s.sc := by unfold clearJob; rfl
@[simp] theorem clearJob_bp (s : State) : (clearJob s).bp = s.bp := by unfold clearJob; rfl
@[simp] theorem clearJob_cu (s : State) : (clearJob s).cu = s.cu := by unfold clearJob; rfl
@[simp] theorem clearJob_eu (s : State) : (clearJob s).eu = s.eu := by unfold clearJob; rfl
@[simp] theorem clearJob_hw (s : State) : (clearJob s).hw = s.hw := by unfold clearJob; rfl
@[simp] theorem clearJob_pending (s : State) : (clearJob s).pending = s.pending := by unfold clearJob; rfl

/-! ### countMemory -/

@[simp] theorem countMemory_pt (x : SlotId) (n : Nat) (s : State) : (countMemory x n s).pt = s.pt := by unfold countMemory State.modSlot State.setSlot; rfl
@[simp] theorem countMemory_fs (x : SlotId) (n : Nat) (s : State) : (countMemory x n s).fs = s.fs := by unfold countMemory State.modSlot State.setSlot; rfl
@[simp] theorem countMemory_le (x : SlotId) (n : Nat) (s : State) : (countMemory x n s).le = s.le := by unfold countMemory State.modSlot State.setSlot; rfl
@[simp] theorem countMemory_sc (x : SlotId) (n : Nat) (s : State) : (countMemory x n s).sc = s.sc := by unfold countMemory State.modSlot State.setSlot; rfl
@[simp] theorem countMemory_bp (x : SlotId) (n : Nat) (s : State) : (countMemory x n s).bp = s.bp := by unfold countMemory State.modSlot State.setSlot; rfl
@[simp] theorem countMemory_pm (x : SlotId) (n : Nat) (s : State) : (countMemory x n s).pm = s.pm := by unfold countMemory State.modSlot State.setSlot; rfl
@[simp] theorem countMemory_cu (x : SlotId) (n : Nat) (s : State) : (countMemory x n s).cu = s.cu := by unfold countMemory State.modSlot State.setSlot; rfl
@[simp] theorem countMemory_eu (x : SlotId) (n : Nat) (s : State) : (countMemory x n s).eu = s.eu := by unfold countMemory State.modSlot State.setSlot; rfl
@[simp] theorem countMemory_hw (x : SlotId) (n : Nat) (s : State) : (countMemory x n s).hw = s.hw := by unfold countMemory State.modSlot State.setSlot; rfl
@[simp] theorem countMemory_pending (x : SlotId) (n : Nat) (s : State) : (countMemory x n s).pending = s.pending := by unfold countMemory State.modSlot State.setSlot; rfl

/-! ### toggleSeq -/

@[simp] theorem toggleSeq_sp (p : PointId) (s : State) : (toggleSeq p s).sp = s.sp := by unfold toggleSeq State.modPoint State.setPoint; rfl
@[simp] theorem toggleSeq_fs (p : PointId) (s : State) : (toggleSeq p s).fs = s.fs := by unfold toggleSeq State.modPoint State.setPoint; rfl
@[simp] theorem toggleSeq_le (p : PointId) (s : State) : (toggleSeq p s).le = s.le := by unfold toggleSeq State.modPoint State.setPoint; rfl
@[simp] theorem toggleSeq_sc (p : PointId) (s : State) : (toggleSeq p s).sc = s.sc := by unfold toggleSeq State.modPoint State.setPoint; rfl
@[simp] theorem toggleSeq_bp (p : PointId) (s : State) : (toggleSeq p s).bp = s.bp := by unfold toggleSeq State.modPoint State.setPoint; rfl
@[simp] theorem toggleSeq_pm (p : PointId) (s : State) : (toggleSeq p s).pm = s.pm := by unfold toggleSeq State.modPoint State.setPoint; rfl
@[simp] theorem toggleSeq_cu (p : PointId) (s : State) : (toggleSeq p s).cu = s.cu := by unfold toggleSeq State.modPoint State.setPoint; rfl
@[simp] theorem toggleSeq_eu (p : PointId) (s : State) : (toggleSeq p s).eu = s.eu := by unfold toggleSeq State.modPoint State.setPoint; rfl
@[simp] theorem toggleSeq_hw (p : PointId) (s : State) : (toggleSeq p s).hw = s.hw := by unfold toggleSeq State.modPoint State.setPoint; rfl
@[simp] theorem toggleSeq_pending (p : PointId) (s : State) : (toggleSeq p s).pending = s.pending := by unfold toggleSeq State.modPoint State.setPoint; rfl

/-! ### takeReceiving -/

@[simp] theorem takeReceiving_pt (p : PointId) (x : SlotId) (b : BufId) (s : State) : (takeReceiving p x b s).pt = s.pt := by unfold takeReceiving State.modSlot State.setSlot State.modBuffer State.setBuffer; rfl
@[simp] theorem takeReceiving_fs (p : PointId) (x : SlotId) (b : BufId) (s : State) : (takeReceiving p x b s).fs = s.fs := by unfold takeReceiving State.modSlot State.setSlot State.modBuffer State.setBuffer; rfl
@[simp] theorem takeReceiving_le (p : PointId) (x : SlotId) (b : BufId) (s : State) : (takeReceiving p x b s).le = s.le := by unfold takeReceiving State.modSlot State.setSlot State.modBuffer State.setBuffer; rfl
@[simp] theorem takeReceiving_sc (p : PointId) (x : SlotId) (b : BufId) (s : State) : (takeReceiving p x b s).sc = s.sc := by unfold takeReceiving State.modSlot State.setSlot State.modBuffer State.setBuffer; rfl
@[simp] theorem takeReceiving_pm (p : PointId) (x : SlotId) (b : BufId) (s : State) : (takeReceiving p x b s).pm = s.pm := by unfold takeReceiving State.modSlot State.setSlot State.modBuffer State.setBuffer; rfl
@[simp] theorem takeReceiving_cu (p : PointId) (x : SlotId) (b : BufId) (s : State) : (takeReceiving p x b s).cu = s.cu := by unfold takeReceiving State.modSlot State.setSlot State.modBuffer State.setBuffer; rfl
@[simp] theorem takeReceiving_eu (p : PointId) (x : SlotId) (b : BufId) (s : State) : (takeReceiving p x b s).eu = s.eu := by unfold takeReceiving State.modSlot State.setSlot State.modBuffer State.setBuffer; rfl
@[simp] theorem takeReceiving_hw (p : PointId) (x : SlotId) (b : BufId) (s : State) : (takeReceiving p x b s).hw = s.hw := by unfold takeReceiving State.modSlot State.setSlot State.modBuffer State.setBuffer; rfl
@[simp] theorem takeReceiving_pending (p : PointId) (x : SlotId) (b : BufId) (s : State) : (takeReceiving p x b s).pending = s.pending := by unfold takeReceiving State.modSlot State.setSlot State.modBuffer State.setBuffer; rfl

/-! ### enqueue -/

@[simp] theorem enqueue_pt (p : PointId) (x : SlotId) (rest : List SlotId) (s : State) : (enqueue p x rest s).pt = s.pt := by unfold enqueue State.setQueue State.setSlot; rfl
@[simp] theorem enqueue_fs (p : PointId) (x : SlotId) (rest : List SlotId) (s : State) : (enqueue p x rest s).fs = s.fs := by unfold enqueue State.setQueue State.setSlot; rfl
@[simp] theorem enqueue_le (p : PointId) (x : SlotId) (rest : List SlotId) (s : State) : (enqueue p x rest s).le = s.le := by unfold enqueue State.setQueue State.setSlot; rfl
@[simp] theorem enqueue_sc (p : PointId) (x : SlotId) (rest : List SlotId) (s : State) : (enqueue p x rest s).sc = s.sc := by unfold enqueue State.setQueue State.setSlot; rfl
@[simp] theorem enqueue_bp (p : PointId) (x : SlotId) (rest : List SlotId) (s : State) : (enqueue p x rest s).bp = s.bp := by unfold enqueue State.setQueue State.setSlot; rfl
@[simp] theorem enqueue_pm (p : PointId) (x : SlotId) (rest : List SlotId) (s : State) : (enqueue p x rest s).pm = s.pm := by unfold enqueue State.setQueue State.setSlot; rfl
@[simp] theorem enqueue_cu (p : PointId) (x : SlotId) (rest : List SlotId) (s : State) : (enqueue p x rest s).cu = s.cu := by unfold enqueue State.setQueue State.setSlot; rfl
@[simp] theorem enqueue_eu (p : PointId) (x : SlotId) (rest : List SlotId) (s : State) : (enqueue p x rest s).eu = s.eu := by unfold enqueue State.setQueue State.setSlot; rfl
@[simp] theorem enqueue_hw (p : PointId) (x : SlotId) (rest : List SlotId) (s : State) : (enqueue p x rest s).hw = s.hw := by unfold enqueue State.setQueue State.setSlot; rfl
@[simp] theorem enqueue_pending (p : PointId) (x : SlotId) (rest : List SlotId) (s : State) : (enqueue p x rest s).pending = s.pending := by unfold enqueue State.setQueue State.setSlot; rfl

/-! ### admitPoint -/

@[simp] theorem admitPoint_sp (n : Nat) (p : PointId) (s : State) : (admitPoint n p s).sp = s.sp := by unfold admitPoint State.modPoint State.setPoint; rfl
@[simp] theorem admitPoint_le (n : Nat) (p : PointId) (s : State) : (admitPoint n p s).le = s.le := by unfold admitPoint State.modPoint State.setPoint; rfl
@[simp] theorem admitPoint_sc (n : Nat) (p : PointId) (s : State) : (admitPoint n p s).sc = s.sc := by unfold admitPoint State.modPoint State.setPoint; rfl
@[simp] theorem admitPoint_bp (n : Nat) (p : PointId) (s : State) : (admitPoint n p s).bp = s.bp := by unfold admitPoint State.modPoint State.setPoint; rfl
@[simp] theorem admitPoint_pm (n : Nat) (p : PointId) (s : State) : (admitPoint n p s).pm = s.pm := by unfold admitPoint State.modPoint State.setPoint; rfl
@[simp] theorem admitPoint_cu (n : Nat) (p : PointId) (s : State) : (admitPoint n p s).cu = s.cu := by unfold admitPoint State.modPoint State.setPoint; rfl
@[simp] theorem admitPoint_eu (n : Nat) (p : PointId) (s : State) : (admitPoint n p s).eu = s.eu := by unfold admitPoint State.modPoint State.setPoint; rfl
@[simp] theorem admitPoint_hw (n : Nat) (p : PointId) (s : State) : (admitPoint n p s).hw = s.hw := by unfold admitPoint State.modPoint State.setPoint; rfl
@[simp] theorem admitPoint_pending (n : Nat) (p : PointId) (s : State) : (admitPoint n p s).pending = s.pending := by unfold admitPoint State.modPoint State.setPoint; rfl

/-! ### releaseRecords -/

@[simp] theorem releaseRecords_pt (n : Nat) (s : State) : (releaseRecords n s).pt = s.pt := by unfold releaseRecords; rfl
@[simp] theorem releaseRecords_sp (n : Nat) (s : State) : (releaseRecords n s).sp = s.sp := by unfold releaseRecords; rfl
@[simp] theorem releaseRecords_fs (n : Nat) (s : State) : (releaseRecords n s).fs = s.fs := by unfold releaseRecords; rfl
@[simp] theorem releaseRecords_le (n : Nat) (s : State) : (releaseRecords n s).le = s.le := by unfold releaseRecords; rfl
@[simp] theorem releaseRecords_sc (n : Nat) (s : State) : (releaseRecords n s).sc = s.sc := by unfold releaseRecords; rfl
@[simp] theorem releaseRecords_bp (n : Nat) (s : State) : (releaseRecords n s).bp = s.bp := by unfold releaseRecords; rfl
@[simp] theorem releaseRecords_pm (n : Nat) (s : State) : (releaseRecords n s).pm = s.pm := by unfold releaseRecords; rfl
@[simp] theorem releaseRecords_eu (n : Nat) (s : State) : (releaseRecords n s).eu = s.eu := by unfold releaseRecords; rfl
@[simp] theorem releaseRecords_hw (n : Nat) (s : State) : (releaseRecords n s).hw = s.hw := by unfold releaseRecords; rfl
@[simp] theorem releaseRecords_pending (n : Nat) (s : State) : (releaseRecords n s).pending = s.pending := by unfold releaseRecords; rfl

/-! ### freeBuffer -/

@[simp] theorem freeBuffer_fs (b : BufId) (s : State) : (freeBuffer b s).fs = s.fs := by
  unfold freeBuffer
  dsimp only
  cases (s.buffer b).slot <;> cases (s.buffer b).point <;> dsimp only <;> (try split) <;> rfl
@[simp] theorem freeBuffer_le (b : BufId) (s : State) : (freeBuffer b s).le = s.le := by
  unfold freeBuffer
  dsimp only
  cases (s.buffer b).slot <;> cases (s.buffer b).point <;> dsimp only <;> (try split) <;> rfl
@[simp] theorem freeBuffer_sc (b : BufId) (s : State) : (freeBuffer b s).sc = s.sc := by
  unfold freeBuffer
  dsimp only
  cases (s.buffer b).slot <;> cases (s.buffer b).point <;> dsimp only <;> (try split) <;> rfl
@[simp] theorem freeBuffer_pm (b : BufId) (s : State) : (freeBuffer b s).pm = s.pm := by
  unfold freeBuffer
  dsimp only
  cases (s.buffer b).slot <;> cases (s.buffer b).point <;> dsimp only <;> (try split) <;> rfl
@[simp] theorem freeBuffer_cu (b : BufId) (s : State) : (freeBuffer b s).cu = s.cu := by
  unfold freeBuffer
  dsimp only
  cases (s.buffer b).slot <;> cases (s.buffer b).point <;> dsimp only <;> (try split) <;> rfl
@[simp] theorem freeBuffer_eu (b : BufId) (s : State) : (freeBuffer b s).eu = s.eu := by
  unfold freeBuffer
  dsimp only
  cases (s.buffer b).slot <;> cases (s.buffer b).point <;> dsimp only <;> (try split) <;> rfl
@[simp] theorem freeBuffer_hw (b : BufId) (s : State) : (freeBuffer b s).hw = s.hw := by
  unfold freeBuffer
  dsimp only
  cases (s.buffer b).slot <;> cases (s.buffer b).point <;> dsimp only <;> (try split) <;> rfl
@[simp] theorem freeBuffer_pending (b : BufId) (s : State) : (freeBuffer b s).pending = s.pending := by
  unfold freeBuffer
  dsimp only
  cases (s.buffer b).slot <;> cases (s.buffer b).point <;> dsimp only <;> (try split) <;> rfl

/-! ### joinHeld -/

@[simp] theorem joinHeld_pt (w : Bool) (p : PointId) (s : State) : (joinHeld w p s).pt = s.pt := by
  unfold joinHeld
  dsimp only
  split <;> rfl
@[simp] theorem joinHeld_sp (w : Bool) (p : PointId) (s : State) : (joinHeld w p s).sp = s.sp := by
  unfold joinHeld
  dsimp only
  split <;> rfl
@[simp] theorem joinHeld_fs (w : Bool) (p : PointId) (s : State) : (joinHeld w p s).fs = s.fs := by
  unfold joinHeld
  dsimp only
  split <;> rfl
@[simp] theorem joinHeld_le (w : Bool) (p : PointId) (s : State) : (joinHeld w p s).le = s.le := by
  unfold joinHeld
  dsimp only
  split <;> rfl
@[simp] theorem joinHeld_sc (w : Bool) (p : PointId) (s : State) : (joinHeld w p s).sc = s.sc := by
  unfold joinHeld
  dsimp only
  split <;> rfl
@[simp] theorem joinHeld_bp (w : Bool) (p : PointId) (s : State) : (joinHeld w p s).bp = s.bp := by
  unfold joinHeld
  dsimp only
  split <;> rfl
@[simp] theorem joinHeld_pm (w : Bool) (p : PointId) (s : State) : (joinHeld w p s).pm = s.pm := by
  unfold joinHeld
  dsimp only
  split <;> rfl
@[simp] theorem joinHeld_hw (w : Bool) (p : PointId) (s : State) : (joinHeld w p s).hw = s.hw := by
  unfold joinHeld
  dsimp only
  split <;> rfl
@[simp] theorem joinHeld_pending (w : Bool) (p : PointId) (s : State) : (joinHeld w p s).pending = s.pending := by
  unfold joinHeld
  dsimp only
  split <;> rfl

/-! ### haltPoint -/

@[simp] theorem haltPoint_sp (c : HaltCause) (p : PointId) (s : State) : (haltPoint c p s).sp = s.sp := by
  unfold haltPoint
  split <;> rfl
@[simp] theorem haltPoint_fs (c : HaltCause) (p : PointId) (s : State) : (haltPoint c p s).fs = s.fs := by
  unfold haltPoint
  split <;> rfl
@[simp] theorem haltPoint_le (c : HaltCause) (p : PointId) (s : State) : (haltPoint c p s).le = s.le := by
  unfold haltPoint
  split <;> rfl
@[simp] theorem haltPoint_sc (c : HaltCause) (p : PointId) (s : State) : (haltPoint c p s).sc = s.sc := by
  unfold haltPoint
  split <;> rfl
@[simp] theorem haltPoint_bp (c : HaltCause) (p : PointId) (s : State) : (haltPoint c p s).bp = s.bp := by
  unfold haltPoint
  split <;> rfl
@[simp] theorem haltPoint_pm (c : HaltCause) (p : PointId) (s : State) : (haltPoint c p s).pm = s.pm := by
  unfold haltPoint
  split <;> rfl
@[simp] theorem haltPoint_cu (c : HaltCause) (p : PointId) (s : State) : (haltPoint c p s).cu = s.cu := by
  unfold haltPoint
  split <;> rfl
@[simp] theorem haltPoint_hw (c : HaltCause) (p : PointId) (s : State) : (haltPoint c p s).hw = s.hw := by
  unfold haltPoint
  split <;> rfl
@[simp] theorem haltPoint_pending (c : HaltCause) (p : PointId) (s : State) : (haltPoint c p s).pending = s.pending := by
  unfold haltPoint
  split <;> rfl

/-! ### countMoved -/

@[simp] theorem countMoved_pt (j : Job) (n : Nat) (w : Vector Word 16) (s : State) : (countMoved j n w s).pt = s.pt := by
  unfold countMoved
  dsimp only
  split <;> rfl
@[simp] theorem countMoved_sp (j : Job) (n : Nat) (w : Vector Word 16) (s : State) : (countMoved j n w s).sp = s.sp := by
  unfold countMoved
  dsimp only
  split <;> rfl
@[simp] theorem countMoved_fs (j : Job) (n : Nat) (w : Vector Word 16) (s : State) : (countMoved j n w s).fs = s.fs := by
  unfold countMoved
  dsimp only
  split <;> rfl
@[simp] theorem countMoved_le (j : Job) (n : Nat) (w : Vector Word 16) (s : State) : (countMoved j n w s).le = s.le := by
  unfold countMoved
  dsimp only
  split <;> rfl
@[simp] theorem countMoved_sc (j : Job) (n : Nat) (w : Vector Word 16) (s : State) : (countMoved j n w s).sc = s.sc := by
  unfold countMoved
  dsimp only
  split <;> rfl
@[simp] theorem countMoved_cu (j : Job) (n : Nat) (w : Vector Word 16) (s : State) : (countMoved j n w s).cu = s.cu := by
  unfold countMoved
  dsimp only
  split <;> rfl
@[simp] theorem countMoved_eu (j : Job) (n : Nat) (w : Vector Word 16) (s : State) : (countMoved j n w s).eu = s.eu := by
  unfold countMoved
  dsimp only
  split <;> rfl
@[simp] theorem countMoved_hw (j : Job) (n : Nat) (w : Vector Word 16) (s : State) : (countMoved j n w s).hw = s.hw := by
  unfold countMoved
  dsimp only
  split <;> rfl
@[simp] theorem countMoved_pending (j : Job) (n : Nat) (w : Vector Word 16) (s : State) : (countMoved j n w s).pending = s.pending := by
  unfold countMoved
  dsimp only
  split <;> rfl

/-! ### nextBurst -/

@[simp] theorem nextBurst_pt (s : State) : (nextBurst s).pt = s.pt := by
  unfold nextBurst
  split <;> rfl
@[simp] theorem nextBurst_sp (s : State) : (nextBurst s).sp = s.sp := by
  unfold nextBurst
  split <;> rfl
@[simp] theorem nextBurst_fs (s : State) : (nextBurst s).fs = s.fs := by
  unfold nextBurst
  split <;> rfl
@[simp] theorem nextBurst_le (s : State) : (nextBurst s).le = s.le := by
  unfold nextBurst
  split <;> rfl
@[simp] theorem nextBurst_sc (s : State) : (nextBurst s).sc = s.sc := by
  unfold nextBurst
  split <;> rfl
@[simp] theorem nextBurst_bp (s : State) : (nextBurst s).bp = s.bp := by
  unfold nextBurst
  split <;> rfl
@[simp] theorem nextBurst_cu (s : State) : (nextBurst s).cu = s.cu := by
  unfold nextBurst
  split <;> rfl
@[simp] theorem nextBurst_eu (s : State) : (nextBurst s).eu = s.eu := by
  unfold nextBurst
  split <;> rfl
@[simp] theorem nextBurst_hw (s : State) : (nextBurst s).hw = s.hw := by
  unfold nextBurst
  split <;> rfl
@[simp] theorem nextBurst_pending (s : State) : (nextBurst s).pending = s.pending := by
  unfold nextBurst
  split <;> rfl

/-! ### completeReset (R196) -/

@[simp] theorem completeReset_pt (s : State) : (completeReset s).pt = PointTable.reset := by unfold completeReset State.reset; rfl
@[simp] theorem completeReset_sp (s : State) : (completeReset s).sp = SlotPool.reset := by unfold completeReset State.reset; rfl
@[simp] theorem completeReset_fs (s : State) : (completeReset s).fs = FrameScheduler.reset := by unfold completeReset State.reset; rfl
@[simp] theorem completeReset_le (s : State) : (completeReset s).le = LineEngine.reset := by unfold completeReset State.reset; rfl
@[simp] theorem completeReset_sc (s : State) : (completeReset s).sc = SegmentControl.reset := by unfold completeReset State.reset; rfl
@[simp] theorem completeReset_pm (s : State) : (completeReset s).pm = Mover.reset := by unfold completeReset State.reset; rfl
@[simp] theorem completeReset_eu (s : State) : (completeReset s).eu = EventUnit.reset := by unfold completeReset State.reset; rfl
@[simp] theorem completeReset_cu (s : State) : (completeReset s).cu = { CompletionUnit.reset with ring := s.cu.ring } := by unfold completeReset State.reset; rfl
@[simp] theorem completeReset_hw (s : State) : (completeReset s).hw = { HostWindow.reset with config := s.hw.config, resetPin := s.hw.resetPin } := by unfold completeReset State.reset; rfl
@[simp] theorem completeReset_pending (s : State) : (completeReset s).pending = s.pending := by unfold completeReset State.reset; rfl

/-! ### What freeing a buffer is (R133) -/

/-- The buffer of an exchange whose point holds it as its staged buffer. -/
theorem freeBuffer_of_staged {b : BufId} {s : State} {x : SlotId} {p : PointId} (hs : (s.buffer b).slot = some x)
    (hp : (s.buffer b).point = some p) (hst : (s.point p).staged = some b) :
    freeBuffer b s =
      ((s.setBuffer b { Buffer.reset with data := (s.buffer b).data }).setSlot x
        { s.slot x with jobs := (s.slot x).jobs - 1 }).setPoint p { s.point p with staged := none } := by
  unfold freeBuffer
  simp [hs, hp, State.modSlot, State.modPoint, hst]

/-- The buffer of an exchange whose point does not hold it as its staged buffer. -/
theorem freeBuffer_of_not_staged {b : BufId} {s : State} {x : SlotId} {p : PointId} (hs : (s.buffer b).slot = some x)
    (hp : (s.buffer b).point = some p) (hst : (s.point p).staged ≠ some b) :
    freeBuffer b s =
      (s.setBuffer b { Buffer.reset with data := (s.buffer b).data }).setSlot x
        { s.slot x with jobs := (s.slot x).jobs - 1 } := by
  unfold freeBuffer
  simp [hs, hp, State.modSlot, hst]

/-! ### Tables changed at every entry -/

theorem lowerDefers_point (s : State) (p : PointId) :
    (lowerDefers s).point p = { s.point p with deferCount := (s.point p).deferCount - 1 } := by
  simp [lowerDefers, State.point, getElem_mapTable]

theorem clearSeqs_point (s : State) (p : PointId) : (clearSeqs s).point p = { s.point p with seq := false } := by
  simp [clearSeqs, State.point, getElem_mapTable]

theorem clearDefers_point (s : State) (p : PointId) :
    (clearDefers s).point p = { s.point p with deferCount := 0 } := by
  simp [clearDefers, State.point, getElem_mapTable]

theorem stationsAbsent_station (s : State) (i : StationId) :
    (stationsAbsent s).station i =
      { s.station i with presence := .absent, silent := 0, streak := 0, answered := false } := by
  simp [stationsAbsent, State.station, getElem_mapTable]

end Sys2Proof.Machine
end

