-- ==== Sys2Proof/Laws/Ops.lean ====
section
/-! SUPPORT. One lemma per shared operation that says everything it can do to the rest of the state: proofs cite these in
place of unfolding the operation. -/

namespace Sys2Proof.Machine

/-! ### Changing one record -/

theorem modPoint_eq (s : State) (p : PointId) (f : Point → Point) : s.modPoint p f = s.setPoint p (f (s.point p)) := rfl
theorem modSlot_eq (s : State) (x : SlotId) (f : Slot → Slot) : s.modSlot x f = s.setSlot x (f (s.slot x)) := rfl
theorem modBuffer_eq (s : State) (b : BufId) (f : Buffer → Buffer) : s.modBuffer b f = s.setBuffer b (f (s.buffer b)) := rfl
theorem modStation_eq (s : State) (i : StationId) (f : Station → Station) :
    s.modStation i f = s.setStation i (f (s.station i)) := rfl

/-! ### Staging (R135, R136, R139) -/

/-- A grant reaches the points, the exchange records, the buffer pool and the mover. -/
theorem grant_blocks (p : PointId) (b : BufId) (x : SlotId) (s : State) :
    grant p b x s = { s with
      pt := (grant p b x s).pt, sp := { s.sp with slots := (grant p b x s).sp.slots }, bp := (grant p b x s).bp
      pm := (grant p b x s).pm } := by
  unfold grant
  dsimp only
  split <;> rfl

/-- Taking a job reaches the mover. -/
theorem takeJob_blocks (s : State) : takeJob s = { s with pm := (takeJob s).pm } := by
  unfold takeJob
  split
  · split
    · rfl
    · split <;> rfl
  · rfl

/-- Beginning a transaction reaches the line engine, the exchange records and the buffer pool. -/
theorem beginTxn_blocks (p : PointId) (s : State) :
    beginTxn p s = { s with
      sp := { s.sp with slots := (beginTxn p s).sp.slots }, le := (beginTxn p s).le, bp := (beginTxn p s).bp } := by
  unfold beginTxn
  split
  · split <;> rfl
  · rfl

/-- Where the conditions of R73 fail there is no choice. -/
theorem choose_of_not (s : State) (h : mayChoose s = false) : choose s = s := by simp [choose, h]

/-! ### Commands (R188, R189) -/

/-- The fields of RESULT0 do not overlap. -/
theorem resultWord_eq (c : ResultCode) (v : Nat) (hv : v < 256) (r1 r2 : Word) (n : BitVec 16) :
    resultWord ⟨c, v, r1, r2⟩ n = BitVec.ofNat 32 (c.code * 2 ^ 24 + v * 2 ^ 16 + n.toNat) := by
  have hn := n.isLt
  have hc : c.code < 256 := by cases c <;> decide
  apply BitVec.eq_of_toNat_eq
  simp only [resultWord, place, BitVec.toNat_or, BitVec.toNat_ofNat, Nat.pow_zero, Nat.mul_one]
  rw [Nat.mod_eq_of_lt (by omega), Nat.mod_eq_of_lt (by omega), Nat.mod_eq_of_lt (by omega), Nat.mod_eq_of_lt (by omega)]
  rw [show c.code * 2 ^ 24 = 2 ^ 24 * c.code by omega,
    ← Nat.two_pow_add_eq_or_of_lt (i := 24) (b := v * 2 ^ 16) (by omega),
    show 2 ^ 24 * c.code + v * 2 ^ 16 = 2 ^ 16 * (2 ^ 8 * c.code + v) by omega,
    ← Nat.two_pow_add_eq_or_of_lt (i := 16) (b := n.toNat) (by omega)]

/-- What writing a result does: the window of R189 and nothing else. -/
theorem writeResult_eq (code : BitVec 8) (r : Reply) (hv : r.value < 256) (s : State) :
    writeResult code r s = { s with hw := answeredWindow s.hw code r.code.code r.value r.r1 r.r2 } := by
  obtain ⟨c, v, r1, r2⟩ := r
  simp only at hv
  simp only [writeResult, answeredWindow, resultWord_eq c v hv]

/-- A command that the window takes: the effect of its rule, then its result. -/
theorem command_eq (code : BitVec 8) (f : State → State × Reply) (s : State) (h : deaf s = false) :
    command code f s = .next (writeResult code (f s).2 (f s).1) := by simp [command, windowWrite, h]

/-- A write the window takes. -/
theorem windowWrite_eq (s : State) (f : State → State) (h : deaf s = false) : windowWrite s f = .next (f s) := by
  simp [windowWrite, h]

/-- A write the window does not take. -/
theorem windowWrite_deaf (s : State) (f : State → State) (h : deaf s = true) : windowWrite s f = .next s := by
  simp [windowWrite, h]

end Sys2Proof.Machine
end

