-- ==== Sys2Proof/Laws/Endings.lean ====
section
/-! SUPPORT. What ending an exchange and following its queue come to, in the terms of the statements: the operations of the
model equal the functions of Safety that say their effect field by field. -/

namespace Sys2Proof.Machine

/-! ### Writing a record twice, and writing it back -/

theorem State.setSlot_setSlot (s : State) (x : SlotId) (e f : Slot) : (s.setSlot x e).setSlot x f = s.setSlot x f := by
  simp [State.setSlot]

theorem State.setPoint_self (s : State) (p : PointId) : s.setPoint p (s.point p) = s := by
  simp [State.setPoint, State.point]

/-! ### Freeing a buffer (R133) -/

theorem freeBuffer_eq {s : State} {b : BufId} {x : SlotId} {p : PointId} (hp : (s.buffer b).point = some p)
    (hx : (s.buffer b).slot = some x) : freeBuffer b s = bufferFreed s b x p := by
  simp only [freeBuffer, bufferFreed, hp, hx, State.modSlot, State.modPoint, State.setSlot_point, State.setBuffer_point]
  split
  · rfl
  · rw [show s.point p = ((s.setBuffer b _).setSlot x _).point p from rfl, State.setPoint_self]
    rfl

/-- The STAGED buffer of an exchange whose point's staged buffer names both. -/
theorem freeStaged_eq {s : State} {x : SlotId} {p : PointId} (hx : (s.slot x).point = some p)
    (hb : ∀ b, (s.point p).staged = some b → (s.buffer b).point = some p ∧ (s.buffer b).slot = some x) :
    freeStaged x s = stagedFreed s x p := by
  unfold freeStaged stagedFreed stagedBuffer
  rw [hx]
  dsimp only
  cases hs : (s.point p).staged with
  | none => rfl
  | some b =>
    obtain ⟨h1, h2⟩ := hb b hs
    by_cases hg : (s.buffer b).state = .staged
    · simp [stagedFor, hg, h2, freeBuffer_eq h1 h2]
    · simp [stagedFor, hg]

theorem stagedFreed_cu (s : State) (x : SlotId) (p : PointId) : (stagedFreed s x p).cu = s.cu := by
  unfold stagedFreed
  split
  · split <;> rfl
  · rfl

theorem stagedFreed_eu (s : State) (x : SlotId) (p : PointId) : (stagedFreed s x p).eu = s.eu := by
  unfold stagedFreed
  split
  · split <;> rfl
  · rfl

theorem stagedFreed_queue (s : State) (x : SlotId) (p q : PointId) : (stagedFreed s x p).queue q = s.queue q := by
  unfold stagedFreed
  split
  · split <;> rfl
  · rfl

/-- Freeing the STAGED buffer of an exchange changes of the exchanges its own count of jobs alone. -/
theorem stagedFreed_slot (s : State) (x : SlotId) (p : PointId) (y : SlotId) :
    (stagedFreed s x p).slot y = if x = y then { s.slot x with jobs := ((stagedFreed s x p).slot x).jobs } else s.slot y := by
  unfold stagedFreed
  split
  · split
    · simp only [bufferFreed, State.setPoint_slot, State.slot_setSlot, State.setBuffer_slot, if_true]
    · split
      · subst y; rfl
      · rfl
  · split
    · subst y; rfl
    · rfl

/-- Freeing the STAGED buffer of an exchange changes of the points the staged buffer of its own alone. -/
theorem stagedFreed_point (s : State) (x : SlotId) (p q : PointId) :
    ∃ b, (stagedFreed s x p).point q = { s.point q with staged := b } ∧ (b = (s.point q).staged ∨ b = none) := by
  unfold stagedFreed
  split
  · split
    · simp only [bufferFreed, State.point_setPoint, State.setSlot_point, State.setBuffer_point]
      split
      · subst q
        exact ⟨none, rfl, .inr rfl⟩
      · exact ⟨_, rfl, .inl rfl⟩
    · exact ⟨_, rfl, .inl rfl⟩
  · exact ⟨_, rfl, .inl rfl⟩

theorem stagedFreed_buffer_slot (s : State) (x : SlotId) (p : PointId) (b : BufId) (y : SlotId)
    (h : (s.buffer b).slot ≠ some y) : ((stagedFreed s x p).buffer b).slot ≠ some y := by
  unfold stagedFreed
  split
  · split
    · simp only [bufferFreed, State.setPoint_buffer, State.setSlot_buffer, State.buffer_setBuffer]
      split
      · nofun
      · exact h
    · exact h
  · exact h

/-! ### A point reaching DISABLED (R20) -/

theorem changeLoad_eq (c : PointConfig) (f : Nat → Nat) (load : Vector Nat 128) :
    changeLoad c f load = Vector.ofFn fun r => if dueAt c r.val then f load[r] else load[r] := by
  have key : ∀ (l : List Residue) (v : Vector Nat 128), l.Nodup → ∀ (i : Nat) (hi : i < 128),
      (l.foldl (fun v (r : Residue) => if dueAt c r.val then v.set r (f v[r]) else v) v)[i] =
        if (⟨i, hi⟩ : Residue) ∈ l ∧ dueAt c i = true then f v[i] else v[i] := by
    intro l
    induction l with
    | nil => intro v _ i hi; simp
    | cons r l ih =>
      intro v hn i hi
      obtain ⟨hr, hl⟩ := List.nodup_cons.mp hn
      rw [List.foldl_cons, ih _ hl]
      by_cases he : r.val = i
      · subst he
        have hm : (⟨r.val, hi⟩ : Residue) ∉ l := hr
        by_cases hd : dueAt c r.val = true
        · simp [hm, hd]
        · simp [hm, hd]
      · have hne : (⟨i, hi⟩ : Residue) ≠ r := fun h => he (congrArg Fin.val h).symm
        have hv : (if dueAt c r.val then v.set r (f v[r]) else v)[i] = v[i] := by
          split
          · exact Vector.getElem_set_ne _ _ he
          · rfl
        rw [hv]
        simp [hne]
  apply Vector.ext
  intro i hi
  rw [changeLoad, key _ _ (List.nodup_finRange 128) i hi]
  simp

theorem reachDisabled_eq (s : State) (p : PointId) : reachDisabled p s = pointClosed s p := by
  unfold reachDisabled pointClosed leaveScheduler
  dsimp only [State.modPoint, raise]
  cases hk : (s.point p).cfg.kind
  · rfl
  · dsimp only
    rw [changeLoad_eq]
    have : (Vector.ofFn fun r : Residue => if dueAt (s.point p).cfg r.val = true then
        s.fs.load[r] - cost s.sc.params (s.point p).cfg else s.fs.load[r]) =
      Vector.ofFn fun r : Residue => s.fs.load[r] - (if r.val % (s.point p).cfg.period = (s.point p).cfg.phase then
        152 + 10 * (s.point p).cfg.maxPayload.bytes + s.sc.params.replyTimeout else 0) := by
      congr 1
      funext r
      by_cases h : r.val % (s.point p).cfg.period = (s.point p).cfg.phase <;> simp [dueAt, cost, h]
    rw [this]
    rfl

/-! ### Following a queue (R41, R42) -/

/-- The exchange is RETIRING with a status. -/
def retired (s : State) (x : SlotId) (st : Status) : State :=
  s.setSlot x { s.slot x with state := .retiring, status := some st }

theorem retired_slot (s : State) (x : SlotId) (st : Status) :
    (retired s x st).slot x = { s.slot x with state := .retiring, status := some st } := State.slot_setSlot_same ..

theorem endPending_retired (s : State) (x : SlotId) (st : Status) : endPending x (retired s x st) = retired s x st := by
  unfold endPending
  rw [retired_slot]

theorem Waits.endWith_eq {s : State} {p : PointId} {y : SlotId} (h : Waits s p y) (st : Status) :
    endWith y st s = retired s y st := by
  have hb : stagedBuffer (retired s y st) y = none := by
    unfold stagedBuffer
    rw [retired_slot]
    dsimp only
    rw [h.point]
    dsimp only [retired, State.setSlot_point]
    split
    · rename_i b hb
      have := h.unstaged b hb
      simp [stagedFor, State.setSlot_buffer, this]
    · rfl
  unfold endWith freeStaged
  rw [show s.modSlot y _ = retired s y st from rfl, hb]

theorem cancelStatus_eq {s : State} {p : PointId} {y : SlotId} (h : (s.slot y).point = some p) :
    cancelStatus s y = cancelGives s p := by simp [cancelStatus, isClosing, cancelGives, h]

/-- The slot of an exchange is freed whatever its record says. -/
theorem freeSlot_setSlot (s : State) (p : PointId) (y : SlotId) (e : Slot) :
    freeSlot y p (s.setSlot y e) = slotGone s p y ((s.queue p).erase y) := by
  simp [freeSlot, slotGone, State.setSlot, State.setQueue, State.queue]

/-- The record of an exchange that has ended is posted as its slot is freed. -/
theorem freeSlot_postRecord (s : State) (p : PointId) (y : SlotId) (st : Status) :
    freeSlot y p (postRecord y p (retired s y st)) = slotGone (recordPosted s p y st) p y ((s.queue p).erase y) := by
  have h : recordOf (retired s y st) y p =
      { tag := (s.slot y).tag, slot := y, point := p, status := st
        bytesDone := if (s.point p).cfg.direction = .store then (s.slot y).bytesLine else (s.slot y).bytesMemory
        errors := (s.slot y).errors, frame := s.fs.frame } := by
    simp only [recordOf, retired_slot]
    dsimp only [retired, State.setSlot_point, State.setSlot_fs, Option.getD_some]
    cases (s.point p).cfg.direction <;> rfl
  have hr : postRecord y p (retired s y st) =
      (recordPosted s p y st).setSlot y { s.slot y with state := .retiring, status := some st } := by
    unfold postRecord
    rw [h]
    rfl
  rw [hr, freeSlot_setSlot]
  rfl

theorem completionDue_iff (e : Slot) (st : Status) :
    completionDue { e with state := .retiring, status := some st } = true ↔ CompletionIsDue e st := by
  cases st <;> simp [completionDue, Status.alwaysPosted, CompletionIsDue]

theorem canPost_iff (s : State) : canPost s = true ↔ s.cu.held = [] ∧ s.cu.count < 64 := by simp [canPost]

/-- An exchange that has ended is the first of a queue: where its slot is freed, and where it stays. -/
theorem retireFirst_retired {s : State} {p : PointId} {x : SlotId} {rest : List SlotId} (w : Bool) (st : Status)
    (hq : s.queue p = x :: rest) (hh : p ∉ s.cu.held) :
    retireFirst w p x (retired s x st) =
      if (s.slot x).jobs ≠ 0 then (retired s x st, false)
      else if ¬ CompletionIsDue (s.slot x) st then (slotGone s p x rest, true)
      else if s.cu.held = [] ∧ s.cu.count < 64 then (slotGone (recordPosted s p x st) p x rest, true)
      else (joinHeld w p (retired s x st), false) := by
  have he : (s.queue p).erase x = rest := by rw [hq, List.erase_cons_head]
  have hc : canPost (retired s x st) = true ↔ s.cu.held = [] ∧ s.cu.count < 64 := canPost_iff _
  have hh' : p ∉ (retired s x st).cu.held := hh
  have hf : freeSlot x p (retired s x st) = slotGone s p x rest := by rw [retired, freeSlot_setSlot, he]
  unfold retireFirst
  rw [freeSlot_postRecord, he, hf, retired_slot]
  simp only [completionDue_iff, hc, if_neg hh', true_and]
  by_cases hj : (s.slot x).jobs = 0 <;> by_cases hd : CompletionIsDue (s.slot x) st <;> simp [hj, hd]

/-- The point of an exchange that has ended and cannot be posted joins the held list. -/
theorem joinHeld_eq (w : Bool) (p : PointId) (s : State) :
    joinHeld w p s = { s with
      cu := { s.cu with held := s.cu.held ++ [p] }
      eu := if s.cu.held = [] ∧ w = false then s.eu.take s.hw.config .completionBacklog else s.eu } := by
  unfold joinHeld
  dsimp only
  split <;> rfl

theorem slotGone_slot (s : State) (p : PointId) (x : SlotId) (rest : List SlotId) (y : SlotId) :
    (slotGone s p x rest).slot y = if x = y then Slot.free else s.slot y := by
  simp [slotGone, State.slot, Vector.getElem_set, Fin.ext_iff]

theorem slotGone_queue (s : State) (p : PointId) (x : SlotId) (rest : List SlotId) :
    (slotGone s p x rest).queue p = rest := by simp [slotGone, State.queue]

/-- Freeing the slot of one exchange leaves the others waiting. -/
theorem Waits.slotGone {s u : State} {p : PointId} {x y : SlotId} {rest : List SlotId} (h : Waits s p y) (hxy : x ≠ y)
    (hs : u.slot y = s.slot y) (hp : u.point p = s.point p) (hb : ∀ b, u.buffer b = s.buffer b) :
    Waits (slotGone u p x rest) p y where
  queued := by rw [slotGone_slot, if_neg hxy, hs]; exact h.queued
  point := by rw [slotGone_slot, if_neg hxy, hs]; exact h.point
  jobs := by rw [slotGone_slot, if_neg hxy, hs]; exact h.jobs
  unfaulted := by rw [slotGone_slot, if_neg hxy, hs]; exact h.unfaulted
  unstaged b hb' := by
    have : (u.point p).staged = some b := hb'
    rw [hp] at this
    exact fun hc => h.unstaged b this (by rw [← hb]; exact hc)

/-- An exchange that waits becomes first: with cancel_requested it ends (R42). -/
theorem Waits.endPending_eq {s : State} {p : PointId} {y : SlotId} (h : Waits s p y) :
    endPending y s = if (s.slot y).cancelRequested = true then retired s y (cancelGives s p) else s := by
  simp only [endPending, endExchange, h.queued, endStatus, h.unfaulted, cancelStatus_eq h.point, h.endWith_eq]
  by_cases hc : (s.slot y).cancelRequested = true <;> simp [hc]

theorem completionIsDue_cancel (e : Slot) (s : State) (p : PointId) :
    CompletionIsDue e (cancelGives s p) ↔ e.notify = true := by
  unfold CompletionIsDue cancelGives
  split <;> simp

/-- What is left of the others of a queue once a slot is freed. -/
theorem waits_slotGone {s u : State} {p : PointId} {x : SlotId} {rest : List SlotId}
    (hw : ∀ y ∈ rest, Waits s p y ∨ s.slot y = Slot.free) (hs : ∀ y, u.slot y = s.slot y) (hp : u.point p = s.point p)
    (hb : ∀ b, u.buffer b = s.buffer b) :
    ∀ y ∈ rest, Waits (slotGone u p x rest) p y ∨ (slotGone u p x rest).slot y = Slot.free := by
  intro y hy
  by_cases hxy : x = y
  · exact .inr (by rw [slotGone_slot, if_pos hxy])
  · rcases hw y hy with h | h
    · exact .inl (h.slotGone hxy (hs y) hp hb)
    · exact .inr (by rw [slotGone_slot, if_neg hxy, hs, h])

/-- Following a queue of exchanges that wait, from its first on. -/
theorem advance_eq_followed (w : Bool) (p : PointId) (rest : List SlotId) :
    ∀ s : State, s.queue p = rest → p ∉ s.cu.held → (∀ y ∈ rest, Waits s p y ∨ s.slot y = Slot.free) →
      advance w p rest s = followed w p rest s := by
  induction rest with
  | nil =>
    intro s _ _ _
    simp only [advance, closePoint, followed, reachDisabled_eq]
  | cons y rest ih =>
    intro s hq hh hw
    have hrest : ∀ z ∈ rest, Waits s p z ∨ s.slot z = Slot.free := fun z hz => hw z (List.mem_cons_of_mem _ hz)
    rw [advance, followed]
    rcases hw y List.mem_cons_self with hy | hy
    · rw [hy.endPending_eq]
      by_cases hc : (s.slot y).cancelRequested = true
      · have hq' : ¬ ((s.slot y).state ≠ .queued ∨ (s.slot y).cancelRequested = false) := by simp [hy.queued, hc]
        rw [if_pos hc, retireFirst_retired w _ hq hh, if_neg (not_not.mpr hy.jobs)]
        simp only [completionIsDue_cancel]
        rw [if_neg hq']
        by_cases hn : (s.slot y).notify = true
        · rw [if_neg (not_not.mpr hn), if_neg (by simp [hn] : ¬ (s.slot y).notify = false)]
          by_cases hp : s.cu.held = [] ∧ s.cu.count < 64
          · rw [if_pos hp, if_pos hp, if_pos rfl]
            exact ih _ (slotGone_queue ..) hh (waits_slotGone hrest (fun _ => rfl) rfl fun _ => rfl)
          · rw [if_neg hp, if_neg hp, if_neg Bool.false_ne_true, joinHeld_eq]
            rfl
        · rw [if_pos hn, if_pos (by simpa using hn : (s.slot y).notify = false), if_pos rfl]
          exact ih _ (slotGone_queue ..) hh (waits_slotGone hrest (fun _ => rfl) rfl fun _ => rfl)
      · simp [hc, retireFirst, hy.queued]
    · simp [endPending, retireFirst, hy, Slot.free]

/-! ### Ending the first exchange of a queue (R40, R41, R44, R46) -/

/-- An ending exchange takes its status, and its STAGED buffer is freed. -/
theorem Leads.endWith_eq {s : State} {p : PointId} {x : SlotId} {rest : List SlotId} (h : Leads s p x rest) (st : Status) :
    endWith x st s = retired (stagedFreed s x p) x st := by
  unfold endWith
  rw [modSlot_eq, freeStaged_eq (s := s.setSlot x _) (p := p) (by rw [State.slot_setSlot_same]; exact h.point) (fun b hb => h.staged b hb)]
  unfold stagedFreed
  rw [State.setSlot_point]
  split
  · rename_i b hb
    rw [State.setSlot_buffer]
    split
    · simp only [retired, bufferFreed, State.setSlot_point, State.setSlot_buffer, State.slot_setSlot_same,
        State.setPoint_slot]
      simp [State.setSlot, State.setPoint, State.setBuffer]
      rfl
    · rfl
  · rfl

/-- Freeing the STAGED buffer of the first exchange leaves the others waiting. -/
theorem Leads.waits_stagedFreed {s : State} {p : PointId} {x : SlotId} {rest : List SlotId} (h : Leads s p x rest)
    {y : SlotId} (hy : y ∈ rest) : Waits (stagedFreed s x p) p y := by
  obtain ⟨hne, hw⟩ := h.behind y hy
  have hs : (stagedFreed s x p).slot y = s.slot y := by rw [stagedFreed_slot, if_neg (Ne.symm hne)]
  refine ⟨hs ▸ hw.queued, hs ▸ hw.point, hs ▸ hw.jobs, hs ▸ hw.unfaulted, fun b hb => ?_⟩
  obtain ⟨c, hc, hcs⟩ := stagedFreed_point s x p p
  rw [hc] at hb
  rcases hcs with rfl | rfl
  · exact stagedFreed_buffer_slot _ _ _ _ _ (hw.unstaged b hb)
  · cases hb

/-- The exchange that leads a queue ends with a status, and the queue is followed. -/
theorem Leads.advance_endWith {s : State} {p : PointId} {x : SlotId} {rest : List SlotId} (h : Leads s p x rest)
    (st : Status) : advance false p (x :: rest) (endWith x st s) = ended (stagedFreed s x p) p x rest st := by
  rw [h.endWith_eq]
  have hw : ∀ y ∈ rest, Waits (stagedFreed s x p) p y ∨ (stagedFreed s x p).slot y = Slot.free :=
    fun y hy => .inl (h.waits_stagedFreed hy)
  have hq : (stagedFreed s x p).queue p = x :: rest := by rw [stagedFreed_queue]; exact h.queue
  have hh : p ∉ (stagedFreed s x p).cu.held := by rw [stagedFreed_cu]; exact h.notHeld
  generalize stagedFreed s x p = u at hw hq hh
  rw [advance, endPending_retired, retireFirst_retired false st hq hh]
  unfold ended slotFreed
  dsimp only
  by_cases hj : (u.slot x).jobs = 0
  · rw [if_neg (not_not.mpr hj), if_neg (not_not.mpr hj)]
    by_cases hd : CompletionIsDue (u.slot x) st
    · rw [if_neg (not_not.mpr hd), if_neg (not_not.mpr hd)]
      by_cases hp : u.cu.held = [] ∧ u.cu.count < 64
      · rw [if_pos hp, if_pos hp, if_pos rfl]
        exact advance_eq_followed false p rest _ (slotGone_queue ..) hh (waits_slotGone hw (fun _ => rfl) rfl fun _ => rfl)
      · rw [if_neg hp, if_neg hp, if_neg Bool.false_ne_true, joinHeld_eq]
        simp only [and_true]
        rfl
    · rw [if_pos hd, if_pos hd, if_pos rfl]
      exact advance_eq_followed false p rest _ (slotGone_queue ..) hh (waits_slotGone hw (fun _ => rfl) rfl fun _ => rfl)
  · rw [if_pos hj, if_pos hj, if_neg Bool.false_ne_true]
    rfl

theorem Leads.advancePoint_endWith {s : State} {p : PointId} {x : SlotId} {rest : List SlotId} (h : Leads s p x rest)
    (st : Status) : advancePoint p (endWith x st s) = ended (stagedFreed s x p) p x rest st := by
  rw [← h.advance_endWith st, advancePoint, h.endWith_eq, retired, State.setSlot_queue, stagedFreed_queue, h.queue]

/-- jobs_outstanding once the STAGED buffer is freed (R43). -/
theorem Leads.jobsBesidesStaged_eq {s : State} {p : PointId} {x : SlotId} {rest : List SlotId} (h : Leads s p x rest) :
    jobsBesidesStaged s x = ((stagedFreed s x p).slot x).jobs := by
  simp only [jobsBesidesStaged, stagedBuffer, stagedFreed, h.point]
  obtain ⟨o, hs⟩ : ∃ o, (s.point p).staged = o := ⟨_, rfl⟩
  rcases o with _ | b
  · simp [hs]
  · obtain ⟨-, h2⟩ := h.staged b hs
    by_cases hg : (s.buffer b).state = .staged <;> simp [stagedFor, hg, h2, hs, bufferFreed]

/-- A pending mark of an ACTIVE exchange that leads its queue, with no transaction of it in flight. -/
theorem Leads.advancePoint_active {s : State} {p : PointId} {x : SlotId} {rest : List SlotId} (h : Leads s p x rest)
    (ha : (s.slot x).state = .active) (hf : inFlight s x = false) : advancePoint p s = markTaken s p x rest := by
  have hend (st : Status) : (let r := retireFirst false p x (endWith x st s); if r.2 then advance false p rest r.1 else r.1) =
      ended (stagedFreed s x p) p x rest st := by
    rw [← h.advance_endWith st, advance, h.endWith_eq, endPending_retired]
  have hp : endPending x s = if (s.slot x).faultMark = true then endWith x .moverFault s
      else if (s.slot x).cancelRequested = true ∧ ((stagedFreed s x p).slot x).jobs = 0 then
        endWith x (cancelGives s p) s else s := by
    simp only [endPending, endExchange, ha, hf, h.jobsBesidesStaged_eq, endStatus, cancelStatus_eq h.point]
    by_cases hm : (s.slot x).faultMark = true <;>
      by_cases hc : (s.slot x).cancelRequested = true ∧ ((stagedFreed s x p).slot x).jobs = 0 <;> simp [hm, hc]
  unfold advancePoint markTaken
  rw [h.queue, advance, hp]
  dsimp only
  split
  · exact hend _
  · split
    · exact hend _
    · simp [retireFirst, ha]

/-- An ending cause reaches the first exchange of a point (R48, R49). -/
theorem endActive_eq {s : State} {p : PointId} (c : Status)
    (h : ∀ x rest, s.queue p = x :: rest → (s.slot x).state = .active → Leads s p x rest) :
    endActive c p s = activeEnds c s p := by
  unfold endActive activeEnds State.first
  cases hq : s.queue p with
  | nil => rfl
  | cons x rest =>
    dsimp only [List.head?_cons]
    split
    · rename_i ha
      have hl := h x rest hq ha
      rw [← hl.advancePoint_endWith]
      simp [endExchange, ha, endStatus, statusBy, cancelStatus_eq hl.point]
    · rfl

theorem haltPoint_eq (c : HaltCause) (p : PointId) (s : State) : haltPoint c p s = pointHalted s p c := by
  unfold haltPoint pointHalted
  cases h : (s.point p).state <;> rfl

/-- What taking the halt requests does (R112 to R115). -/
theorem takeHaltRequests_eq (s : State) : takeHaltRequests s = haltTaken s := by
  unfold takeHaltRequests haltTaken
  cases hr : s.eu.haltRequest with
  | false => simp
  | true =>
    cases hs : s.sc.state <;> cases ht : s.le.txn <;>
      simp [haltRequest, hs, ht, enterHalting, emptyDue, txnInFlight, enterHalted, raise]

end Sys2Proof.Machine
end

