-- ==== Sys2Proof/Laws/Events.lean ====
section
/-! SUPPORT. What the event unit does to its own fields: taking an occurrence, evaluating the lines and acknowledging; and
the lines after each. -/

namespace Sys2Proof.Machine

/-! ### Taking an occurrence (R166 to R171) -/

@[simp] theorem evaluateLines_presented (e : EventUnit) (c : HostConfig) : (e.evaluateLines c).presented = e.presented := rfl
@[simp] theorem evaluateLines_gathered (e : EventUnit) (c : HostConfig) : (e.evaluateLines c).gathered = e.gathered := rfl
@[simp] theorem evaluateLines_haltRequest (e : EventUnit) (c : HostConfig) :
    (e.evaluateLines c).haltRequest = e.haltRequest := rfl
@[simp] theorem redriveLines_presented (e : EventUnit) (c : HostConfig) : (e.redriveLines c).presented = e.presented := rfl
@[simp] theorem redriveLines_gathered (e : EventUnit) (c : HostConfig) : (e.redriveLines c).gathered = e.gathered := rfl

/-- The set of one cause is never empty. -/
theorem Cause.bit_ne_zero (c : Cause) : c.bit ≠ 0 := by cases c <;> decide

theorem present_frame (e : EventUnit) (cfg : HostConfig) (c : Cause) :
    (e.present cfg c).haltRequest = e.haltRequest ∧ (e.present cfg c).haltEnable = e.haltEnable ∧
      (e.present cfg c).reportEnable = e.reportEnable ∧ (e.present cfg c).route = e.route := by
  unfold EventUnit.present
  split <;> exact ⟨rfl, rfl, rfl, rfl⟩

@[simp] theorem take_haltEnable (e : EventUnit) (cfg : HostConfig) (c : Cause) :
    (e.take cfg c).haltEnable = e.haltEnable := by
  unfold EventUnit.take
  split
  · dsimp only
    split <;> exact (present_frame e cfg c).2.1
  · rfl

@[simp] theorem take_reportEnable (e : EventUnit) (cfg : HostConfig) (c : Cause) :
    (e.take cfg c).reportEnable = e.reportEnable := by
  unfold EventUnit.take
  split
  · dsimp only
    split <;> exact (present_frame e cfg c).2.2.1
  · rfl

@[simp] theorem take_route (e : EventUnit) (cfg : HostConfig) (c : Cause) : (e.take cfg c).route = e.route := by
  unfold EventUnit.take
  split
  · dsimp only
    split <;> exact (present_frame e cfg c).2.2.2
  · rfl

/-- An occurrence that is not halting leaves no halt request of its own (R171). -/
theorem take_haltRequest_of_not (e : EventUnit) (cfg : HostConfig) (c : Cause) (h : e.halting c = false) :
    (e.take cfg c).haltRequest = e.haltRequest := by
  unfold EventUnit.take
  simp only [h]
  split
  · exact (present_frame e cfg c).1
  · rfl

/-- A halting occurrence leaves a halt request (R171). -/
theorem take_haltRequest_of_halting (e : EventUnit) (cfg : HostConfig) (c : Cause) (h : e.halting c = true) :
    (e.take cfg c).haltRequest = true := by
  unfold EventUnit.take
  have he : e.effective c = true := by simp [EventUnit.effective, h]
  simp [he, h]

/-- Whether an occurrence is halting depends on the halt enables alone (R166). -/
theorem halting_congr {e f : EventUnit} (h : f.haltEnable = e.haltEnable) (c : Cause) : f.halting c = e.halting c := by
  unfold EventUnit.halting
  cases c.haltClass <;> simp [inSet, h]

/-! ### The lines (R175 to R177) -/

/-- With nothing presented no line is due (R175). -/
theorem lineDue_of_empty {e : EventUnit} (h : e.presented = 0) (cfg : HostConfig) (l : IntLine) :
    e.lineDue cfg l = false := by
  cases l <;> simp [EventUnit.lineDue, EventUnit.presentedOn, h]

/-- Whether a line is due depends on the presented set and the routes alone. -/
theorem lineDue_congr {e f : EventUnit} (h : f.presented = e.presented) (k : f.route = e.route) (cfg : HostConfig)
    (l : IntLine) : f.lineDue cfg l = e.lineDue cfg l := by
  cases e
  cases f
  simp only at h k
  subst h k
  cases l <;> rfl

theorem evaluate_eq_asserted {d : Bool} {i : IrqState} : i.evaluate d = .asserted ↔ d = true ∧ i ≠ .interval := by
  cases i <;> cases d <;> simp [IrqState.evaluate]

theorem acknowledge_eq_asserted {d : Bool} {i : IrqState} : i.acknowledge d = .asserted ↔ d = true ∧ i = .released := by
  cases i <;> cases d <;> simp [IrqState.acknowledge]

theorem evaluate_due (i : IrqState) : i.evaluate true = .asserted ∨ i.evaluate true = .interval := by
  cases i <;> simp [IrqState.evaluate]

theorem acknowledge_due (i : IrqState) : i.acknowledge true = .asserted ∨ i.acknowledge true = .interval := by
  cases i <;> simp [IrqState.acknowledge]

end Sys2Proof.Machine
end

