-- ==== Sys2Proof/Laws/Operands.lean ====
section
/-! SUPPORT. What the operands of a command are, by the bits of the parameter words. -/

namespace Sys2Proof.Machine

/-- The point id of PARAM0 bits 7-0 (R190). -/
theorem pointOperand_eq {s : State} {p : PointId} (h : (s.param 0).toNat % 256 = p.val) : pointOperand s = some p := by
  have hp := p.isLt
  simp only [pointOperand, field, Nat.pow_zero, Nat.div_one]
  rw [dif_pos (by omega)]
  congr 1
  exact Fin.ext h

/-- An id over 63 names no point (R5). -/
theorem pointOperand_none {s : State} (h : 63 < (s.param 0).toNat % 256) : pointOperand s = none := by
  simp only [pointOperand, field, Nat.pow_zero, Nat.div_one]
  rw [dif_neg (by omega)]

/-- The slot number of PARAM0 bits 15-0 (R191). -/
theorem slotOperand_eq {s : State} {x : SlotId} (h : (s.param 0).toNat % 65536 = x.val) : slotOperand s = some x := by
  have hx := x.isLt
  simp only [slotOperand, field, Nat.pow_zero, Nat.div_one]
  rw [dif_pos (by omega)]
  congr 1
  exact Fin.ext h

/-- A number over 255 names no slot (R43, R50). -/
theorem slotOperand_none {s : State} (h : 255 < (s.param 0).toNat % 65536) : slotOperand s = none := by
  simp only [slotOperand, field, Nat.pow_zero, Nat.div_one]
  rw [dif_neg (by omega)]

/-- The residue of PARAM0 bits 7-0 (R193). -/
theorem residueOperand_eq {s : State} {r : Residue} (h : (s.param 0).toNat % 256 = r.val) : residueOperand s = some r := by
  have hr := r.isLt
  simp only [residueOperand, field, Nat.pow_zero, Nat.div_one]
  rw [dif_pos (by omega)]
  congr 1
  exact Fin.ext h

/-- A residue over 127 names no entry (R65). -/
theorem residueOperand_none {s : State} (h : 127 < (s.param 0).toNat % 256) : residueOperand s = none := by
  simp only [residueOperand, field, Nat.pow_zero, Nat.div_one]
  rw [dif_neg (by omega)]

/-- The station of PARAM0 bits 7-0 (R194). -/
theorem stationOperand_eq {s : State} {i : StationId} (h : (s.param 0).toNat % 256 = stationAddress i) :
    stationOperand s = some i := by
  have hi := i.isLt
  simp only [stationAddress] at h
  simp only [stationOperand, stationOfAddress?, field, Nat.pow_zero, Nat.div_one]
  rw [dif_pos (by omega)]
  congr 1
  exact Fin.ext (by simp only; omega)

/-- An address outside 1 to 30 names no station (R128). -/
theorem stationOperand_none {s : State} (h : ¬ (1 ≤ (s.param 0).toNat % 256 ∧ (s.param 0).toNat % 256 ≤ 30)) :
    stationOperand s = none := by
  simp only [stationOperand, stationOfAddress?, field, Nat.pow_zero, Nat.div_one]
  rw [dif_neg (by simpa using h)]

/-- A point command with a good id, taken by the window: its rule's effect, then its result (R5, R188). -/
theorem command_onPoint {s : State} {p : PointId} (code : BitVec 8) (f : PointId → State → State × Reply)
    (hd : deaf s = false) (hp : (s.param 0).toNat % 256 = p.val) :
    command code (onPoint f) s = .next (writeResult code (f p s).2 (f p s).1) := by
  rw [command_eq _ _ _ hd]
  simp only [onPoint, pointOperand_eq hp]

/-- A point command with a bad id, taken by the window (R5). -/
theorem command_onPoint_none {s : State} (code : BitVec 8) (f : PointId → State → State × Reply)
    (hd : deaf s = false) (hp : 63 < (s.param 0).toNat % 256) :
    command code (onPoint f) s = .next { s with hw := answeredWindow s.hw code 0x11 0 0 0 } := by
  rw [command_eq _ _ _ hd]
  simp only [onPoint, pointOperand_none hp, refuse]
  rw [writeResult_eq _ _ (by decide)]
  rfl

/-- A refusal writes its code with zeros and changes nothing else (R189). -/
theorem writeResult_refusal (code : BitVec 8) (c : ResultCode) (s : State) :
    writeResult code (Reply.refusal c) s = { s with hw := answeredWindow s.hw code c.code 0 0 0 } := by
  rw [writeResult_eq _ _ (by simp [Reply.refusal])]
  rfl

/-- A plain result. -/
theorem writeResult_plain (code : BitVec 8) (c : ResultCode) (s : State) :
    writeResult code (Reply.plain c) s = { s with hw := answeredWindow s.hw code c.code 0 0 0 } := by
  rw [writeResult_eq _ _ (by simp [Reply.plain])]
  rfl

end Sys2Proof.Machine
end

