-- ==== Sys2Proof/Laws/Service.lean ====
section
/-! SUPPORT. What the end of a happening does: staging is as `StagingOnly` says it, the choice as `ChoiceOnly`, and one
after the other as `ServiceOnly`. Proofs about a command cite these in place of unfolding `settle` and `choose`. -/

namespace Sys2Proof.Machine

/-! ### The lists of staging -/

theorem needsStaging_iff (s : State) (p : PointId) : needsStaging s p = true ↔ NeedsStaging s p := by
  unfold needsStaging NeedsStaging
  cases hf : s.first p with
  | none => simp
  | some x =>
    by_cases h0 : (s.slot x).length = 0
    · simp [stagingRemaining, h0, and_assoc]
    · simp [stagingRemaining, h0, and_assoc]

theorem updatedWaitList_eq (s : State) : updatedWaitList s = waitOrder s := by
  have h : ∀ p, needsStaging s p = decide (NeedsStaging s p) := fun p => by
    rw [Bool.eq_iff_iff, needsStaging_iff, decide_eq_true_iff]
  simp only [updatedWaitList, waitOrder, h]

theorem mem_waitOrder {s : State} {p : PointId} (h : p ∈ waitOrder s) : NeedsStaging s p := by
  simp only [waitOrder, List.mem_append, List.mem_filter, Bool.and_eq_true, decide_eq_true_iff] at h
  rcases h with h | h
  · exact h.2
  · exact h.2.1

theorem waitOrder_nodup {s : State} (h : s.bp.waitList.Nodup) : (waitOrder s).Nodup := by
  refine List.nodup_append.mpr ⟨h.filter _, (List.nodup_finRange 64).filter _, ?_⟩
  intro a ha b hb hab
  subst hab
  simp only [List.mem_filter, Bool.and_eq_true, decide_eq_true_iff] at ha hb
  exact hb.2.2 ha.1

theorem lowestFree_eq (s : State) : lowestFree s = (freeBuffers s).head? := by
  simp [lowestFree, freeBuffers, List.head?_filter]

theorem freeBuffers_nodup (s : State) : (freeBuffers s).Nodup := (List.nodup_finRange 8).filter _

theorem mem_freeBuffers {s : State} {b : BufId} : b ∈ freeBuffers s ↔ (s.buffer b).state = .free := by
  simp [freeBuffers]

theorem stagingCount_eq (s : State) : stagingCount s =
    (List.finRange 8).countP fun b => decide ((s.buffer b).state = .staging ∨ (s.buffer b).state = .staged) := by
  simp only [stagingCount, List.countP_eq_length_filter, Bool.decide_or]

/-- One member more of a list without repeats counts. -/
theorem countP_one_more {α : Type} {l : List α} {a : α} {f g : α → Bool} (hn : l.Nodup) (ha : a ∈ l)
    (hfg : ∀ c, c ≠ a → g c = f c) (hf : f a = false) (hg : g a = true) : l.countP g = l.countP f + 1 := by
  induction l with
  | nil => cases ha
  | cons c l ih =>
    rw [List.nodup_cons] at hn
    rcases List.mem_cons.mp ha with rfl | ha
    · have : l.countP g = l.countP f := List.countP_congr fun b hb => by
        rw [hfg b (fun e => hn.1 (e ▸ hb))]
      simp [hf, hg, this]
    · have hca : c ≠ a := fun e => hn.1 (e ▸ ha)
      simp only [List.countP_cons, ih hn.2 ha, hfg c hca]
      omega

/-! ### One grant -/

section

variable (p : PointId) (b : BufId) (x : SlotId) (s : State)

theorem grant_queue (q : PointId) : (grant p b x s).queue q = s.queue q := by rw [grant_blocks]; rfl

theorem grant_first (q : PointId) : (grant p b x s).first q = s.first q := by rw [grant_blocks]; rfl

theorem grant_point (q : PointId) :
    (grant p b x s).point q = if q = p then { s.point p with staged := some b } else s.point q := by
  have h : (grant p b x s).point q = ((s.modSlot x fun e => { e with jobs := e.jobs + 1, state := .active }).modPoint p
      fun q => { q with staged := some b }).point q := by
    unfold grant
    dsimp only
    split <;> rfl
  rw [h]
  by_cases hq : q = p
  · subst hq; simp [modPoint_eq, modSlot_eq]
  · simp [modPoint_eq, modSlot_eq, State.point_setPoint_other _ (Ne.symm hq), hq]

theorem grant_slot (y : SlotId) :
    (grant p b x s).slot y =
      if y = x then { s.slot x with state := .active, jobs := (s.slot x).jobs + 1 } else s.slot y := by
  have h : (grant p b x s).slot y =
      (s.modSlot x fun e => { e with jobs := e.jobs + 1, state := .active }).slot y := by
    unfold grant
    dsimp only
    split <;> rfl
  rw [h]
  by_cases hy : y = x
  · subst hy; simp [modSlot_eq]
  · simp [modSlot_eq, State.slot_setSlot_other _ (Ne.symm hy), hy]

theorem grant_buffer (c : BufId) :
    (grant p b x s).buffer c = if c = b then grantedBuffer s p x b else s.buffer c := by
  have h : (grant p b x s).buffer c = (s.modBuffer b fun _ => grantedBuffer s p x b).buffer c := by
    unfold grant grantedBuffer packetSize
    dsimp only
    split <;> rfl
  rw [h]
  by_cases hc : c = b
  · subst hc; simp [modBuffer_eq]
  · simp [modBuffer_eq, State.buffer_setBuffer_other _ (Ne.symm hc), hc]

theorem grant_waitList : (grant p b x s).bp.waitList = s.bp.waitList.erase p := by
  unfold grant
  dsimp only
  split <;> rfl

theorem grantedBuffer_state :
    (grantedBuffer s p x b).state = .staging ∨ (grantedBuffer s p x b).state = .staged := by
  simp only [grantedBuffer]
  split
  · exact .inr rfl
  · exact .inl rfl

theorem grant_pm : (grant p b x s).pm = { s.pm with
    stageQueue := s.pm.stageQueue ++ [b].filter fun c => decide ((grantedBuffer s p x c).state = .staging) } := by
  unfold grant grantedBuffer packetSize
  dsimp only
  split <;> next h => simp [h, modBuffer_eq, modPoint_eq, modSlot_eq]

theorem grant_freeBuffers {rest : List BufId} (h : freeBuffers s = b :: rest) :
    freeBuffers (grant p b x s) = rest := by
  have h1 : freeBuffers (grant p b x s) = (freeBuffers s).filter fun c => decide (c ≠ b) := by
    simp only [freeBuffers, List.filter_filter]
    refine List.filter_congr fun c _ => ?_
    rw [grant_buffer]
    by_cases hc : c = b
    · subst hc
      rcases grantedBuffer_state p c x s with h | h <;> simp [h]
    · simp [hc]
  have hn := freeBuffers_nodup s
  rw [h] at hn
  rw [h1, h, List.filter_cons_of_neg (by simp)]
  refine List.filter_eq_self.mpr fun c hc => ?_
  simpa using fun e : c = b => (List.nodup_cons.mp hn).1 (e ▸ hc)

theorem grant_stagingCount (h : (s.buffer b).state = .free) : stagingCount (grant p b x s) = stagingCount s + 1 := by
  rw [stagingCount_eq, stagingCount_eq]
  refine countP_one_more (List.nodup_finRange 8) (List.mem_finRange b) (fun c hc => ?_) (by simp [h]) ?_
  · rw [grant_buffer, if_neg hc]
  · rw [grant_buffer, if_pos rfl]
    exact decide_eq_true (grantedBuffer_state p b x s)

end

/-! ### The grants in any state -/

/-- What the grants have done when they stand at `t`, for points that need staging in `s`. -/
structure GrantsSoFar (s t : State) : Prop where
  blocks : t = { s with pt := t.pt, sp := { s.sp with slots := t.sp.slots }, bp := t.bp, pm := t.pm }
  points : ∀ p, t.point p = s.point p ∨
    NeedsStaging s p ∧ ∃ b, t.point p = { s.point p with staged := some b } ∧ (s.buffer b).state = .free
  slots : ∀ x, t.slot x = s.slot x ∨
    ∃ p n, NeedsStaging s p ∧ s.first p = some x ∧ 0 < n ∧
      t.slot x = { s.slot x with state := .active, jobs := (s.slot x).jobs + n }
  buffers : ∀ b, t.buffer b = s.buffer b ∨
    (s.buffer b).state = .free ∧ ∃ p x, NeedsStaging s p ∧ s.first p = some x ∧ t.buffer b = grantedBuffer s p x b
  mover : ∃ more, (∀ b ∈ more, (s.buffer b).state = .free ∧ (t.buffer b).state = .staging) ∧
    t.pm = { s.pm with stageQueue := s.pm.stageQueue ++ more }

/-- The configuration and the exchange data that a grant weighs are as they were. -/
theorem GrantsSoFar.grantedBuffer_eq {s t : State} (h : GrantsSoFar s t) (p : PointId) (x : SlotId) (b : BufId)
    (hb : t.buffer b = s.buffer b) : grantedBuffer t p x b = grantedBuffer s p x b := by
  have hp : (t.point p).cfg = (s.point p).cfg := by
    rcases h.points p with e | ⟨_, c, e, _⟩ <;> rw [e]
  have hx : (t.slot x).length = (s.slot x).length ∧ (t.slot x).bytesMemory = (s.slot x).bytesMemory ∧
      (t.slot x).hostAddr = (s.slot x).hostAddr := by
    rcases h.slots x with e | ⟨_, _, _, _, _, e⟩ <;> rw [e] <;> exact ⟨rfl, rfl, rfl⟩
  simp only [grantedBuffer, hp, hx.1, hx.2.1, hx.2.2, hb]

theorem GrantsSoFar.grant {s t : State} (h : GrantsSoFar s t) {p : PointId} {b : BufId} {x : SlotId}
    (hp : NeedsStaging s p) (hx : s.first p = some x) (hb : (t.buffer b).state = .free) :
    GrantsSoFar s (grant p b x t) := by
  have hbs : t.buffer b = s.buffer b ∧ (s.buffer b).state = .free := by
    rcases h.buffers b with e | ⟨_, q, y, _, _, e⟩
    · exact ⟨e, e ▸ hb⟩
    · rw [e] at hb
      rcases grantedBuffer_state q b y s with k | k <;> rw [k] at hb <;> cases hb
  refine ⟨?_, fun q => ?_, fun y => ?_, fun c => ?_, ?_⟩
  · have h1 := h.blocks
    rw [grant_blocks]
    rw [h1]
  · rw [grant_point]
    split
    · next e =>
      subst e
      refine .inr ⟨hp, b, ?_, hbs.2⟩
      rcases h.points q with k | ⟨_, c, k, _⟩ <;> rw [k]
    · exact h.points q
  · rw [grant_slot]
    split
    · next e =>
      subst e
      rcases h.slots y with k | ⟨q, n, hq, hy, hn, k⟩
      · exact .inr ⟨p, 1, hp, hx, by omega, by rw [k]⟩
      · exact .inr ⟨q, n + 1, hq, hy, by omega, by rw [k]; rfl⟩
    · exact h.slots y
  · rw [grant_buffer]
    split
    · next e =>
      subst e
      exact .inr ⟨hbs.2, p, x, hp, hx, h.grantedBuffer_eq p x c hbs.1⟩
    · exact h.buffers c
  · obtain ⟨more, hm, e⟩ := h.mover
    refine ⟨more ++ [b].filter fun c => decide ((grantedBuffer t p x c).state = .staging), fun c hc => ?_, ?_⟩
    · rw [grant_buffer]
      rcases List.mem_append.mp hc with hc | hc
      · obtain ⟨h1, h2⟩ := hm c hc
        rw [if_neg (fun k => by subst k; rw [hb] at h2; cases h2)]
        exact ⟨h1, h2⟩
      · simp only [List.mem_filter, List.mem_singleton, decide_eq_true_iff] at hc
        obtain ⟨rfl, h2⟩ := hc
        rw [if_pos rfl]
        exact ⟨hbs.2, h2⟩
    · rw [grant_pm, e]
      simp

theorem grants_soFar (ps : List PointId) {s t : State} (h : GrantsSoFar s t) (hps : ∀ p ∈ ps, NeedsStaging s p) :
    GrantsSoFar s (grants ps t) ∧ (grants ps t).bp.waitList.Sublist t.bp.waitList := by
  induction ps generalizing t with
  | nil => exact ⟨h, .refl _⟩
  | cons p ps ih =>
    unfold grants
    split
    · split
      · next b x hb hx =>
        have hbf : (t.buffer b).state = .free := by
          rw [lowestFree_eq] at hb
          exact mem_freeBuffers.mp (List.mem_of_mem_head? hb)
        have hx' : s.first p = some x := by
          rw [← hx]
          conv_rhs => rw [h.blocks]
          rfl
        have hg := h.grant (hps p (by simp)) hx' hbf
        obtain ⟨k1, k2⟩ := ih hg fun q hq => hps q (by simp [hq])
        refine ⟨k1, k2.trans ?_⟩
        rw [grant_waitList]
        exact List.erase_sublist
      · exact ⟨h, .refl _⟩
    · exact ⟨h, .refl _⟩

/-! ### The grants exactly -/

/-- How many grants the loop makes of the points `ps`. -/
def grantsMade (s : State) (ps : List PointId) : Nat :=
  min ps.length (min (freeBuffers s).length (6 - stagingCount s))

/-- The loop over a list of points: without repeats, with distinct first exchanges, and the wait list at it. -/
theorem grants_exact (ps : List PointId) (s : State) (hw : s.bp.waitList = ps) (hn : ps.Nodup)
    (hf : ∀ p ∈ ps, ∃ x, s.first p = some x)
    (hd : ∀ p ∈ ps, ∀ q ∈ ps, ∀ x, s.first p = some x → s.first q = some x → p = q) :
    let n := grantsMade s ps
    let t := grants ps s
    t.bp.waitList = ps.drop n ∧
      (∀ p b, (p, b) ∈ (ps.zip (freeBuffers s)).take n →
        ∃ x, s.first p = some x ∧ t.point p = { s.point p with staged := some b } ∧
          t.slot x = { s.slot x with state := .active, jobs := (s.slot x).jobs + 1 } ∧
          t.buffer b = grantedBuffer s p x b) ∧
      (∀ p, p ∉ ps.take n → t.point p = s.point p) ∧
      (∀ b, b ∉ (freeBuffers s).take n → t.buffer b = s.buffer b) ∧
      (∀ x, (∀ p ∈ ps.take n, s.first p ≠ some x) → t.slot x = s.slot x) ∧
      t.pm = { s.pm with stageQueue := s.pm.stageQueue ++
        ((freeBuffers s).take n).filter fun b => decide ((t.buffer b).state = .staging) } := by
  induction ps generalizing s with
  | nil => simp [grants, grantsMade, hw]
  | cons p ps ih =>
    by_cases hg : stagingCount s < 6 ∧ freeBuffers s ≠ []
    · obtain ⟨hc, hb⟩ := hg
      obtain ⟨b, rest, hfb⟩ : ∃ b rest, freeBuffers s = b :: rest := by
        cases h : freeBuffers s with
        | nil => exact absurd h hb
        | cons b rest => exact ⟨b, rest, rfl⟩
      obtain ⟨x, hx⟩ := hf p (by simp)
      have hbf : (s.buffer b).state = .free := mem_freeBuffers.mp (by simp [hfb])
      have hbr : b ∉ rest := (List.nodup_cons.mp (hfb ▸ freeBuffers_nodup s)).1
      obtain ⟨hpn, hn'⟩ := List.nodup_cons.mp hn
      have hstep : grants (p :: ps) s = grants ps (grant p b x s) := by
        conv_lhs => unfold grants
        simp [hc, lowestFree_eq, hfb, hx]
      have hfree := grant_freeBuffers p b x s hfb
      have hcount := grant_stagingCount p b x s hbf
      have hmade : grantsMade s (p :: ps) = grantsMade (grant p b x s) ps + 1 := by
        simp only [grantsMade, hfree, hcount, hfb, List.length_cons]
        omega
      have hxs : ∀ q ∈ ps, ∀ y, s.first q = some y → y ≠ x := fun q hq y hy e => by
        subst e
        exact hpn (hd p (by simp) q (by simp [hq]) y hx hy ▸ hq)
      obtain ⟨i1, i2, i3, i4, i5, i6⟩ := ih (grant p b x s) (by rw [grant_waitList, hw]; simp) hn'
        (fun q hq => by rw [grant_first]; exact hf q (by simp [hq]))
        (fun q hq r hr y h1 h2 => by
          rw [grant_first] at h1 h2
          exact hd q (by simp [hq]) r (by simp [hr]) y h1 h2)
      simp only [hstep, hmade, hfb, List.drop_succ_cons, List.take_succ_cons, List.zip_cons_cons]
      rw [hfree] at i2 i4 i6
      generalize hN : grantsMade (grant p b x s) ps = N at *
      generalize hT : grants ps (grant p b x s) = T at *
      have hpN : p ∉ ps.take N := fun h => hpn (List.mem_of_mem_take h)
      have hbN : b ∉ rest.take N := fun h => hbr (List.mem_of_mem_take h)
      refine ⟨i1, fun q c hqc => ?_, fun q hq => ?_, fun c hc' => ?_, fun y hy => ?_, ?_⟩
      · rcases List.mem_cons.mp hqc with e | hqc
        · cases e
          refine ⟨x, hx, ?_, ?_, ?_⟩
          · rw [i3 p hpN, grant_point, if_pos rfl]
          · rw [i5 x fun q hq => ?_, grant_slot, if_pos rfl]
            rw [grant_first]
            exact fun e => hxs q (List.mem_of_mem_take hq) x e rfl
          · rw [i4 b hbN, grant_buffer, if_pos rfl]
        · obtain ⟨y, h1, h2, h3, h4⟩ := i2 q c hqc
          obtain ⟨hq, hc'⟩ := List.of_mem_zip (List.mem_of_mem_take hqc)
          rw [grant_first] at h1
          have hqp : q ≠ p := fun e => hpn (e ▸ hq)
          have hyx : y ≠ x := hxs q hq y h1
          have hcb : c ≠ b := fun e => hbr (e ▸ hc')
          refine ⟨y, h1, ?_, ?_, ?_⟩
          · rw [h2, grant_point, if_neg hqp]
          · rw [h3, grant_slot, if_neg hyx]
          · rw [h4]
            simp only [grantedBuffer, grant_point, grant_slot, grant_buffer, if_neg hqp, if_neg hyx, if_neg hcb]
      · simp only [List.mem_cons, not_or] at hq
        rw [i3 q hq.2, grant_point, if_neg hq.1]
      · simp only [List.mem_cons, not_or] at hc'
        rw [i4 c hc'.2, grant_buffer, if_neg hc'.1]
      · have h1 : y ≠ x := fun e => hy p (by simp) (e ▸ hx)
        rw [i5 y fun q hq => by rw [grant_first]; exact hy q (by simp [hq]), grant_slot, if_neg h1]
      · rw [i6, grant_pm]
        have hTb : (T.buffer b).state = (grantedBuffer s p x b).state := by
          rw [i4 b hbN, grant_buffer, if_pos rfl]
        by_cases hst : (grantedBuffer s p x b).state = .staging
        · rw [List.filter_cons_of_pos (by simp [hst]), List.filter_cons_of_pos (by simp [hTb, hst])]
          simp
        · rw [List.filter_cons_of_neg (by simp [hst]), List.filter_cons_of_neg (by simp [hTb, hst])]
          simp
    · have hm : grantsMade s (p :: ps) = 0 := by
        by_cases hc : stagingCount s < 6
        · have : freeBuffers s = [] := by simpa [hc] using hg
          simp [grantsMade, this]
        · simp only [grantsMade]
          omega
      have hstep : grants (p :: ps) s = s := by
        unfold grants
        split
        · next hc =>
          have hb : freeBuffers s = [] := by simpa [hc] using hg
          simp [lowestFree_eq, hb]
        · rfl
      simp [hstep, hm, hw]

/-! ### The job taken -/

theorem chooseBurst_chosen (m : Nat) (a : Word) (r : Nat) : BurstChosen m a r (chooseBurst m a r) := by
  unfold BurstChosen chooseBurst
  dsimp only
  by_cases h0 : a.toNat % 4 = 0
  · rw [if_neg (by simpa using h0)]
    by_cases h16 : 16 ≤ m ∧ a.toNat % (4 * 16) = 0 ∧ 4 * 16 ≤ r
    · rw [List.find?_cons_of_pos (by simpa using h16)]
      refine ⟨rfl, fun h => absurd h0 h, fun n hn hf hb => ?_, fun _ h => absurd h16 (h 16 (by simp))⟩
      simp only [List.mem_cons, List.not_mem_nil, or_false] at hn
      rcases hn with rfl | rfl | rfl
      · exact ⟨rfl, rfl⟩
      · exact absurd h16 (hb 16 (by simp) (by omega))
      · exact absurd h16 (hb 16 (by simp) (by omega))
    · rw [List.find?_cons_of_neg (by simpa using h16)]
      by_cases h8 : 8 ≤ m ∧ a.toNat % (4 * 8) = 0 ∧ 4 * 8 ≤ r
      · rw [List.find?_cons_of_pos (by simpa using h8)]
        refine ⟨rfl, fun h => absurd h0 h, fun n hn hf hb => ?_, fun _ h => absurd h8 (h 8 (by simp))⟩
        simp only [List.mem_cons, List.not_mem_nil, or_false] at hn
        rcases hn with rfl | rfl | rfl
        · exact absurd hf h16
        · exact ⟨rfl, rfl⟩
        · exact absurd h8 (hb 8 (by simp) (by omega))
      · rw [List.find?_cons_of_neg (by simpa using h8)]
        by_cases h4 : 4 ≤ m ∧ a.toNat % (4 * 4) = 0 ∧ 4 * 4 ≤ r
        · rw [List.find?_cons_of_pos (by simpa using h4)]
          refine ⟨rfl, fun h => absurd h0 h, fun n hn hf hb => ?_, fun _ h => absurd h4 (h 4 (by simp))⟩
          simp only [List.mem_cons, List.not_mem_nil, or_false] at hn
          rcases hn with rfl | rfl | rfl
          · exact absurd hf h16
          · exact absurd hf h8
          · exact ⟨rfl, rfl⟩
        · rw [List.find?_cons_of_neg (by simpa using h4), List.find?_nil]
          refine ⟨rfl, fun h => absurd h0 h, fun n hn hf hb => ?_, fun _ _ => ⟨rfl, rfl⟩⟩
          simp only [List.mem_cons, List.not_mem_nil, or_false] at hn
          rcases hn with rfl | rfl | rfl
          · exact absurd hf h16
          · exact absurd hf h8
          · exact absurd hf h4
  · rw [if_pos h0]
    refine ⟨rfl, fun _ => ⟨rfl, rfl⟩, fun n hn hf _ => ?_, fun h => absurd h h0⟩
    obtain ⟨_, hf, _⟩ := hf
    simp only [List.mem_cons, List.not_mem_nil, or_false] at hn
    rcases hn with rfl | rfl | rfl <;> omega

/-- A job started from a buffer is as `JobTaken` says, over the mover with its queues changed. -/
theorem startJob_taken (k : JobKind) (b : BufId) (s : State) (m : Mover) (drains stages : List BufId)
    (h : s.pm = { m with drainQueue := drains, stageQueue := stages }) :
    JobTaken m s.hw.config.maxWords k b (s.buffer b) drains stages (startJob k b s).pm := by
  refine ⟨{ kind := k, buffer := b, slot := (s.buffer b).slot.getD 0, nextAddr := (s.buffer b).addr.getD 0
            remaining := (s.buffer b).count, moved := 0, retries := 0 }, _, ?_, rfl, rfl, rfl, rfl, rfl, ?_, ?_,
    chooseBurst_chosen _ _ _⟩
  · simp only [startJob, h]
  · intro x hx; simp [hx]
  · intro a ha; simp [ha]

theorem takeJob_served {s t : State} (stages : List BufId) (hpm : t.pm = { s.pm with stageQueue := stages })
    (hw : t.hw = s.hw) : MoverServed s (takeJob t) stages := by
  have hb : ∀ b, (takeJob t).buffer b = t.buffer b := fun b => by rw [takeJob_blocks]; rfl
  refine ⟨fun h => ?_, fun b rest hi hd => ?_, fun b rest hi hd hs => ?_⟩
  · have e : takeJob t = t := by
      unfold takeJob
      rw [hpm]
      rcases h with h | ⟨h1, h2⟩
      · simp [h]
      · simp [h1, h2]
    rw [e]
    exact hpm
  · have e : takeJob t = startJob .drain b { t with pm := { t.pm with drainQueue := rest } } := by
      unfold takeJob
      simp [hpm, hi, hd]
    rw [hb, ← hw, e]
    exact startJob_taken .drain b { t with pm := { t.pm with drainQueue := rest } } s.pm rest stages (by simp [hpm])
  · have e : takeJob t = startJob .stage b { t with pm := { t.pm with stageQueue := rest } } := by
      unfold takeJob
      simp [hpm, hi, hd, hs]
    rw [hb, ← hw, e]
    exact startJob_taken .stage b { t with pm := { t.pm with stageQueue := rest } } s.pm [] rest (by simp [hpm, hd])

/-! ### Staging -/

/-- The end of a happening in BP and PM is what `StagingOnly` says (R134 to R136, R139). -/
theorem settle_only (s : State) : StagingOnly s (settle s) := by
  have hw := updatedWaitList_eq s
  let s0 : State := { s with bp := { s.bp with waitList := waitOrder s } }
  let g : State := grants (waitOrder s) s0
  have he : settle s = takeJob g := by simp only [settle, hw]; rfl
  have h0 : GrantsSoFar s s0 :=
    ⟨rfl, fun _ => .inl rfl, fun _ => .inl rfl, fun _ => .inl rfl, [], by simp, by simp [s0]⟩
  obtain ⟨hg, hwl⟩ := grants_soFar (waitOrder s) h0 fun p => mem_waitOrder
  have hj := takeJob_blocks g
  have hpt : ∀ p, (takeJob g).point p = g.point p := fun p => by rw [hj]; rfl
  have hsl : ∀ x, (takeJob g).slot x = g.slot x := fun x => by rw [hj]; rfl
  have hbu : ∀ b, (takeJob g).buffer b = g.buffer b := fun b => by rw [hj]; rfl
  have hbp : (takeJob g).bp = g.bp := by rw [hj]
  have hhw : g.hw = s.hw := by
    have h := congrArg State.hw hg.blocks
    exact h
  rw [he]
  refine ⟨?_, fun p => ?_, fun x => ?_, fun b => ?_, ?_, ?_, fun hn hd => ?_⟩
  · rw [hj]
    exact congrArg (fun u : State => { u with pm := (takeJob g).pm }) hg.blocks
  · rw [hpt]; exact hg.points p
  · rw [hsl]; exact hg.slots x
  · rw [hbu]; exact hg.buffers b
  · rw [hbp]; exact hwl
  · obtain ⟨more, hm, e⟩ := hg.mover
    refine ⟨more, fun b hb => ?_, takeJob_served _ e hhw⟩
    rw [hbu]; exact hm b hb
  · have hc : grantsMade s0 (waitOrder s) = grantCount s := by
      simp only [grantsMade, grantCount, stagingCount_eq]
      rfl
    obtain ⟨i1, i2, i3, i4, i5, i6⟩ := grants_exact (waitOrder s) s0 rfl (waitOrder_nodup hn)
      (fun p hp => by
        obtain ⟨_, _, _, x, hx, _⟩ := mem_waitOrder hp
        exact ⟨x, hx⟩)
      (fun p hp q hq x h1 h2 => hd p q x (mem_waitOrder hp) (mem_waitOrder hq) h1 h2)
    rw [hc] at i1 i2 i3 i4 i5 i6
    refine ⟨by rw [hbp]; exact i1, fun p b hpb => ?_, ⟨fun p hp => ?_, fun b hb => ?_, fun x hx => ?_⟩, ?_⟩
    · obtain ⟨x, h1, h2, h3, h4⟩ := i2 p b hpb
      refine ⟨x, h1, ?_, ?_, ?_⟩
      · rw [hpt]; exact h2
      · rw [hsl]; exact h3
      · rw [hbu]; exact h4
    · rw [hpt]; exact i3 p hp
    · rw [hbu]; exact i4 b hb
    · rw [hsl]; exact i5 x hx
    · refine takeJob_served _ ?_ hhw
      simp only [hbu]
      exact i6

/-! ### The choice -/

theorem firstOffers_iff (s : State) (p : PointId) : firstOffers s p = true ↔
    ∃ x, s.first p = some x ∧ ((s.slot x).state = .queued ∨ (s.slot x).state = .active) ∧
      (s.slot x).cancelRequested = false ∧ (s.slot x).faultMark = false ∧
      ((s.slot x).bytesLine < (s.slot x).length ∨ ((s.point p).cfg.direction = .store ∧ (s.slot x).length = 0)) := by
  unfold firstOffers
  cases hf : s.first p with
  | none => simp
  | some x => cases hd : (s.point p).cfg.direction <;> simp [offersLineWork, lineWorkRemaining] <;> tauto

theorem bufferReady_iff (s : State) (p : PointId) : bufferReady s p = true ↔
    ((s.point p).cfg.direction = .store → ∃ b, (s.point p).staged = some b ∧ (s.buffer b).state = .staged) ∧
      ((s.point p).cfg.direction = .fetch → ∃ b, (s.buffer b).state = .free) := by
  unfold bufferReady
  cases hd : (s.point p).cfg.direction with
  | store => cases hs : (s.point p).staged <;> simp
  | fetch => simp [lowestFree, List.find?_isSome]

theorem mayBegin_iff (s : State) (p : PointId) : (eligible s p && fits s p) = true ↔ MayBegin s p := by
  have hfit : fits s p = true ↔ s.fs.elapsed + (152 + 10 * (s.point p).cfg.maxPayload.bytes + s.sc.params.replyTimeout) +
      168 ≤ s.sc.params.frameLength := by rw [fits, decide_eq_true_iff, cost]
  simp only [eligible, MayBegin, stationPresent, Bool.and_eq_true, Bool.or_eq_true, decide_eq_true_iff, firstOffers_iff,
    bufferReady_iff, hfit, and_assoc]

theorem lowestFree_lowest {s : State} {b : BufId} (h : lowestFree s = some b) :
    (s.buffer b).state = .free ∧ ∀ c, c < b → (s.buffer c).state ≠ .free := by
  simp only [lowestFree] at h
  refine ⟨by simpa using List.find?_some h, fun c hc he => ?_⟩
  obtain ⟨_, l, r, hl, hn⟩ := List.find?_eq_some_iff_append.mp h
  have hsort : (List.finRange 8).Pairwise (· < ·) := List.pairwise_lt_finRange 8
  have hmem : c ∈ l ++ b :: r := hl ▸ List.mem_finRange c
  rw [hl, List.pairwise_append, List.pairwise_cons] at hsort
  rcases List.mem_append.mp hmem with hc' | hc'
  · simpa [he] using hn c hc'
  · rcases List.mem_cons.mp hc' with e | hc'
    · exact absurd (e ▸ hc) (lt_irrefl _)
    · exact absurd (hsort.2.1.1 c hc') (not_lt_of_gt hc)

/-- Where a point may begin, its transaction begins (R75, R85). -/
theorem beginTxn_begins {s : State} {p : PointId} (h : MayBegin s p) (f : FrameScheduler)
    (hf : f.elapsed = s.fs.elapsed) : Begins s p f (beginTxn p { s with fs := f }) := by
  obtain ⟨_, _, ⟨x, hx, _⟩, _, hs, hr, _⟩ := h
  have hx' : ({ s with fs := f } : State).first p = some x := hx
  cases hd : (s.point p).cfg.direction with
  | store =>
    obtain ⟨b, hb, _⟩ := hs hd
    have ht : txnBuffer { s with fs := f } p = some b := by
      simp only [txnBuffer, show ({ s with fs := f } : State).point p = s.point p from rfl, hd, hb]
    refine ⟨x, b, (s.buffer b).count, hx, ?_, fun _ => ⟨hb, rfl, ?_, ?_⟩, fun e => by (rw [hd] at e; cases e)⟩
    · simp only [beginTxn, hx', ht, requestedLength, show ({ s with fs := f } : State).point p = s.point p from rfl, hd, hf]
      rfl
    · rw [beginTxn_blocks]
      simp only [beginTxn, hx', ht, show ({ s with fs := f } : State).point p = s.point p from rfl, hd]
    · simp only [beginTxn, hx', ht, show ({ s with fs := f } : State).point p = s.point p from rfl, hd]
  | fetch =>
    obtain ⟨b, hb⟩ : ∃ b, lowestFree s = some b := by
      obtain ⟨b, hb⟩ := hr hd
      exact Option.isSome_iff_exists.mp (by simpa [lowestFree, List.find?_isSome] using ⟨b, hb⟩)
    obtain ⟨h1, h2⟩ := lowestFree_lowest hb
    have ht : txnBuffer { s with fs := f } p = some b := by
      simp only [txnBuffer, show ({ s with fs := f } : State).point p = s.point p from rfl, hd]
      exact hb
    refine ⟨x, b, min (s.point p).cfg.maxPayload.bytes ((s.slot x).length - (s.slot x).bytesLine), hx, ?_,
      fun e => by (rw [hd] at e; cases e), fun _ => ⟨rfl, h1, h2, ?_, ?_⟩⟩
    · simp only [beginTxn, hx', ht, requestedLength, show ({ s with fs := f } : State).point p = s.point p from rfl, hd, hf]
      rfl
    · simp only [beginTxn, hx', ht, show ({ s with fs := f } : State).point p = s.point p from rfl, hd]
      rfl
    · simp only [beginTxn, hx', ht, show ({ s with fs := f } : State).point p = s.point p from rfl, hd]
      rfl

/-- The ring read from a member on is its rotation to that member. -/
theorem ringFrom_append {a c : List PointId} {p : PointId} (h : p ∉ a) : ringFrom (a ++ p :: c) p = p :: c ++ a := by
  have h' : ∀ q ∈ a, (decide (q ≠ p)) = true := fun q hq => by simpa using fun e : q = p => h (e ▸ hq)
  rw [ringFrom, List.dropWhile_append_of_pos h', List.takeWhile_append_of_pos h']
  simp

/-- The successor of a member of a ring without repeats, seen from any rotation of it. -/
theorem successor_rotation {front back before after : List PointId} {p : PointId} (hn : (front ++ back).Nodup)
    (h : back ++ front = before ++ p :: after) :
    successor (front ++ back) p = match after ++ before with
      | q :: _ => some q
      | [] => some p := by
  have hr : ringFrom (front ++ back) p = p :: (after ++ before) := by
    have hn' : (before ++ p :: after).Nodup := h ▸ (List.perm_append_comm.nodup_iff.mp hn)
    have hpa : p ∉ before := fun hp => by
      rw [List.nodup_append] at hn'
      exact hn'.2.2 p hp p (by simp) rfl
    rcases List.append_eq_append_iff.mp h with ⟨c, h1, h2⟩ | ⟨c, h1, h2⟩
    · subst h1
      rw [h2, List.append_assoc, List.cons_append, ringFrom_append (fun hp => hpa (by simp [hp]))]
      simp
    · cases c with
      | nil =>
        simp only [List.append_nil, List.nil_append] at h1 h2
        subst h1
        subst h2
        have := ringFrom_append (a := []) (c := after ++ back) (p := p) (by simp)
        simpa using this
      | cons d c =>
        rw [List.cons_append, List.cons.injEq] at h2
        obtain ⟨rfl, rfl⟩ := h2
        subst h1
        have hpf : p ∉ front ++ before := fun hp => by
          rcases List.mem_append.mp hp with hp | hp
          · rw [← List.append_assoc, List.nodup_append] at hn
            exact hn.2.2 p (by simp [hp]) p (by simp) rfl
          · exact hpa hp
        rw [← List.append_assoc, ringFrom_append hpf]
        simp
  unfold successor
  rw [hr]
  cases h' : after ++ before <;> rfl

/-- The choice is what `ChoiceOnly` says (R72 to R75, R60, R85). -/
theorem choose_only (s : State) : ChoiceOnly s (choose s) := by
  have hno : ∀ p, ¬ MayBegin s p ↔ (eligible s p && fits s p) = false := fun p => by
    rw [← mayBegin_iff, Bool.not_eq_true]
  have hle : ∀ p f t, Begins s p f t → mayChoose s = true → t ≠ s := fun p f t ⟨_, _, _, _, e, _⟩ hm k => by
    have h1 : s.le.state = .idle := by simp only [mayChoose, Bool.and_eq_true, decide_eq_true_iff] at hm; exact hm.1.1
    have h2 : s.le.state = .requesting := by rw [← k, e]
    rw [h1] at h2
    cases h2
  unfold choose
  split
  · next hm =>
    split
    · next p hp =>
      obtain ⟨h1, before, after, hdue, h2⟩ := List.find?_eq_some_iff_append.mp hp
      have hmb : MayBegin s p := (mayBegin_iff s p).mp h1
      have hbef : ∀ q ∈ before, ¬ MayBegin s q := fun q hq => (hno q).mpr (by simpa only [Bool.not_eq_true'] using h2 q hq)
      have her : s.fs.due.erase p = before ++ after := by
        rw [hdue, List.erase_append_right _ (fun hp' => hbef p hp' hmb)]
        simp
      have hb := beginTxn_begins hmb { s.fs with due := s.fs.due.erase p } rfl
      refine ⟨.inr ⟨hm, p, before, after, hmb, hbef, .inl ⟨hdue, ?_⟩⟩, fun e _ => absurd e (hle _ _ _ hb hm)⟩
      rw [← her]
      exact hb
    · next hd =>
      have hdn : ∀ q ∈ s.fs.due, ¬ MayBegin s q := fun q hq => (hno q).mpr (by
        simpa using List.find?_eq_none.mp hd q hq)
      split
      · next p hp =>
        obtain ⟨h1, before, after, hring, h2⟩ := List.find?_eq_some_iff_append.mp hp
        have hmb : MayBegin s p := (mayBegin_iff s p).mp h1
        have hbef : ∀ q ∈ before, ¬ MayBegin s q := fun q hq => (hno q).mpr (by simpa only [Bool.not_eq_true'] using h2 q hq)
        have hb := beginTxn_begins hmb { s.fs with pointer := successor s.fs.ring p } rfl
        have hpt : (beginTxn p { s with fs := { s.fs with pointer := successor s.fs.ring p } }).fs.pointer =
            successor s.fs.ring p := by rw [beginTxn_blocks]
        refine ⟨.inr ⟨hm, p, before, after, hmb, hbef, .inr ⟨hdn, ?_⟩⟩, fun e _ => absurd e (hle _ _ _ hb hm)⟩
        cases hr : s.fs.pointer with
        | none => simp [ringOrder, hr] at hring
        | some r =>
          simp only [ringOrder, hr, ringFrom] at hring
          refine ⟨r, s.fs.ring.takeWhile fun q => decide (q ≠ r), s.fs.ring.dropWhile fun q => decide (q ≠ r), rfl,
            List.takeWhile_append_dropWhile.symm, fun hm' => ?_, ?_, hring, ?_, fun hn => ?_⟩
          · simpa using List.mem_takeWhile_imp hm'
          · cases hd' : s.fs.ring.dropWhile fun q => decide (q ≠ r) with
            | nil => exact .inl rfl
            | cons q qs =>
              have hq := List.head?_dropWhile_not (fun q => decide (q ≠ r)) s.fs.ring
              rw [hd'] at hq
              simp only [List.head?_cons] at hq
              exact .inr (by simpa using hq)
          · rw [hpt]; exact hb
          · rw [hpt]
            have hsplit : s.fs.ring = (s.fs.ring.takeWhile fun q => decide (q ≠ r)) ++
                s.fs.ring.dropWhile fun q => decide (q ≠ r) := List.takeWhile_append_dropWhile.symm
            have := successor_rotation (by rw [← hsplit]; exact hn) hring
            rw [← hsplit] at this
            exact this
      · next hr =>
        refine ⟨.inl rfl, fun _ _ => ⟨hdn, fun hp q hq => ?_⟩⟩
        refine (hno q).mpr ?_
        simp only [pickRing, ringOrder, List.find?_eq_none] at hr
        cases hr' : s.fs.pointer with
        | none => exact absurd hr' hp
        | some r =>
          simp only [hr'] at hr
          have : q ∈ ringFrom s.fs.ring r := by
            rw [ringFrom, List.mem_append, or_comm, ← List.mem_append, List.takeWhile_append_dropWhile]
            exact hq
          simpa using hr q this
  · next hm => exact ⟨.inl rfl, fun _ h => absurd h hm⟩

/-- Staging and then a choice are what `ServiceOnly` says. -/
theorem choose_settle_only (s : State) : ServiceOnly s (choose (settle s)) := ⟨_, settle_only s, choose_only _⟩

/-! ### Service and the window -/

/-- Staging commutes with a change of the window that keeps HOST CONFIG, such as a result. -/
theorem StagingOnly.withWindow {s t : State} (h : StagingOnly s t) (w : HostWindow) (hc : w.config = s.hw.config) :
    StagingOnly { s with hw := w } { t with hw := w } := by
  have hm : ∀ l, MoverServed s t l → MoverServed { s with hw := w } { t with hw := w } l := fun l k =>
    ⟨k.waits, fun b rest h1 h2 => by
      have := k.drain b rest h1 h2
      rw [← hc] at this
      exact this, fun b rest h1 h2 h3 => by
      have := k.stage b rest h1 h2 h3
      rw [← hc] at this
      exact this⟩
  refine ⟨?_, h.points, h.slots, h.buffers, h.waits, ?_, fun h1 h2 => ?_⟩
  · exact congrArg (fun u : State => { u with hw := w }) h.blocks
  · obtain ⟨more, h1, h2⟩ := h.mover
    exact ⟨more, h1, hm _ h2⟩
  · obtain ⟨g1, g2, g3, g4⟩ := h.grants h1 h2
    exact ⟨g1, g2, g3, hm _ g4⟩

/-- The choice commutes with a change of the window. -/
theorem ChoiceOnly.withWindow {s t : State} (h : ChoiceOnly s t) (w : HostWindow) :
    ChoiceOnly { s with hw := w } { t with hw := w } := by
  have hb : ∀ p f, Begins s p f t → Begins { s with hw := w } p f { t with hw := w } :=
    fun p f ⟨x, b, n, h1, h2, h3, h4⟩ => ⟨x, b, n, h1, congrArg (fun u : State => { u with hw := w }) h2, h3, h4⟩
  have hw : t.hw = s.hw := by
    rcases h.choice with e | ⟨_, p, l, r, _, _, ⟨_, k⟩ | ⟨_, _, _, _, _, _, _, _, _, k, _⟩⟩
    · rw [e]
    · obtain ⟨_, _, _, _, e, _⟩ := k
      have e' := congrArg State.hw e
      exact e'
    · obtain ⟨_, _, _, _, e, _⟩ := k
      have e' := congrArg State.hw e
      exact e'
  refine ⟨?_, fun e hm => h.none ?_ hm⟩
  · rcases h.choice with e | ⟨hm, p, l, r, h1, h2, h3⟩
    · exact .inl (by rw [e])
    · refine .inr ⟨hm, p, l, r, h1, h2, ?_⟩
      rcases h3 with ⟨k1, k2⟩ | ⟨k1, q, f, g, k2, k3, k4, k5, k6, k7, k8⟩
      · exact .inl ⟨k1, hb _ _ k2⟩
      · exact .inr ⟨k1, q, f, g, k2, k3, k4, k5, k6, hb _ _ k7, k8⟩
  · have e' := congrArg (fun u : State => { u with hw := s.hw }) e
    rw [← hw] at e'
    exact e'.trans (by rw [hw])

/-- Service commutes with a change of the window that keeps HOST CONFIG. -/
theorem ServiceOnly.withWindow {s t : State} (h : ServiceOnly s t) (w : HostWindow) (hc : w.config = s.hw.config) :
    ServiceOnly { s with hw := w } { t with hw := w } := by
  obtain ⟨u, h1, h2⟩ := h
  exact ⟨_, h1.withWindow w hc, h2.withWindow w⟩

end Sys2Proof.Machine
end

