-- ==== Sys2Proof/Laws/Walks.lean ====
section
/-! SUPPORT. What the shared operations preserve: a property that each primitive change keeps is kept by every walk over a
queue, by every ending, by staging, by the choice and by the taking of halt requests. Proofs about a whole happening name
the primitives once and cite these. -/

namespace Sys2Proof.Machine

/-- The property is kept by each primitive change that the walks of SP, BP, CU and PT are made of. -/
structure Closed (P : State → Prop) : Prop where
  free : ∀ b s, P s → P (freeBuffer b s)
  retire : ∀ x st s, P s → P (s.modSlot x fun e => { e with state := .retiring, status := some st })
  freeSlot : ∀ x p s, P s → P (freeSlot x p s)
  post : ∀ x p s, s.cu.count < 64 → P s → P (postRecord x p s)
  hold : ∀ w p s, P s → P (joinHeld w p s)
  close : ∀ p s, P s → P (reachDisabled p s)
  halt : ∀ c p s, P s → P (haltPoint c p s)
  wait : ∀ w s, P s → P { s with bp := { s.bp with waitList := w } }
  grant : ∀ p b x s, P s → P (grant p b x s)
  job : ∀ s, P s → P (takeJob s)

/-- A property that each step of a fold keeps is kept by the fold. -/
theorem foldl_keeps {P : State → Prop} {α : Type} (f : State → α → State) (hf : ∀ s a, P s → P (f s a)) (l : List α)
    (s : State) (hs : P s) : P (l.foldl f s) := by
  induction l generalizing s with
  | nil => exact hs
  | cons a l ih => exact ih _ (hf _ _ hs)

namespace Closed

variable {P : State → Prop} (h : Closed P)
include h

theorem freeStaged (x : SlotId) (s : State) (hs : P s) : P (freeStaged x s) := by
  unfold Machine.freeStaged
  split
  · exact h.free _ _ hs
  · exact hs

theorem endWith (x : SlotId) (st : Status) (s : State) (hs : P s) : P (endWith x st s) :=
  h.freeStaged _ _ (h.retire _ _ _ hs)

theorem endExchange (x : SlotId) (c : Status) (s : State) (hs : P s) : P (endExchange x c s) := by
  unfold Machine.endExchange
  split
  · exact h.endWith _ _ _ hs
  · exact h.endWith _ _ _ hs
  · exact hs
  · exact hs

theorem endPending (x : SlotId) (s : State) (hs : P s) : P (endPending x s) := by
  unfold Machine.endPending
  dsimp only
  split
  · split
    · exact h.endExchange _ _ _ hs
    · exact hs
  · split
    · exact hs
    · split
      · exact h.endExchange _ _ _ hs
      · split
        · exact h.endExchange _ _ _ hs
        · exact hs
  · exact hs
  · exact hs

theorem retireFirst (w : Bool) (p : PointId) (x : SlotId) (s : State) (hs : P s) : P (retireFirst w p x s).1 := by
  unfold Machine.retireFirst
  split
  · split
    · split
      · next hc =>
        have hc' : s.cu.count < 64 := by simp [canPost] at hc; exact hc.2
        exact h.freeSlot _ _ _ (h.post _ _ _ hc' hs)
      · split
        · exact hs
        · exact h.hold _ _ _ hs
    · exact h.freeSlot _ _ _ hs
  · exact hs

theorem closePoint (p : PointId) (s : State) (hs : P s) : P (closePoint p s) := by
  unfold Machine.closePoint
  split
  · exact h.close _ _ hs
  · exact hs

theorem advance (w : Bool) (p : PointId) (xs : List SlotId) (s : State) (hs : P s) : P (advance w p xs s) := by
  induction xs generalizing s with
  | nil => exact h.closePoint _ _ hs
  | cons x xs ih =>
    unfold Machine.advance
    dsimp only
    split
    · exact ih _ (h.retireFirst _ _ _ _ (h.endPending _ _ hs))
    · exact h.retireFirst _ _ _ _ (h.endPending _ _ hs)

theorem advancePoint (p : PointId) (s : State) (hs : P s) : P (advancePoint p s) := h.advance _ _ _ _ hs

theorem endActive (c : Status) (p : PointId) (s : State) (hs : P s) : P (endActive c p s) := by
  unfold Machine.endActive
  split
  · split
    · exact h.advancePoint _ _ (h.endExchange _ _ _ hs)
    · exact hs
  · exact hs

theorem endAllActive (s : State) (hs : P s) : P (endAllActive s) :=
  foldl_keeps _ (fun t p ht => h.endActive .lineReset p t ht) _ _ hs

theorem stationGonePoint (c : HaltCause) (p : PointId) (s : State) (hs : P s) : P (stationGonePoint c p s) := by
  unfold Machine.stationGonePoint
  split
  · exact h.endActive _ _ _ (h.halt _ _ _ hs)
  · exact h.endActive _ _ _ (h.halt _ _ _ hs)
  · exact h.endActive _ _ _ hs
  · exact hs
  · exact hs

theorem stationGone (c : HaltCause) (i : StationId) (s : State) (hs : P s) : P (stationGone c i s) := by
  refine foldl_keeps _ (fun t p ht => ?_) _ _ hs
  split
  · exact h.stationGonePoint _ _ _ ht
  · exact ht

theorem grants (ps : List PointId) (s : State) (hs : P s) : P (grants ps s) := by
  induction ps generalizing s with
  | nil => exact hs
  | cons p ps ih =>
    unfold Machine.grants
    split
    · split
      · exact ih _ (h.grant _ _ _ _ hs)
      · exact hs
    · exact hs

theorem settle (s : State) (hs : P s) : P (settle s) := h.job _ (h.grants _ _ (h.wait _ _ hs))

end Closed

/-! ### What the walks leave alone -/

/-- The walks reach neither segment control, nor the line engine, nor the window, nor the waiting commands, nor the frame
timer and the frame number. -/
def WalkFrame (s t : State) : Prop :=
  t.sc = s.sc ∧ t.le = s.le ∧ t.hw = s.hw ∧ t.pending = s.pending ∧ t.fs.running = s.fs.running ∧
    t.fs.elapsed = s.fs.elapsed ∧ t.fs.frame = s.fs.frame

theorem WalkFrame.refl (s : State) : WalkFrame s s := ⟨rfl, rfl, rfl, rfl, rfl, rfl, rfl⟩

theorem WalkFrame.trans {s t u : State} (h : WalkFrame s t) (k : WalkFrame t u) : WalkFrame s u :=
  ⟨k.1.trans h.1, k.2.1.trans h.2.1, k.2.2.1.trans h.2.2.1, k.2.2.2.1.trans h.2.2.2.1, k.2.2.2.2.1.trans h.2.2.2.2.1,
    k.2.2.2.2.2.1.trans h.2.2.2.2.2.1, k.2.2.2.2.2.2.trans h.2.2.2.2.2.2⟩

theorem freeBuffer_frame (b : BufId) (s : State) : WalkFrame s (freeBuffer b s) := by
  unfold freeBuffer
  dsimp only
  cases (s.buffer b).slot <;> cases (s.buffer b).point <;> dsimp only <;> (try split) <;>
    exact ⟨rfl, rfl, rfl, rfl, rfl, rfl, rfl⟩

theorem leaveScheduler_frame (q : SegParams) (p : PointId) (c : PointConfig) (f : FrameScheduler) :
    (leaveScheduler q p c f).running = f.running ∧ (leaveScheduler q p c f).elapsed = f.elapsed ∧
      (leaveScheduler q p c f).frame = f.frame := by
  unfold leaveScheduler
  cases c.kind <;> exact ⟨rfl, rfl, rfl⟩

/-- From a state whose frame is that of `s`, every primitive keeps it. -/
theorem walkFrame_closed (s : State) : Closed (WalkFrame s) where
  free b t ht := ht.trans (freeBuffer_frame b t)
  retire _ _ _ ht := ht
  freeSlot _ _ _ ht := ht
  post _ _ _ _ ht := ht
  hold w p t ht := by
    unfold joinHeld
    dsimp only
    split <;> exact ht
  close p t ht := by
    obtain ⟨h1, h2, h3⟩ := leaveScheduler_frame t.sc.params p (t.point p).cfg t.fs
    exact ht.trans ⟨rfl, rfl, rfl, rfl, h1, h2, h3⟩
  halt c p t ht := by
    unfold haltPoint
    split <;> exact ht
  wait _ _ ht := ht
  grant p b x t ht := by
    rw [grant_blocks]
    exact ht
  job t ht := by
    rw [takeJob_blocks]
    exact ht

theorem advance_frame (w : Bool) (p : PointId) (xs : List SlotId) (s : State) : WalkFrame s (advance w p xs s) :=
  (walkFrame_closed s).advance _ _ _ _ (.refl s)

theorem advancePoint_frame (p : PointId) (s : State) : WalkFrame s (advancePoint p s) := advance_frame _ _ _ _

theorem endActive_frame (c : Status) (p : PointId) (s : State) : WalkFrame s (endActive c p s) :=
  (walkFrame_closed s).endActive _ _ _ (.refl s)

theorem endAllActive_frame (s : State) : WalkFrame s (endAllActive s) := (walkFrame_closed s).endAllActive _ (.refl s)

theorem stationGone_frame (c : HaltCause) (i : StationId) (s : State) : WalkFrame s (stationGone c i s) :=
  (walkFrame_closed s).stationGone _ _ _ (.refl s)

theorem settle_frame (s : State) : WalkFrame s (settle s) := (walkFrame_closed s).settle _ (.refl s)

/-! ### Queues with nothing due -/

/-- An ACTIVE first exchange with no pending mark stays, and so does all behind it (R41, R44). -/
theorem advance_active {s : State} {w : Bool} {p : PointId} {x : SlotId} {xs : List SlotId}
    (ha : (s.slot x).state = .active) (hc : (s.slot x).cancelRequested = false) (hf : (s.slot x).faultMark = false) :
    advance w p (x :: xs) s = s := by
  have he : endPending x s = s := by simp [endPending, ha, hc, hf]
  simp [advance, he, retireFirst, ha]

/-- A QUEUED first exchange without cancel_requested stays (R42). -/
theorem advance_queued {s : State} {w : Bool} {p : PointId} {x : SlotId} {xs : List SlotId}
    (ha : (s.slot x).state = .queued) (hc : (s.slot x).cancelRequested = false) : advance w p (x :: xs) s = s := by
  have he : endPending x s = s := by simp [endPending, ha, hc]
  simp [advance, he, retireFirst, ha]

/-- With nothing queued only a CLOSING point changes (R19). -/
theorem advance_nil {s : State} {w : Bool} {p : PointId} (h : (s.point p).state ≠ .closing) : advance w p [] s = s := by
  simp [advance, closePoint, h]

/-- A queue whose new first exchange has nothing due, of a point that is not CLOSING, stays as it is. -/
theorem advance_quiet {s : State} {w : Bool} {p : PointId} {xs : List SlotId} (hp : (s.point p).state ≠ .closing)
    (hx : ∀ y, xs.head? = some y → (s.slot y).state = .queued ∧ (s.slot y).cancelRequested = false) :
    advance w p xs s = s := by
  cases xs with
  | nil => exact advance_nil hp
  | cons y ys => exact advance_queued (hx y rfl).1 (hx y rfl).2

/-- With no halt request of the happening, segment control takes none (R115). -/
theorem takeHaltRequests_none {s : State} (h : s.eu.haltRequest = false) : takeHaltRequests s = s := by
  simp [takeHaltRequests, h]

end Sys2Proof.Machine
end

