-- ==== Sys2Proof/Tests/Slice0.lean ====
section
/-! SUPPORT. The model's own tests. First the operand checks, the window's decoding and single steps with the values that the
spec's examples and tables give; then one witness for each statement that has hypotheses: concrete states and operands that
meet them, clause by clause, at the ends of their ranges. -/

namespace Sys2Proof.Tests

open Sys2Proof Sys2Proof.Machine

set_option Elab.async false

/-! ### Small states -/

/-- The parameter words. -/
def params (a b c d : Word) (s : State) : State := { s with hw := { s.hw with params := #v[a, b, c, d] } }

/-- Segment state, line engine state, and the frame timer. -/
def line (g : SegState) (l : LineState) (run : Bool) (elapsed : Nat) (s : State) : State :=
  { s with sc := { s.sc with state := g }, le := { s.le with state := l }, fs := { s.fs with running := run, elapsed := elapsed } }

/-- A point of station 5 with a 64-byte max payload. -/
def point (p : PointId) (d : Direction) (k : Kind) (g : PointState) (s : State) : State :=
  s.setPoint p { Point.reset with
    cfg := { PointConfig.default with station := 4, direction := d, kind := k, maxPayload := .b64 }, state := g }

/-- An exchange of 200 bytes in the queue of a point, behind those already there. -/
def exchange (x : SlotId) (p : PointId) (g : SlotState) (s : State) : State :=
  (s.setSlot x { Slot.free with state := g, point := some p, length := 200 }).setQueue p (s.queue p ++ [x])

/-- An exchange that owes a completion record. -/
def notifying (x : SlotId) (s : State) : State := s.modSlot x fun e => { e with notify := true }

/-- A completion ring with that many records, and points held. -/
def records (n : Nat) (held : List PointId) (s : State) : State :=
  { s with cu := { CompletionUnit.reset with count := n, held := held } }

/-- A buffer of an exchange, which counts it. -/
def owned (b : BufId) (p : PointId) (x : SlotId) (g : BufState) (n : Nat) (s : State) : State :=
  (s.setBuffer b { Buffer.reset with state := g, point := some p, slot := some x, count := n, addr := some 0x1000 }).modSlot
    x fun e => { e with jobs := e.jobs + 1 }

/-- A transaction for slot 0 of point 0 in buffer 0, of 64 bytes, begun at 64. -/
def txn0 (d : Direction) (answer : Option Nat) (received : Option (Nat × Bool)) : Txn :=
  { point := 0, slot := 0, direction := d, buffer := 0, seq := false, requested := 64, began := 64,
    answerBegan := answer, received := received }

/-- The line engine in a transaction. -/
def inTxn (t : Txn) (l : LineState) (s : State) : State :=
  { s with le := { s.le with state := l, txn := some t } }

/-- Station 5 PRESENT. -/
def present (s : State) : State := s.setStation 4 { Station.reset with presence := .present }

/-- A RUNNING segment, its line engine idle at elapsed time 64. -/
def running : State := present (line .running .idle true 64 State.reset)

/-- Two QUEUED exchanges of a PAUSED STORE point. -/
def pausedQueue : State := exchange 1 0 .queued (exchange 0 0 .queued (point 0 .store .async .paused State.reset))

/-- A FETCH of slot 0 in flight. -/
def fetching : State :=
  inTxn (txn0 .fetch none none) .awaitAnswer (exchange 0 0 .active (point 0 .fetch .async .ready running))

/-- A STORE point whose first exchange is ACTIVE with buffer 0 STAGED, and slot 1 behind it. -/
def staged0 : State :=
  (exchange 1 0 .queued (owned 0 0 0 .staged 64 (exchange 0 0 .active (point 0 .store .async .ready running)))).modPoint 0
    fun q => { q with staged := some 0 }

/-- A STORE of `length` bytes whose 64-byte packet is sent and whose answer began at 900. -/
def storing (length : Nat) : State :=
  inTxn (txn0 .store (some 900) none) .awaitReply (staged0.modSlot 0 fun e => { e with length := length })

/-- A FETCH of slot 0 whose answer began at 130 in buffer 0, with a DATA of k bytes received. -/
def receiving (l : LineState) (k : Nat) (seq : Bool) : State :=
  inTxn (txn0 .fetch (some 130) (some (k, seq))) l
    (exchange 1 0 .queued (owned 0 0 0 .receiving 0 (exchange 0 0 .active (point 0 .fetch .async .ready running))))

/-- The mover in BURST with a job of buffer 0: n bytes from an address on, some of them moved, 4 words in the burst. -/
def inBurst (k : JobKind) (next : Word) (n moved retries : Nat) (s : State) : State :=
  { s with pm := { s.pm with
      state := .burst
      job := some { kind := k, buffer := 0, slot := 0, nextAddr := next, remaining := n, moved := moved, retries := retries }
      burst := some { addr := next, beats := 4, bytes := 16 } } }

/-- A stage job with 64 bytes left and 15 retries, and one in its last burst. -/
def bursting : State :=
  inBurst .stage 0x1000 64 0 15 (owned 0 0 0 .staging 64 (exchange 0 0 .active (point 0 .store .async .ready running)))

def staging : State :=
  inBurst .stage 0x1030 16 48 0 (owned 0 0 0 .staging 64 (exchange 0 0 .active (point 0 .store .async .ready running)))

/-- A drain job in its last burst. -/
def draining : State :=
  inBurst .drain 0x1030 16 48 0 (owned 0 0 0 .draining 64 (exchange 0 0 .active (point 0 .fetch .async .ready running)))

/-- A second drain job of the same exchange, queued. -/
def twoDrains : State :=
  let s := owned 1 0 0 .draining 64 draining
  { s with pm := { s.pm with drainQueue := [1] } }

/-- A suspended segment with the line low for n bit times. -/
def watching (l : LineState) (n : Nat) (wake : Bool) : State :=
  let s := line .suspended l false 0 State.reset
  { s with le := { s.le with lowBits := n }, sc := { s.sc with params := { SegParams.default with autoWake := wake } } }

/-- The last slot of a census, station 30, with ADDRESS_CLASH halting. -/
def lastSlot (x : Station) : State :=
  let s := (line .running .census true 3990 State.reset).setStation 29 x
  { s with le := { s.le with slotsRead := 29 }, eu := { EventUnit.reset with haltEnable := 0x2040 } }

/-- Station 30 one silence short of its detach count, point 0 alone bound to it. -/
def boundLast (g : PointState) (more : State → State) : State :=
  more ((point 0 .fetch .async g (lastSlot { Station.reset with presence := .present, silent := 3 })).modPoint 0
    fun q => { q with cfg := { q.cfg with station := 29 } })

/-- Points 0 and 1 of station 30, both with an ACTIVE first exchange, the second CLOSING; as `boundLast`. -/
def boundTwo : State :=
  exchange 2 1 .active ((point 1 .store .async .closing (boundLast .ready (exchange 0 0 .active))).modPoint 1
    fun q => { q with cfg := { q.cfg with station := 29 } })

/-- Point 1 of station 5 as well, with an ACTIVE first exchange. -/
def withPoint1 (s : State) : State := exchange 2 1 .active (point 1 .store .async .ready s)

/-- Two points with an ACTIVE first exchange. -/
def twoActive : State := withPoint1 staged0

/-- A waiting transition and a segment state. -/
def closing (v : Waiting × SegState) (s : State) : State :=
  { s with sc := { s.sc with waiting := v.1, state := v.2 } }

/-- What can follow the outcome of a transaction. -/
def closings : List (Waiting × SegState) :=
  [(.none, .running), (.none, .suspending), (.none, .halting), (.stop, .running), (.reset, .halting)]

/-- An exchange RETIRING with its completion due. -/
def held0 (x : SlotId) (s : State) : State :=
  s.modSlot x fun e => { e with state := .retiring, status := some .done, notify := true }

/-- A full ring, points 0 and 1 held for slots 0 and 2, and slot 1 behind slot 0, cancelled and with a record due. -/
def twoHeld : State :=
  records 64 [0, 1] (held0 2 (held0 0 (exchange 2 1 .queued (point 1 .fetch .async .ready
    (notifying 1 (pausedQueue.modSlot 1 fun e => { e with cancelRequested := true }))))))

/-- What a next state shows; none where the command stops. -/
def after {α : Type} (c : Instr) (s : State) (f : State → α) : Option α :=
  match exec c s with
  | .next t => some (f t)
  | .fault _ => none
  | .refused _ => none

/-- The window takes the command, and PARAM0 names point 0. -/
def takes0 (s : State) : Bool := decide (deaf s = false ∧ (s.param 0).toNat % 256 = (0 : PointId).val)

/-! ### Operands that do not belong to their row -/

theorem test_unknown_code_of_the_table_ill_formed : (Instr.unknownCommand 0x5A).wellFormed = false := by decide
theorem test_word_access_no_undefined_offset : (Instr.undefinedOffset false 0x7C 0xF).wellFormed = false := by decide
theorem test_answer_past_the_longest_timeout_ill_formed : (Instr.answerBegins 256).wellFormed = false := by decide
theorem test_cut_short_before_a_beat_ill_formed :
    (Instr.burstCutShort 0 (Vector.replicate 16 0)).wellFormed = false := by decide
theorem test_cut_short_after_the_last_beat_ill_formed :
    (Instr.burstCutShort 16 (Vector.replicate 16 0)).wellFormed = false := by decide
theorem test_ill_formed_commands_are_refused :
    exec (.unknownCommand 0x5A) State.reset = .refused .illFormed ∧
      exec (.undefinedOffset false 0x7C 0xF) State.reset = .refused .illFormed := ⟨rfl, rfl⟩

/-! ### The register window -/

/-- R185, R186 and Table 9-1. -/
theorem test_registers_after_reset :
    windowRead State.reset 0x00 0xF = some 0x56624001 ∧ windowRead State.reset 0x04 0xF = some 0x00000F03 ∧
      windowRead State.reset 0x44 0xF = some 0x00002358 ∧ windowRead State.reset 0x05 0xF = some 0 := by decide +kernel

/-- No row of the table gives bits. -/
theorem test_no_word_spells_a_command : decodeTableWord 32 0x5A = none := rfl

/-- Section 10.1: the parameters 34400FA0h and 10h are legal and are returned. -/
theorem test_set_segment_parameters_returns_them :
    after .setSegmentParameters (params 0x34400FA0 0x10 0 0 State.reset)
      (fun t => (t.hw.result1, t.hw.result2, t.sc.params.frameLength)) = some (0x34400FA0, 0x10, 4000) := by
  decide +kernel

/-- R188, R189: the first command gets sequence number 1, and COMMAND reads back the code. -/
theorem test_result0_carries_the_sequence_number :
    after .startSegment State.reset (fun t => (t.hw.result0, windowRead t 0x08 0xF)) =
      some (0x00010001, some 0x00010021) := by decide +kernel

/-- R184: the write sets READ_ONLY_WRITE, and ACCESS_FAULT (cause 14) is presented with number 1. -/
theorem test_read_only_write_raises_access_fault :
    after (slaveWrite 0x2C 0xF 5) State.reset (fun t => (windowRead t 0x78 0xF, windowRead t 0x2C 0xF)) =
      some (some 2, some 0x00014000) := by decide +kernel

/-- R172: a number that is not the presentation number is stale. -/
theorem test_stale_acknowledgment :
    after (.eventAck 0) State.reset (fun t => t.hw.access.staleAck) = some true := by decide +kernel

/-! ### Points and exchanges -/

/-- R190 at the words of section 10.1: point 0, station 3, FETCH, PERIODIC 4/0, max payload 32. -/
theorem test_configure_point_reads_the_fields :
    after .configurePoint (params 0 0x00202003 0x00030004 0x10 State.reset)
      (fun t => ((t.point 0).cfg.station.val, (t.point 0).cfg.kind, (t.point 0).cfg.maxPayload, (t.point 0).cfg.period,
        (t.point 0).cfg.queueLimit)) = some (2, .periodic, .b32, 4, 16) := by decide +kernel

/-- R6: a phase equal to the period is refused. -/
theorem test_configure_point_refuses_a_phase_of_the_period :
    after .configurePoint (params 0 0x00202003 0x00030404 0x10 State.reset) (fun t => (t.hw.result0, (t.point 0).cfg)) =
      some (0x13000001, PointConfig.default) := by decide +kernel

/-- R64: at L = 4,000 the admission limit is 2,826. -/
theorem test_admission_limit : admissionLimit SegParams.default = 2826 := by decide

/-- R59: the cost of a 64-byte point at T = 64 is 856 bt. -/
theorem test_cost : cost SegParams.default { PointConfig.default with maxPayload := .b64 } = 856 := by decide

/-- R39: the first exchange takes slot 0, and the free list then holds 255. -/
theorem test_post_exchange_takes_slot_0 :
    after .postExchange (params 0x00280000 0x1000 200 0 (point 0 .fetch .async .ready State.reset))
      (fun t => (t.hw.result0, t.hw.result1, (t.slot 0).tag)) = some (0x01000001, 0x00FF0001, 40) := by decide +kernel

/-- R43: a QUEUED exchange that owes no completion is REMOVED. -/
theorem test_cancel_removes :
    after .cancelExchange (exchange 0 0 .queued (point 0 .fetch .async .ready State.reset))
      (fun t => (t.hw.result0, t.queue 0, (t.slot 0).state)) = some (0x02000001, [], .free) := by decide +kernel

/-! ### The line -/

/-- Table 4-1 and R80: the header, the address byte and the length of a FETCH REQUEST to station 5, point 1. -/
theorem test_request_bytes :
    (Packet.request .fetch true 4 1 64).body = [0x41, 0x29, 0x40] ∧
      (Packet.request .fetch true 4 1 64).levels.length = 58 := by decide +kernel

/-- R81: one bit wrong in the check makes a CHECK error. -/
theorem test_flipped_bit_is_a_check_error :
    storeAnswer ((Packet.reply .accept).levels.set 20 (!(Packet.reply .accept).levels.getD 20 false)) = .check false := by
  decide +kernel

/-- R101: the census symbols. -/
theorem test_census_symbols :
    readSlot ⟨false, false, true, true⟩ = .present ∧ readSlot ⟨false, true, false, true⟩ = .alert ∧
      readSlot ⟨true, true, true, true⟩ = .silence ∧ readSlot ⟨false, false, false, false⟩ = .garbled := ⟨rfl, rfl, rfl, rfl⟩

/-- R100: the head sends nothing in the 6 bt of quiet that follow a FRAME MARK. -/
theorem test_quiet_after_a_frame_mark :
    headPacket (line .running .marking true 57 State.reset) = some (.frameMark 0) ∧
      headPacket (line .running .marking true 58 State.reset) = none := by decide +kernel

/-- R101: the slots are reported in address order, and the frame ends after the thirtieth. -/
theorem test_census_slots_come_in_order :
    (after (.censusSlotEnd 28 ⟨true, true, true, true⟩) (lastSlot Station.reset) fun t => t.le.slotsRead) = none ∧
      (after (.censusSlotEnd 29 ⟨true, true, true, true⟩) (lastSlot Station.reset) fun t => t.le.slotsRead) = some 30 ∧
      (after .frameEnd (lastSlot Station.reset) fun t => t.fs.elapsed) = none := by decide +kernel

/-- R102: 99 bit times at 0 report nothing, the hundredth raises STATION_WAKE, and a longer hold adds no second report. -/
theorem test_wake_pattern_is_reported_once :
    (after (.wakePattern (List.replicate 99 false)) (watching .idle 0 false) fun t => t.eu.number) = some 0 ∧
      (after (.wakePattern (List.replicate 100 false)) (watching .idle 0 false) fun t => (t.eu.number, t.eu.presented)) =
        some (1, Cause.stationWake.bit) ∧
      (after (.wakePattern (List.replicate 300 false)) (watching .idle 0 false) fun t => (t.eu.number, t.eu.gathered)) =
        some (1, 0) ∧
      (after (.wakePattern (List.replicate 50 false ++ true :: List.replicate 99 false)) (watching .idle 0 false)
        fun t => t.eu.number) = some 0 := by decide +kernel

/-! ### The mover -/

/-- Section 6.5: stage job 1 from 1002h, 64 bytes, max burst 16. -/
theorem test_bursts_of_section_6_5 :
    chooseBurst 16 0x1002 64 = ⟨0x1002, 1, 2⟩ ∧ chooseBurst 16 0x1004 62 = ⟨0x1004, 1, 4⟩ ∧
      chooseBurst 16 0x1010 50 = ⟨0x1010, 4, 16⟩ ∧ chooseBurst 16 0x1020 34 = ⟨0x1020, 8, 32⟩ ∧
      chooseBurst 4 0x1020 34 = ⟨0x1020, 4, 16⟩ ∧ chooseBurst 16 0x1040 2 = ⟨0x1040, 1, 2⟩ ∧
      chooseBurst 16 0x1090 8 = ⟨0x1090, 1, 4⟩ := by decide +kernel

/-! ### Witnesses -/

/-- Whether an exchange waits behind the first of its queue (`Waits`). -/
def waits (s : State) (p : PointId) (y : SlotId) : Bool :=
  decide ((s.slot y).state = .queued ∧ (s.slot y).point = some p ∧ (s.slot y).jobs = 0 ∧ (s.slot y).faultMark = false ∧
    ∀ b, (s.point p).staged = some b → (s.buffer b).slot ≠ some y)

theorem waits_of {s : State} {p : PointId} {y : SlotId} (h : waits s p y = true) : Waits s p y := by
  obtain ⟨h1, h2, h3, h4, h5⟩ := of_decide_eq_true h
  exact ⟨h1, h2, h3, h4, h5⟩

/-- Whether an exchange leads its queue (`Leads`). -/
def leads (s : State) (p : PointId) (x : SlotId) (rest : List SlotId) : Bool :=
  decide (s.queue p = x :: rest ∧ (s.slot x).point = some p ∧
    (∀ b, (s.point p).staged = some b → (s.buffer b).point = some p ∧ (s.buffer b).slot = some x) ∧ p ∉ s.cu.held ∧
    ∀ y ∈ rest, y ≠ x ∧ waits s p y = true)

theorem leads_of {s : State} {p : PointId} {x : SlotId} {rest : List SlotId} (h : leads s p x rest = true) :
    Leads s p x rest := by
  obtain ⟨h1, h2, h3, h4, h5⟩ := of_decide_eq_true h
  exact ⟨h1, h2, h3, h4, fun y hy => ⟨(h5 y hy).1, waits_of (h5 y hy).2⟩⟩

/-- Whether a transaction of the first exchange is under way (`TxnUnderway`). -/
def underway (s : State) (t : Txn) (rest : List SlotId) : Bool :=
  leads s t.point t.slot rest && decide (s.le.txn = some t ∧ s.fs.running = true ∧ (s.slot t.slot).state = .active ∧
    t.direction = (s.point t.point).cfg.direction ∧
    ((s.buffer t.buffer).point = some t.point ∧ (s.buffer t.buffer).slot = some t.slot) ∧
    (s.point t.point).staged = (if t.direction = .store then some t.buffer else none) ∧ s.eu.haltRequest = false)

theorem underway_of {s : State} {t : Txn} {rest : List SlotId} (h : underway s t rest = true) : TxnUnderway s t rest := by
  obtain ⟨h1, h2⟩ := (Bool.and_eq_true _ _).mp h
  obtain ⟨a, b, c, d, e, f, g⟩ := of_decide_eq_true h2
  exact ⟨a, b, leads_of h1, c, d, e, f, g⟩

/-- Whether every ACTIVE first exchange leads its queue (`ActivesLead`). -/
def activesLead (s : State) : Bool :=
  (List.finRange 64).all fun p =>
    match s.queue p with
    | [] => true
    | x :: rest => decide ((s.slot x).state ≠ .active) || leads s p x rest

theorem activesLead_of {s : State} (h : activesLead s = true) {p : PointId} {x : SlotId} {rest : List SlotId}
    (hq : s.queue p = x :: rest) (ha : (s.slot x).state = .active) : Leads s p x rest := by
  have := List.all_eq_true.mp h p (List.mem_finRange p)
  rw [hq] at this
  simp only [ha, ne_eq, not_true_eq_false, decide_false, Bool.false_or] at this
  exact leads_of this

/-- The posting walk, where each of its rounds can be made. -/
def walked : Nat → State → Option State
  | 0, _ => none
  | n + 1, s =>
    match s.cu.held with
    | [] => some s
    | p :: ps =>
      if 64 ≤ s.cu.count then some s
      else
        match s.queue p with
        | [] => none
        | x :: rest =>
          match (s.slot x).status with
          | none => none
          | some st =>
            if p ∉ ps ∧ ∀ y ∈ rest, y ≠ x ∧ waits s p y = true then
              walked n (followed true p rest
                (slotGone (recordPosted { s with cu := { s.cu with held := ps } } p x st) p x rest))
            else none

theorem walked_of {n : Nat} {s : State} (h : (walked n s).isSome = true) : ∃ u, PostingWalk s u := by
  induction n generalizing s with
  | zero => cases h
  | succ n ih =>
    rw [walked] at h
    split at h
    · exact ⟨s, .ends s (.inl ‹_›)⟩
    · split at h
      · exact ⟨s, .ends s (.inr ‹_›)⟩
      · split at h
        · cases h
        · split at h
          · cases h
          · split at h
            · rename_i hh hr _ _ _ hq _ _ hs hc
              obtain ⟨u, hu⟩ := ih h
              exact ⟨u, .posts _ _ _ _ _ hh hc.1 (by omega) hq hs
                (fun y hy => ⟨(hc.2 y hy).1, waits_of (hc.2 y hy).2⟩) hu⟩
            · cases h

/-- What CANCEL EXCHANGE of slot 0 asks of the window and the marks. -/
def cancels0 (s : State) : Bool :=
  decide (deaf s = false ∧ (s.param 0).toNat % 65536 = (0 : SlotId).val ∧ (s.slot 0).point = some (0 : PointId) ∧
    (s.slot 0).cancelRequested = false ∧ (s.slot 0).faultMark = false)

theorem witness_StepTakesFrontCommand :
    { State.reset with pending := [.busGrant, .markEnd] }.pending = Instr.busGrant :: [.markEnd] := rfl

theorem witness_EmptyQueuePassesABitTime :
    (∀ l ∈ [LineState.marking, .idle, .census, .off, .signalling], ∀ n ∈ [29, 30],
      let s := line .running l true 64 State.reset
      let s := { s with le := { s.le with slotsRead := n } }
      s.pending = [] ∧ s.fs.running = true ∧ s.le.state = l ∧ s.le.slotsRead = n) ∧
      (∀ l ∈ [LineState.requesting, .sendingData, .awaitAnswer, .awaitReply, .receiving, .acknowledging],
        ∀ a ∈ [none, some 130],
        let t := txn0 .fetch a (some (64, false))
        (inTxn t l running).pending = [] ∧ (inTxn t l running).fs.running = true ∧ (inTxn t l running).le.state = l ∧
          (inTxn t l running).le.txn = some t) ∧
      ∀ g ∈ [(SegState.resetting, LineState.signalling), (.waking, .signalling), (.suspended, .marking),
          (.suspended, .idle), (.down, .off)],
        let s := line g.1 g.2 false 64 State.reset
        s.pending = [] ∧ s.fs.running = false ∧ s.sc.state = g.1 ∧ s.le.state = g.2 := by decide +kernel

/-- The last offset, a cycle at 7Dh and one without all four lanes; the window under the pin, in the wait of a controller
reset, and with and without a fault record. -/
theorem witness_WindowReadsShowTheRegisters :
    (0x7C#7).toNat % 4 = 0 ∧ 0x7C#7 ∉ [0x00#7, 0x04#7, 0x3C#7, 0x40#7, 0x44#7] ∧
      ((0x7D#7).toNat % 4 ≠ 0 ∨ 0xF#4 ≠ 0xF#4) ∧ ((0x7C#7).toNat % 4 ≠ 0 ∨ 0x7#4 ≠ 0xF#4) ∧
      (after .deviceReset State.reset fun t => t.hw.resetPin) = some true ∧
      (after .resetController bursting fun t => (t.hw.resetPin, t.hw.access.resetPending)) = some (false, true) ∧
      State.reset.hw.resetPin = false ∧ State.reset.hw.access.resetPending = false ∧
      State.reset.pm.faultRecord = none ∧
      (after .burstError bursting fun t => (t.hw.resetPin, t.hw.access.resetPending, t.pm.faultRecord.isSome)) =
        some (false, false, true) := by decide +kernel

theorem witness_SlaveWritesNameTheirCommand :
    ((0x7D#7).toNat % 4 ≠ 0 ∨ 0xF#4 ≠ 0xF#4) ∧ ((0x7C#7).toNat % 4 ≠ 0 ∨ 0x7#4 ≠ 0xF#4) ∧
      (0xABCDEF5A#32).setWidth 8 = 0x5A#8 ∧ (0x00#32).setWidth 8 ∉ commandCodes ∧ (0xFF#32).setWidth 8 ∉ commandCodes := by
  decide

/-- Point id 64, the first that is too large. -/
theorem witness_PointCommandsCheckTheId :
    ((0x10#8, Instr.postExchange) ∈ [(0x01#8, Instr.configurePoint), (0x10#8, .postExchange)]) ∧
      deaf (params 64 0 0 0 State.reset) = false ∧ 63 < ((params 64 0 0 0 State.reset).param 0).toNat % 256 := by
  decide +kernel

/-- Point 63 in a state of its own. -/
def point63 (g : PointState) : State := params 63 0 0 0 (point 63 .fetch .async g State.reset)

theorem witness_PointCommandsCheckTheState :
    ∀ g ∈ [PointState.disabled, .ready, .paused, .halted, .closing],
      deaf (point63 g) = false ∧ ((point63 g).param 0).toNat % 256 = (63 : PointId).val ∧
        ((point63 g).point 63).state = g := by decide +kernel

/-- The largest of every field: station 30, number 7, payload 64, attempts 15, limit 64, period 128 and phase 127, or
defer interval 15; and station 31. -/
theorem witness_ConfigurePointWritesAllOrNone :
    deaf (params 63 0x0040271E 0x000F7F80 0x40 State.reset) = false ∧
      ((params 63 0x0040271E 0x000F7F80 0x40 State.reset).param 0).toNat % 256 = (63 : PointId).val ∧
      ((params 63 0x0040271E 0x000F7F80 0x40 State.reset).point 63).state = .disabled ∧
      configFieldsLegal 0x0040271E 0x000F7F80 0x40 ∧ configFieldsLegal 0x0040071E 0x0F0F0000 0x40 ∧
      ¬ configFieldsLegal 0x0040071F 0x0F0F0000 0x40 := by
  unfold configFieldsLegal
  decide +kernel

/-- A point 0 and a point 1 DISABLED, with and without another point on the binding, of either kind. -/
theorem witness_EnablePointJoinsTheRing :
    (let s := point 0 .fetch .async .disabled State.reset;
      takes0 s = true ∧ (s.point 0).state = .disabled ∧ (s.point 0).cfg.kind = .async ∧
        ¬ ∃ q : PointId, q ≠ 0 ∧ (s.point q).state ≠ .disabled) ∧
      ∀ k ∈ [Kind.async, .periodic],
        let s := point 1 .fetch .async .ready (point 0 .fetch k .disabled State.reset)
        takes0 s = true ∧ (s.point 0).state = .disabled ∧ (s.point 0).cfg.kind = k ∧
          ∃ q : PointId, q ≠ 0 ∧ (s.point q).state ≠ .disabled ∧
          (s.point q).cfg.station = (s.point 0).cfg.station ∧ (s.point q).cfg.number = (s.point 0).cfg.number ∧
          (s.point q).cfg.direction = (s.point 0).cfg.direction := by decide +kernel

/-- A PERIODIC point with a free binding: position 1 of an empty list, a full list, loads that do and do not fit. -/
theorem witness_EnablePointAdmitsPeriodicPoints :
    (let s := params 0 1 0 0 (point 0 .fetch .periodic .disabled State.reset);
      deaf s = false ∧ (s.param 0).toNat % 256 = (0 : PointId).val ∧ (s.point 0).state = .disabled ∧
        (s.point 0).cfg.kind = .periodic ∧ bindingFree s 0 = true ∧
        s.fs.periodic.length < (s.param 1).toNat % 256) ∧
      (let s := point 0 .fetch .periodic .disabled { State.reset with
          fs := { State.reset.fs with periodic := List.replicate 32 1 } };
        takes0 s = true ∧ (s.point 0).state = .disabled ∧ (s.point 0).cfg.kind = .periodic ∧ bindingFree s 0 = true ∧
          (s.param 1).toNat % 256 ≤ s.fs.periodic.length ∧ 32 ≤ s.fs.periodic.length) ∧
      (∀ n ∈ [1970, 1971],
        let s := point 0 .fetch .periodic .disabled { State.reset with
          fs := { State.reset.fs with load := Vector.replicate 128 n } }
        takes0 s = true ∧ (s.point 0).state = .disabled ∧ (s.point 0).cfg.kind = .periodic ∧ bindingFree s 0 = true ∧
          (s.param 1).toNat % 256 ≤ s.fs.periodic.length ∧ s.fs.periodic.length < 32 ∧
          ((∀ r : Residue, r.val % (s.point 0).cfg.period = (s.point 0).cfg.phase →
            s.fs.load[r] + (152 + 10 * (s.point 0).cfg.maxPayload.bytes + s.sc.params.replyTimeout) ≤
              3 * (s.sc.params.frameLength - 232) / 4) ↔ n = 1970)) := by decide +kernel

theorem witness_PauseContinueAndClearMoveThePoint :
    ∀ g ∈ [PointState.ready, .paused, .halted],
      deaf (point63 g) = false ∧ ((point63 g).param 0).toNat % 256 = (63 : PointId).val ∧
        ((point63 g).point 63).state = g := by decide +kernel

theorem witness_DisablePointWithNothingQueuedCloses :
    ∀ k ∈ [Kind.async, .periodic],
      let s := point 0 .fetch k .ready State.reset
      deaf s = false ∧ (s.param 0).toNat % 256 = (0 : PointId).val ∧ (s.point 0).state = .ready ∧ s.queue 0 = [] ∧
        (s.point 0).cfg.kind = k := by decide +kernel

/-- What DISABLE POINT of point 0 asks of its queue, first exchange 0. -/
def flushes (s : State) (x : SlotId) (rest : List SlotId) : Bool :=
  takes0 s && decide (((s.point 0).state = .ready ∨ (s.point 0).state = .paused ∨ (s.point 0).state = .halted) ∧
    s.queue 0 = x :: rest ∧ (x :: rest).Nodup ∧ (s.slot x).point = some (0 : PointId) ∧
    (∀ y ∈ rest, waits s 0 y = true) ∧
    ∀ b, (s.point 0).staged = some b → (s.buffer b).point = some (0 : PointId) ∧ (s.buffer b).slot = some x)

/-- Whether the flush ends the first exchange, slot 0 of point 0. -/
def flushEnds (s : State) : Bool :=
  let e := s.slot 0
  decide (((stagedFreed s 0 0).slot 0).jobs = 0 ∧ (e.state = .queued ∨
    e.state = .active ∧ e.faultMark = false ∧ e.cancelRequested = false ∧ inFlight s 0 = false))

/-- How many of a list have notify. -/
def notified (s : State) (l : List SlotId) : Nat := (l.filter fun y => (s.slot y).notify).length

/-- Queues that flush whole: none notifies, one does with one place left in the ring, both do with two, and the first is
ACTIVE with a STAGED buffer. The ring fills at the second of two, and is full or has points held at the first. The first
stays: in flight, with a drain job, with fault_mark, cancelled; and RETIRING, with a job and held. -/
theorem witness_DisablePointFlushesTheQueue :
    (∀ s ∈ [pausedQueue, records 63 [] (notifying 1 pausedQueue), records 62 [] (notifying 1 (notifying 0 pausedQueue)),
        staged0],
      flushes s 0 [1] = true ∧ flushEnds s = true ∧
        (notified s [0, 1] = 0 ∨ s.cu.held = [] ∧ s.cu.count + notified s [0, 1] ≤ 64)) ∧
      (let s := records 63 [] (notifying 1 (notifying 0 pausedQueue));
        flushes s 0 [1] = true ∧ flushEnds s = true ∧ [(0 : SlotId), 1] = [0] ++ 1 :: [] ∧ (s.slot 1).notify = true ∧
          s.cu.held = [] ∧ s.cu.count + notified s [0] = 64 ∧ (0 : PointId) ∉ s.cu.held) ∧
      (∀ s ∈ [records 64 [] (notifying 0 pausedQueue), records 64 [5] (notifying 0 staged0)],
        flushes s 0 [1] = true ∧ flushEnds s = true ∧ [(0 : SlotId), 1] = [] ++ 0 :: [1] ∧ (s.slot 0).notify = true ∧
          notified s [] = 0 ∧ 64 ≤ s.cu.count ∧ (0 : PointId) ∉ s.cu.held) ∧
      (∀ s ∈ [fetching, draining, draining.modSlot 0 fun e => { e with faultMark := true },
          draining.modSlot 0 fun e => { e with cancelRequested := true }],
        flushes s 0 [] = true ∧ (s.slot 0).state = .active ∧ flushEnds s = false) ∧
      (let s := draining.modSlot 0 fun e => { e with state := .retiring, status := some .done };
        flushes s 0 [] = true ∧ (s.slot 0).state = .retiring ∧ (s.slot 0).jobs ≠ 0) ∧
      let s := records 64 [0] (held0 0 pausedQueue)
      flushes s 0 [1] = true ∧ (s.slot 0).state = .retiring ∧ (0 : PointId) ∈ s.cu.held ∧
        (s.slot 0).status = some .done ∧ CompletionIsDue (s.slot 0) .done := by decide +kernel

theorem witness_InspectPointReportsThePoint :
    deaf (point63 .ready) = false ∧ ((point63 .ready).param 0).toNat % 256 = (63 : PointId).val := by decide +kernel

/-- One byte too long, a FETCH of nothing, one byte past the top of memory; a queue at its limit; an empty pool. -/
theorem witness_PostExchangeChecksInOrder :
    (let s (a n : Word) := params 0 a n 0 (point 0 .fetch .async .ready State.reset);
      deaf (s 0 0) = false ∧ ((s 0 0).param 0).toNat % 256 = (0 : PointId).val ∧
        ((s 0 0).point 0).state ≠ .disabled ∧ ((s 0 0).point 0).state ≠ .closing ∧
        32768 < ((s 0 32769).param 2).toNat ∧ ((s 0 0).param 2).toNat = 0 ∧
        2 ^ 32 < ((s 0xFFFFFFFF 2).param 1).toNat + ((s 0xFFFFFFFF 2).param 2).toNat) ∧
      (let s := (params 0 0 1 0 (point 0 .fetch .async .ready State.reset)).setQueue 0 (List.replicate 16 0);
        takes0 s = true ∧ (s.point 0).state = .ready ∧ (s.param 2).toNat = 1 ∧ (s.param 1).toNat + 1 ≤ 2 ^ 32 ∧
          (s.point 0).cfg.queueLimit ≤ (s.queue 0).length) ∧
      (let s := params 0 0 1 0 (point 0 .fetch .async .ready { State.reset with
          sp := { State.reset.sp with freeList := [] } });
        takes0 s = true ∧ (s.point 0).state = .ready ∧ (s.param 2).toNat = 1 ∧ (s.param 1).toNat + 1 ≤ 2 ^ 32 ∧
          (s.queue 0).length < (s.point 0).cfg.queueLimit ∧ s.sp.freeList = []) := by decide +kernel

/-- 32,768 bytes that end at the top of memory. -/
theorem witness_PostExchangeTakesTheFirstFreeSlot :
    let s := params 0 0xFFFF8000 0x8000 0 (point 0 .fetch .async .ready { State.reset with
      sp := { State.reset.sp with freeList := [255] } })
    deaf s = false ∧ (s.param 0).toNat % 256 = (0 : PointId).val ∧ (s.point 0).state = .ready ∧
      (s.param 2).toNat ≤ 32768 ∧ (s.param 2).toNat ≠ 0 ∧ (s.param 1).toNat + (s.param 2).toNat ≤ 2 ^ 32 ∧
      (s.queue 0).length < (s.point 0).cfg.queueLimit ∧ s.sp.freeList = (255 : SlotId) :: [] := by decide +kernel

/-- A QUEUED exchange, first and behind another, with nothing due, with the last place of the ring, and with none; one whose
queue goes on with a cancelled one, in a READY and in a CLOSING point; and an ACTIVE one with a STAGED buffer. -/
theorem witness_CancelRemovesAQueuedExchange :
    (∀ s ∈ [pausedQueue, records 63 [] (notifying 0 pausedQueue), records 64 [] (notifying 0 pausedQueue),
        pausedQueue.modSlot 1 fun e => { e with cancelRequested := true },
        (pausedQueue.modSlot 1 fun e => { e with cancelRequested := true }).modPoint 0
          fun q => { q with state := .closing }],
      cancels0 s = true ∧ (s.slot 0).state = .queued ∧ (s.point 0).staged = none ∧ s.first 0 = some (0 : SlotId) ∧
        (s.slot 0).jobs = 0 ∧ (0 : PointId) ∉ s.cu.held ∧ (s.queue 0).erase 0 = [1] ∧ (1 : SlotId) ≠ 0 ∧
        waits s 0 1 = true) ∧
      (∀ n ∈ [63, 64],
        let s := records n [] (notifying 0 (exchange 0 0 .queued (exchange 1 0 .active (point 0 .store .async .paused
          State.reset))))
        cancels0 s = true ∧ (s.slot 0).state = .queued ∧ (s.point 0).staged = none ∧ s.first 0 = some (1 : SlotId) ∧
          ((s.queue 0).erase 0).head? = some (1 : SlotId) ∧ (s.slot 1).state = .active ∧ (s.slot 1).faultMark = false ∧
          (s.slot 1).cancelRequested = false ∧ ((s.slot 0).notify = true ∧ 64 ≤ s.cu.count ↔ n = 64)) ∧
      cancels0 staged0 = true ∧ (staged0.slot 0).state = .active ∧ leads staged0 0 0 [1] = true ∧
      inFlight staged0 0 = false ∧ ((stagedFreed staged0 0 0).slot 0).jobs = 0 := by decide +kernel

/-- Slot 256, the first that is too large, and slot 255 in both views. -/
theorem witness_InspectSlotReportsTheSlot :
    deaf (params 256 0 0 0 State.reset) = false ∧ 255 < ((params 256 0 0 0 State.reset).param 0).toNat % 65536 ∧
      ((params 255 0 0 0 State.reset).param 0).toNat % 65536 = (255 : SlotId).val ∧
      ((params 255 0 0 0 State.reset).param 1).getLsbD 0 = false ∧
      ((params 255 1 0 0 State.reset).param 1).getLsbD 0 = true := by decide +kernel

/-- Residue 128, the first that is too large, and residue 127. -/
theorem witness_InspectLoadReportsTheResidue :
    deaf (params 128 0 0 0 State.reset) = false ∧ 127 < ((params 128 0 0 0 State.reset).param 0).toNat % 256 ∧
      ((params 127 0 0 0 State.reset).param 0).toNat % 256 = (127 : Residue).val := by decide +kernel

/-- The least legal parameters, L one less, the segment up, and a periodic list that is not empty. -/
theorem witness_SetSegmentParametersChecksAndReturns :
    (let s := params 0x11100500 0 0 0 State.reset;
      deaf s = false ∧ s.sc.state = .down ∧ s.fs.periodic = [] ∧ 1280 ≤ (s.param 0).toNat % 65536 ∧
        16 ≤ (s.param 0).toNat / 65536 % 256 ∧ 1 ≤ (s.param 0).toNat / 2 ^ 24 % 16 ∧
        1 ≤ (s.param 0).toNat / 2 ^ 28 % 16) ∧
      ¬ 1280 ≤ ((params 0x111004FF 0 0 0 State.reset).param 0).toNat % 65536 ∧ running.sc.state ≠ .down ∧
      { State.reset.fs with periodic := [(0 : PointId)] }.periodic ≠ [] := by decide +kernel

theorem witness_StartSegmentEntersResetting : deaf State.reset = false ∧ State.reset.sc.state = .down := ⟨rfl, rfl⟩

/-- A running segment with nothing queued, and one with two ACTIVE exchanges. -/
theorem witness_StopSegmentEntersDown :
    (∀ s ∈ [running, twoActive], deaf s = false ∧ s.sc.state ≠ .down ∧ s.le.txn = none) ∧ ActivesLead twoActive :=
  ⟨by decide +kernel, fun _ _ _ h a => activesLead_of (by decide +kernel) h a⟩

theorem witness_ResetSegmentEntersResetting :
    (∀ s ∈ [running, twoActive], deaf s = false ∧ s.sc.state = .running ∧ s.le.txn = none) ∧ ActivesLead twoActive :=
  ⟨by decide +kernel, fun _ _ _ h a => activesLead_of (by decide +kernel) h a⟩

/-- Number 256, the first that is too large; slot 255 in every state, and its marks; slot 0 with its transaction in flight,
and with a drain job outstanding. -/
theorem witness_CancelOutcomesByTheSlot :
    (deaf (params 256 0 0 0 State.reset) = false ∧ 255 < ((params 256 0 0 0 State.reset).param 0).toNat % 65536) ∧
      (∀ g ∈ [SlotState.free, .queued, .active, .retiring], ∀ c ∈ [false, true], ∀ f ∈ [false, true],
      let s := (params 255 0 0 0 State.reset).setSlot 255 { Slot.free with
        state := g, point := some 0, cancelRequested := c, faultMark := f }
      deaf s = false ∧ (s.param 0).toNat % 65536 = (255 : SlotId).val ∧ (s.slot 255).state = g ∧
        (s.slot 255).point ≠ none ∧ (s.slot 255).cancelRequested = c ∧ (s.slot 255).faultMark = f) ∧
      (∀ s ∈ [fetching, draining], cancels0 s = true ∧ (s.slot 0).state = .active ∧ leads s 0 0 [] = true) ∧
      inFlight fetching 0 = true ∧ ((stagedFreed draining 0 0).slot 0).jobs ≠ 0 := by decide +kernel

/-- Taken with a FETCH in flight; and at the end of a FETCH answered DEFER with another exchange ACTIVE, with each waiting
transition, in HALTING, and with neither. -/
theorem witness_ResetAndStopWaitForTheTransaction :
    (deaf fetching = false ∧ fetching.le.txn ≠ none ∧ fetching.sc.state ≠ .down ∧ fetching.sc.state = .running) ∧
      ∀ v ∈ closings,
        let s := closing v (withPoint1 (receiving .receiving 64 false))
        underway s (txn0 .fetch (some 130) (some (64, false))) [1] = true ∧ s.le.state = .receiving ∧
          s.fs.elapsed ≤ 130 + 38 ∧ activesLead s = true ∧ s.sc.waiting = v.1 ∧ s.sc.state = v.2 ∧
          (after (.transactionEnd []) s fun _ => true) = some true := by decide +kernel

theorem witness_HaltSegmentHaltsOrWaits :
    deaf running = false ∧ running.sc.state = .running ∧ running.le.txn = none ∧ fetching.sc.state = .running ∧
      fetching.le.txn ≠ none := by decide +kernel

theorem witness_ResumeSegmentRunsUnlessMoverFaulted :
    deaf (running.setSeg .halted) = false ∧ (running.setSeg .halted).sc.state = .halted ∧
      (running.setSeg .halted).pm.state ≠ .faulted ∧
      { running.setSeg .halted with pm := { Mover.reset with state := .faulted } }.pm.state = .faulted := by
  decide +kernel

/-- A suspended segment that watches the line, the hold at its beginning, one short of its end and reported. -/
theorem witness_SuspendAndWakeMoveTheSegment :
    deaf running = false ∧ running.sc.state = .running ∧
      (∀ l ∈ [LineState.marking, .idle], ∀ n ∈ [0, 99, 100], ∀ w ∈ [false, true],
        (watching l n w).sc.state = .suspended ∧ (watching l n w).le.state = l ∧ (watching l n w).le.lowBits = n ∧
          (watching l n w).le.lowBits ≤ 100 ∧ (watching l n w).sc.params.autoWake = w) ∧
      0 + 99 < 100 ∧ 100 ≤ 99 + 1 ∧ running.sc.state ≠ .suspended := by decide +kernel

theorem witness_SegmentCommandsCheckTheState :
    ((0x21#8, Instr.startSegment, [SegState.down]) ∈ [(0x21#8, Instr.startSegment, [SegState.down])]) ∧
      deaf running = false ∧ running.sc.state ∉ [SegState.down] := by decide +kernel

/-- Addresses 0 and 31, and station 30 in each presence. -/
theorem witness_ClearStationClearsTheEntry :
    deaf State.reset = false ∧ (State.reset.param 0).toNat % 256 = 0 ∧
      30 < ((params 31 0 0 0 State.reset).param 0).toNat % 256 ∧
      ∀ x ∈ [Presence.absent, .present, .lost], ∀ a ∈ [false, true],
        let s := (params 30 0 0 0 State.reset).setStation 29 { Station.reset with presence := x, answered := a }
        (s.param 0).toNat % 256 = (29 : StationId).val + 1 ∧ (s.station 29).presence = x ∧
          (s.station 29).answered = a := by decide +kernel

/-- FAULTED with empty queues, with a drain job, with a stage job and with both; and IDLE. -/
theorem witness_ResumeMoverClearsTheFault :
    deaf State.reset = false ∧ State.reset.pm.state ≠ .faulted ∧
      ∀ q ∈ [([], []), ([7], []), ([], [(7 : BufId)]), ([7], [6])],
        let s := { State.reset with pm := { Mover.reset with state := .faulted, drainQueue := q.1, stageQueue := q.2 } }
        s.pm.state = .faulted ∧ s.pm.drainQueue = q.1 ∧ s.pm.stageQueue = q.2 := by decide +kernel

theorem witness_ResetControllerResetsOrWaits :
    deaf running = false ∧ running.pm.state ≠ .burst ∧ deaf bursting = false ∧ bursting.pm.state = .burst := by
  decide +kernel

/-- Presentation FFh outstanding with one cause gathered; ATTN in its release interval, and ALARM in its own. -/
def presenting : State :=
  { State.reset with eu := { EventUnit.reset with
      presented := 0x0001, gathered := 0x0002, number := 0xFF, attn := .interval, alarm := .interval } }

theorem witness_EventAckMovesTheGatheredSetIn :
    deaf presenting = false ∧ presenting.eu.presented ≠ 0 ∧
      (0xAAAAAAFF#32).toNat % 256 = presenting.eu.number.toNat ∧
      ¬ (State.reset.eu.presented ≠ 0 ∧ (0#32).toNat % 256 = State.reset.eu.number.toNat) ∧
      presenting.eu.attn = .interval ∧ presenting.eu.alarm = .interval := by decide +kernel

/-- A full ring with nothing held, released to the last record and by one more. -/
theorem witness_CompletionReleaseAdvancesTheTail :
    let s := { State.reset with cu := { CompletionUnit.reset with count := 64 } }
    deaf s = false ∧ s.cu.held = [] ∧ s.cu.count ≤ 64 ∧ (64#32).toNat ≤ s.cu.count ∧ s.cu.count < (65#32).toNat := by
  decide +kernel

/-- What a release leaves before its posting walk. -/
def released (w : Word) (s : State) : State :=
  let n := min w.toNat s.cu.count
  { s with
    cu := { s.cu with tail := s.cu.tail + Fin.ofNat 64 n, count := s.cu.count - n }
    eu := if s.cu.count < w.toNat then s.eu.take s.hw.config .accessFault else s.eu
    hw := if s.cu.count < w.toNat then
      { s.hw with access := { s.hw.access with releaseExcess := true } } else s.hw }

/-- A full ring with points 0 and 1 held, a cancelled exchange behind the first: nothing, one record, two, and the whole ring
with an excess of one released. -/
theorem witness_CompletionReleaseWalksTheHeldPoints :
    deaf twoHeld = false ∧ twoHeld.cu.held ≠ [] ∧ (twoHeld.slot 1).cancelRequested = true ∧
      ∀ n ∈ [0, 1, 2, 65], ∃ u, PostingWalk (released (BitVec.ofNat 32 n) twoHeld) u :=
  have h : ∀ n ∈ [0, 1, 2, 65], (walked 4 (released (BitVec.ofNat 32 n) twoHeld)).isSome = true := by decide +kernel
  ⟨by decide +kernel, by decide +kernel, by decide +kernel, fun n hn => walked_of (h n hn)⟩

/-- A write that changes a line enable, and one that does not; a line in each condition. -/
theorem witness_ConfigurationWritesReplaceTheirFields :
    deaf presenting = false ∧
      (after (.hostConfigWrite 0x00010000) presenting fun t => t.hw.config.attnEnable) = some true ∧
      (after (.hostConfigWrite 0x01000000) presenting fun t => t.hw.config.attnEnable) = some false ∧
      presenting.hw.config.attnEnable = false ∧ presenting.eu.line .attn = .interval ∧
      State.reset.eu.line .attn ≠ .interval := by decide +kernel

theorem witness_ParameterWordsAndUnknownCodes :
    deaf State.reset = false ∧ (3 : Fin 4) ≠ 0 ∧ (Instr.unknownCommand 0xFF).wellFormed = true ∧
      (Instr.unknownCommand 0x00).wellFormed = true := by decide

theorem witness_AccessFaultsAreReported :
    deaf State.reset = false ∧ ((0x7F#7).toNat % 4 ≠ 0 ∨ 0xF#4 ≠ 0xF#4) ∧
      ((0x00#7).toNat % 4 ≠ 0 ∨ 0xE#4 ≠ 0xF#4) := by decide

theorem witness_DeviceResetResetsEveryBlock :
    (after .deviceReset State.reset fun t => t.hw.resetPin) = some true := by decide +kernel

theorem witness_WindowWritesAreIgnoredWhenDeaf :
    (after .resetController bursting fun t => t.hw.access.resetPending) = some true ∧
      (after .deviceReset State.reset fun t => t.hw.resetPin) = some true := by decide +kernel

/-- MOVER_FAULT, a cause with both enables off, and a reported one, with nothing presented and with a set presented; a line
in its release interval with nothing presented. -/
theorem witness_OccurrencesArePresentedGatheredOrQuiet :
    EventUnit.reset.reportEnable.getLsbD Cause.moverFault.num = true ∧
      EventUnit.reset.reportEnable.getLsbD Cause.frameTick.num = false ∧
      Cause.frameTick ∉ [Cause.stationDetached, .stationLost, .addressClash, .pointHalted, .periodicMiss] ∧
      EventUnit.reset.presented = 0 ∧ presenting.eu.presented ≠ 0 ∧ EventUnit.reset.line .attn ≠ .interval ∧
      { EventUnit.reset with attn := .interval }.presented = 0 ∧
      { EventUnit.reset with attn := .interval }.line .attn = .interval := by decide

/-- In MARKING at elapsed time 64: a due PERIODIC FETCH point 0, and the ASYNC FETCH point 1 alone in the ring. -/
def atMark (due : List PointId) : State :=
  let s := exchange 1 1 .queued (point 1 .fetch .async .ready
    (exchange 0 0 .queued (point 0 .fetch .periodic .ready (present (line .running .marking true 64 State.reset)))))
  { s with fs := { s.fs with due := due, ring := [1], pointer := some 1 } }

theorem witness_MarkEndChoosesDueThenRing :
    (∀ d ∈ [[], [(0 : PointId)]],
      (atMark d).le.state = .marking ∧ (atMark d).fs.running = true ∧ (atMark d).fs.elapsed ≤ 64 ∧
        (atMark d).fs.ring.Nodup ∧ (atMark d).fs.due = d ∧ (atMark d).fs.pointer = some 1 ∧
        (atMark d).fs.ring = [1] ∧ (atMark d).sc.state = .running) ∧
      (∀ p ∈ [(0 : PointId), 1],
        let s := atMark [0]
        let x : SlotId := ⟨p.val, by omega⟩
        (s.point p).state = .ready ∧ (s.station (s.point p).cfg.station).presence = .present ∧ s.first p = some x ∧
          (s.slot x).state = .queued ∧ (s.slot x).cancelRequested = false ∧ (s.slot x).faultMark = false ∧
          (s.slot x).bytesLine < (s.slot x).length ∧ (s.point p).deferCount = 0 ∧
          (s.point p).cfg.direction = .fetch ∧ (s.buffer 0).state = .free ∧
          64 + (152 + 10 * (s.point p).cfg.maxPayload.bytes + s.sc.params.replyTimeout) + 168 ≤
            s.sc.params.frameLength) ∧
      ((atMark []).setSeg .halted).sc.state = .halted ∧
      (line .running .marking true 64 State.reset).fs.pointer = none := by decide +kernel

/-- At L - 168: point 0 due with an exchange, its PERIODIC_MISS halting. -/
theorem witness_CensusStartChargesTheMisses :
    let s : State :=
      { (atMark [0]).setLine .idle with
        fs := { (atMark [0]).fs with elapsed := 3832 }, eu := { EventUnit.reset with haltEnable := 0x2200 } }
    s.le.state = .idle ∧ s.fs.running = true ∧ s.fs.elapsed + 168 ≤ s.sc.params.frameLength ∧ s.fs.due.Nodup ∧
      s.eu.haltRequest = false ∧ s.le.txn = none ∧ [(0 : PointId)].Nodup ∧ s.fs.due = [0] ∧
      (s.point 0).state = .ready ∧ (s.station (s.point 0).cfg.station).presence = .present ∧ firstOffers s 0 = true ∧
      s.eu.haltEnable.getLsbD 9 = true ∧ s.sc.state = .running := by decide +kernel

theorem witness_FramesOpenByTheSegmentState :
    (∀ g ∈ [SegState.running, .halted, .suspending],
      let l := line g .census true 4000 State.reset
      let s := { l with le := { l.le with slotsRead := 30 } }
      s.le.state = .census ∧ s.fs.running = true ∧ s.fs.elapsed ≤ s.sc.params.frameLength ∧ s.sc.state = g ∧
        s.le.slotsRead = 30) ∧
      ∀ g ∈ [SegState.resetting, .waking],
        (line g .signalling false 0 State.reset).le.state = .signalling ∧
          (line g .signalling false 0 State.reset).sc.state = g := by decide +kernel

theorem witness_CensusAnswersMakeAStationPresent :
    let s := lastSlot Station.reset
    s.le.state = .census ∧ s.fs.running = true ∧
      s.fs.elapsed ≤ s.sc.params.frameLength - 130 + 4 * ((29 : StationId).val + 1) ∧
      s.le.slotsRead = (29 : StationId).val ∧ s.eu.haltRequest = false ∧ s.le.txn = none ∧
      (⟨false, false, false, false⟩ : SlotLevels) ≠ ⟨true, true, true, true⟩ ∧
      (⟨false, false, false, false⟩ : SlotLevels) ≠ ⟨false, false, true, true⟩ ∧
      (⟨false, false, false, false⟩ : SlotLevels) ≠ ⟨false, true, false, true⟩ ∧ (s.station 29).clash = false ∧
      s.eu.haltEnable.getLsbD 6 = true ∧ s.sc.state = .running ∧
      { s with sc := { s.sc with state := .halted } }.sc.state = .halted := by decide +kernel

/-- One silence short of the detach count 4, and at it, with no point bound; at it with one READY point bound whose first
exchange is ACTIVE, with one that is PAUSED and has none, and with two whose first exchanges are ACTIVE, one CLOSING. -/
theorem witness_CensusSilenceDetachesAtTheCount :
    (∀ n ∈ [2, 3],
      let s := lastSlot { Station.reset with presence := .present, silent := n }
      s.le.state = .census ∧ s.fs.running = true ∧
        s.fs.elapsed ≤ s.sc.params.frameLength - 130 + 4 * ((29 : StationId).val + 1) ∧
        s.le.slotsRead = (29 : StationId).val ∧ (s.station 29).presence = .present ∧
        (s.sc.params.detachCount ≤ min 15 ((s.station 29).silent + 1) ↔ n = 3)) ∧
      ∀ s ∈ [boundLast .ready (exchange 0 0 .active), boundLast .paused id, boundTwo],
        s.le.state = .census ∧ s.fs.running = true ∧
          s.fs.elapsed ≤ s.sc.params.frameLength - 130 + 4 * ((29 : StationId).val + 1) ∧
          s.le.slotsRead = (29 : StationId).val ∧ (s.station 29).presence ≠ .absent ∧
          s.sc.params.detachCount ≤ min 15 ((s.station 29).silent + 1) ∧ s.le.txn = none ∧ activesLead s = true := by
  decide +kernel

/-- Each moment of a transaction that began at 64, at its own elapsed time; an answer at the last bit time of T. -/
theorem witness_TransactionMomentsMoveTheLineEngine :
    (∀ l ∈ [LineState.requesting, .sendingData, .awaitReply, .awaitAnswer], ∀ d ∈ [Direction.fetch, .store],
      let s := inTxn (txn0 d none none) l running
      s.le.txn = some (txn0 d none none) ∧ s.fs.running = true ∧ s.le.state = l ∧ s.fs.elapsed ≤ 64 + 58 ∧
        64 ≤ s.sc.params.replyTimeout) ∧
      running.le.state ≠ .awaitReply ∧ running.le.state ≠ .awaitAnswer := by decide +kernel

/-- The answer of a 64-byte FETCH, begun at 130: the full payload. -/
theorem witness_FetchDataIsReceivedIntoTheBuffer :
    let s := inTxn (txn0 .fetch (some 130) none) .receiving running
    s.le.state = .receiving ∧ s.le.txn = some (txn0 .fetch (some 130) none) ∧
      (List.replicate 64 (0xA5 : Byte)).length ≤ 64 ∧ s.fs.running = true ∧ s.fs.elapsed ≤ 130 + 48 + 10 * 64 := by
  decide +kernel

theorem witness_PacketsReadBackAsSent :
    (List.replicate 255 (0xA5 : Byte)).length < 256 ∧ (List.replicate 64 (0xA5 : Byte)).length ≤ 64 ∧
      64 < (List.replicate 65 (0xA5 : Byte)).length ∧ ReplyCode.defer ≠ .accept := by decide +kernel

/-- A packet that is the last of its exchange, and one that is not, with each waiting transition, in HALTING and with
neither. -/
theorem witness_StoreAcceptCountsThePacket :
    ∀ n ∈ [64, 65], ∀ v ∈ closings,
      let s := closing v (storing n)
      underway s (txn0 .store (some 900) none) [1] = true ∧ s.le.state = .awaitReply ∧
        s.fs.elapsed ≤ 900 + 38 ∧ s.sc.waiting = v.1 ∧ s.sc.state = v.2 ∧ activesLead s = true ∧
        ((s.slot 0).length ≤ (s.slot 0).bytesLine + 64 ↔ n = 64) := by
  decide +kernel

/-- A full packet, a short one, the last one; a mark; and the other sequence bit. -/
theorem witness_FetchDataJoinsTheDrainQueue :
    (∀ k ∈ [0, 63, 64], ∀ q ∈ [false, true],
      let s := receiving .acknowledging k q
      underway s (txn0 .fetch (some 130) (some (k, q))) [1] = true ∧ s.le.state = .acknowledging ∧
        s.fs.elapsed ≤ 130 + 94 + 10 * k ∧ (s.slot 0).cancelRequested = false ∧ (s.slot 0).faultMark = false ∧
        (s.slot 0).bytesLine + k < (s.slot 0).length ∧ (k < 64 ↔ k ≠ 64)) ∧
      (∀ v ∈ closings,
        let s := closing v (receiving .acknowledging 64 false)
        underway s (txn0 .fetch (some 130) (some (64, false))) [1] = true ∧ activesLead s = true ∧ s.sc.waiting = v.1 ∧
          s.sc.state = v.2) ∧
      (let s := (receiving .acknowledging 64 false).modSlot 0 fun e => { e with length := 64 };
        underway s (txn0 .fetch (some 130) (some (64, false))) [1] = true ∧
          (s.slot 0).length ≤ (s.slot 0).bytesLine + 64) ∧
      (let s := (receiving .acknowledging 64 false).modSlot 0 fun e => { e with cancelRequested := true };
        underway s (txn0 .fetch (some 130) (some (64, false))) [1] = true ∧ (s.slot 0).cancelRequested = true) := by
  decide +kernel

/-- Silence below the silence limit 3 and at it, with the attempt limit 3 reached and not, with another ACTIVE exchange of the
station, and with each waiting transition; a broken REPLY, an answer of the wrong kind, a DATA over the requested length, and
DEFER. -/
theorem witness_SilenceAndDeferOutcomes :
    (∀ n ∈ [1, 2], ∀ e ∈ [1, 2],
      let s := withPoint1 (((receiving .awaitAnswer 64 false).modStation 4 fun x => { x with streak := n }).modSlot 0
        fun y => { y with errors := e })
      underway s (txn0 .fetch (some 130) (some (64, false))) [1] = true ∧ s.le.state = .awaitAnswer ∧
        s.fs.elapsed ≤ 64 + 58 + s.sc.params.replyTimeout ∧
        (s.sc.params.silenceLimit ≤ min 15 ((s.station 4).streak + 1) ↔ n = 2) ∧ (s.station 4).presence = .present ∧
        (s.point 1).cfg.station = (4 : StationId) ∧ activesLead s = true ∧
        ((s.point 0).cfg.attemptLimit ≤ (s.slot 0).errors + 1 ↔ e = 2)) ∧
      (∀ v ∈ closings,
        let s := closing v (withPoint1 (receiving .awaitAnswer 64 false))
        underway s (txn0 .fetch (some 130) (some (64, false))) [1] = true ∧ activesLead s = true ∧ s.sc.waiting = v.1 ∧
          s.sc.state = v.2) ∧
      (let s := storing 200;
        underway s (txn0 .store (some 900) none) [1] = true ∧ s.le.state = .awaitReply ∧ s.fs.elapsed ≤ 900 + 38 ∧
          storeAnswer [] = .check false ∧ storeAnswer Packet.census.levels = .check true) ∧
      (let s := inTxn (txn0 .store none none) .awaitReply (storing 200);
        underway s (txn0 .store none none) [1] = true ∧ s.le.state = .awaitReply) ∧
      (let s := receiving .receiving 64 false;
        underway s (txn0 .fetch (some 130) (some (64, false))) [1] = true ∧ s.le.state = .receiving ∧
          s.fs.elapsed ≤ 130 + 38) ∧
      fetchAnswer 64 (Packet.reply .accept).levels = (.check true, 38) ∧ (fetchAnswer 64 []).1 = .check false ∧
      fetchAnswer 64 (Packet.data false (List.replicate 65 0)).levels = (.overlength, 688) := by decide +kernel

theorem witness_RefuseEndsTheExchangeAndHaltsThePoint :
    ∀ v ∈ closings,
      (let s := closing v (receiving .receiving 64 false);
        underway s (txn0 .fetch (some 130) (some (64, false))) [1] = true ∧ s.le.state = .receiving ∧
          s.fs.elapsed ≤ 130 + 38 ∧ s.sc.waiting = v.1 ∧ s.sc.state = v.2 ∧ activesLead s = true) ∧
      let s := closing v (storing 200)
      underway s (txn0 .store (some 900) none) [1] = true ∧ s.le.state = .awaitReply ∧ s.fs.elapsed ≤ 900 + 38 ∧
        activesLead s = true := by decide +kernel

/-- Buffers can hold any bytes. -/
theorem exists_filled (f : Fin 64 → Byte) : ∃ data : Vector Byte 64, ∀ i : Fin 64, data[i] = f i :=
  ⟨Vector.ofFn f, fun i => by simp⟩

/-- The burst chosen for two bytes past a word boundary. -/
theorem chosen_unaligned : BurstChosen 16 0x1002 64 ⟨0x1002, 1, 2⟩ := by
  simp only [BurstChosen]
  decide

/-- What the statement asks of a job in its last burst. -/
def lastBurst (s : State) (k : JobKind) (rest : List SlotId) : Bool :=
  decide (s.pm.state = .burst ∧ s.hw.access.resetPending = false ∧ (s.pm.job.map fun j => (j.kind, j.slot, j.remaining)) =
    some (k, 0, 16) ∧ (s.pm.burst.map fun b => b.bytes) = some 16 ∧ (s.buffer 0).point = some (0 : PointId) ∧
    (s.buffer 0).slot = some (0 : SlotId)) && leads s 0 0 rest

/-- In WAIT_GRANT; in BURST with bytes left, at the retry limit and one below it; in the last burst of a drain and of a
stage job, of an exchange that goes on, of one that is cancelled, of one in flight, and of a RETIRING one. -/
theorem witness_BurstsMoveAJobToItsEnd :
    bursting.pm.job.isSome = true ∧ bursting.pm.burst.isSome = true ∧ bursting.hw.access.resetPending = false ∧
      { bursting with pm := { bursting.pm with state := .waitGrant } }.pm.state = .waitGrant ∧
      bursting.pm.state = .burst ∧ 16 < 64 ∧ 1 ≤ 3 ∧ 3 < 4 ∧ 14 + 1 < bursting.hw.config.busRetryLimit ∧
      (draining.pm.job.map fun j => (j.kind, j.moved)) = some (.drain, 48) ∧
      (∀ s ∈ [draining, draining.modSlot 0 fun e => { e with cancelRequested := true }],
        lastBurst s .drain [] = true ∧ (s.slot 0).state = .active ∧ inFlight s 0 = false) ∧
      (∀ s ∈ [staging, staging.modSlot 0 fun e => { e with cancelRequested := true }],
        lastBurst s .stage [] = true ∧ (s.slot 0).state = .active ∧ inFlight s 0 = false) ∧
      (let s := inTxn (txn0 .fetch none none) .awaitAnswer draining;
        lastBurst s .drain [] = true ∧ (s.slot 0).state = .active ∧ inFlight s 0 = true) ∧
      let s := draining.modSlot 0 fun e => { e with state := .retiring, status := some .short }
      lastBurst s .drain [] = true ∧ (s.slot 0).state = .retiring ∧ (s.slot 0).status = some .short := by decide +kernel

/-- The fifteenth retry has been answered; the sixteenth, or an error, faults the job. The exchange is ACTIVE with and
without its transaction in flight, and RETIRING; one has a second drain job queued. -/
theorem witness_BusErrorsFaultTheJob :
    bursting.pm.state = .burst ∧ bursting.pm.burst.isSome = true ∧ bursting.hw.access.resetPending = false ∧
      (bursting.pm.job.map fun j => (j.buffer, j.slot, j.retries)) = some (0, 0, 15) ∧
      bursting.hw.config.busRetryLimit ≤ 15 + 1 ∧
      (∀ s ∈ [bursting, twoDrains, inTxn (txn0 .fetch none none) .awaitAnswer draining,
          draining.modSlot 0 fun e => { e with state := .retiring, status := some .short }],
        leads s 0 0 [] = true ∧ (s.buffer 0).slot = some (0 : SlotId) ∧ (s.buffer 0).point = some (0 : PointId) ∧
          (s.point 0).staged = none ∧
          (let others := (s.pm.drainQueue ++ s.pm.stageQueue).filter fun i => decide ((s.buffer i).slot = some (0 : SlotId));
            (0 : BufId) ∉ others ∧ others.Nodup ∧ ∀ i ∈ others, (s.buffer i).point = some (0 : PointId))) ∧
      (bursting.slot 0).state = .active ∧ inFlight bursting 0 = false ∧ twoDrains.pm.drainQueue = [1] ∧
      inFlight (inTxn (txn0 .fetch none none) .awaitAnswer draining) 0 = true := by decide +kernel

/-- From reset, the front command writes a report enable. -/
def enabling : State := { State.reset with pending := [.reportEnableWrite 0] }

theorem witness_EventInvariantKept :
    EventSetsAgree enabling ∧ FixedEnables enabling ∧ (∀ l, enabling.eu.lineDue enabling.hw.config l = false) ∧
      (∀ l, enabling.eu.line l = .released) ∧
      (match step enabling with | .next t => decide (t.eu.reportEnable = 0x2000) | _ => false) = true := by
  refine ⟨by decide +kernel, by decide +kernel, fun l => ?_, fun l => ?_, by decide +kernel⟩ <;> cases l <;> rfl

theorem witness_SegmentInvariantKept :
    SegmentAgrees { State.reset with pending := [.startSegment] } ∧
      (match step { State.reset with pending := [.startSegment] } with
        | .next t => decide (t.sc.state = .resetting) | _ => false) = true := by decide +kernel

theorem witness_RecordInvariantsKept :
    CountsInRange bursting ∧ RingAgrees bursting ∧ HaltCausesAgree bursting ∧ BindingsAgree bursting ∧
      MoverAgrees bursting ∧ FreeBuffersEmpty bursting ∧ HaltRequestsTaken bursting ∧
      (match step { bursting with pending := [.burstRetry] } with
        | .next t => decide (t.pm.state = .faulted) | _ => false) = true :=
  ⟨by decide +kernel, by decide +kernel, by decide +kernel, by decide +kernel, by decide +kernel, by decide +kernel,
    by decide +kernel, by decide +kernel⟩

/-- A free list, and CANCEL EXCHANGE waiting. -/
def withFreeList (l : List SlotId) (s : State) : State :=
  { s with sp := { s.sp with freeList := l }, pending := [.cancelExchange] }

/-- The state right after reset but for a FETCH exchange of point 0, QUEUED in slot 0; CANCEL EXCHANGE waits. -/
def posted : State :=
  withFreeList ((List.finRange 256).erase 0) (exchange 0 0 .queued (point 0 .fetch .async .ready State.reset))

theorem withFreeList_views (l : List SlotId) (s : State) (x : SlotId) (p : PointId) (b : BufId) :
    (withFreeList l s).slot x = s.slot x ∧ (withFreeList l s).queue p = s.queue p ∧
      (withFreeList l s).point p = s.point p ∧ (withFreeList l s).buffer b = s.buffer b := ⟨rfl, rfl, rfl, rfl⟩

theorem posted_slot (x : SlotId) :
    posted.slot x = if 0 = x then { Slot.free with state := .queued, point := some 0, length := 200 } else Slot.free := by
  rw [posted, (withFreeList_views _ _ x 0 0).1, exchange, State.setQueue_slot, State.slot_setSlot, point,
    State.setPoint_slot, State.reset_slot]

theorem posted_queue (p : PointId) : posted.queue p = if 0 = p then [0] else [] := by
  rw [posted, (withFreeList_views _ _ 0 p 0).2.1, exchange, State.queue_setQueue, State.setSlot_queue, point,
    State.setPoint_queue, State.setPoint_queue, State.reset_queue, State.reset_queue]
  rfl

theorem posted_first (p : PointId) (x : SlotId) : posted.first p = some x ↔ p = 0 ∧ x = 0 := by
  rw [State.first, posted_queue]
  split <;> simp_all [eq_comm]

theorem posted_point (p : PointId) : (posted.point p).cfg.direction = .fetch ∧ (posted.point p).staged = none ∧
    (posted.point p).cfg.queueLimit = 16 ∧ (posted.point p).state = if 0 = p then .ready else .disabled := by
  rw [posted, (withFreeList_views _ _ 0 p 0).2.2.1, exchange, State.setQueue_point, State.setSlot_point, point,
    State.point_setPoint, State.reset_point]
  split <;> exact ⟨rfl, rfl, rfl, rfl⟩

theorem posted_buffer (b : BufId) : posted.buffer b = Buffer.reset := by
  rw [posted, (withFreeList_views _ _ 0 0 b).2.2.2, exchange, State.setQueue_buffer, State.setSlot_buffer, point,
    State.setPoint_buffer, State.reset_buffer]

theorem posted_freeList : posted.sp.freeList = (List.finRange 256).erase 0 := rfl

theorem mem_freeList (x : SlotId) : x ∈ posted.sp.freeList ↔ x ≠ 0 := by
  rw [posted_freeList, List.Nodup.mem_erase_iff (List.nodup_finRange 256)]
  exact ⟨And.left, fun h => ⟨h, List.mem_finRange x⟩⟩

/-- The pool invariant of a state that is not reset. -/
theorem posted_agrees : PoolAgrees posted where
  freeList := ⟨(List.nodup_finRange 256).erase 0, fun x => by
    rw [mem_freeList, posted_slot]; split <;> simp_all [Slot.free, eq_comm]⟩
  freeSlots x h := by rw [posted_slot] at h ⊢; split at h <;> simp_all
  queues p := by
    rw [posted_queue]
    refine ⟨by split <;> simp, fun x => ?_⟩
    rw [posted_slot]
    split <;> split <;> simp_all [Slot.free, eq_comm]
  owned x h := by rw [posted_slot] at h ⊢; split at h <;> simp_all [Slot.free]
  total := by
    rw [show (fun p => (posted.queue p).length) = fun p => if (0 : PointId) = p then 1 else 0 from
      funext fun p => by rw [posted_queue]; split <;> rfl]
    rw [posted_freeList, List.length_erase_of_mem (List.mem_finRange 0), List.length_finRange]
    decide
  limit p := by rw [posted_queue, (posted_point p).2.2.1]; split <;> simp
  service p := by
    obtain ⟨-, hs, -, hg⟩ := posted_point p
    rw [hs, hg, posted_queue]
    split <;> simp
  behind p x rest h := by
    rw [posted_queue] at h
    split at h <;> cases h
    nofun
  queued x _ := by rw [posted_slot]; split <;> simp [Slot.free]
  firstQueued p x _ _ := by rw [posted_slot]; split <;> rfl
  marked x h := by rw [posted_slot] at h; split at h <;> cases h
  retiring x h := by rw [posted_slot] at h; split at h <;> cases h
  status x := by rw [posted_slot]; split <;> simp [Slot.free]
  jobs x := by
    rw [posted_slot, List.countP_eq_zero.mpr fun b _ => by rw [posted_buffer]; simp [Buffer.reset]]
    split <;> rfl
  buffers := ⟨fun b _ => by rw [posted_buffer]; exact ⟨rfl, rfl, rfl, rfl⟩, fun b h => absurd (by rw [posted_buffer]; rfl) h⟩
  staged p b := by rw [(posted_point p).2.1, posted_buffer]; simp [Buffer.reset]
  stagedActive b x h := by rw [posted_buffer] at h; cases h
  six := by
    rw [List.countP_eq_zero.mpr fun b _ => by rw [posted_buffer]; simp [Buffer.reset]]
    decide
  receiving b := by
    rw [posted_buffer]
    exact ⟨nofun, fun ⟨_, h, _⟩ => nomatch h⟩
  txn t h := nomatch h
  stageJobs := ⟨.nil, fun b => by
    rw [posted_buffer]
    exact ⟨nofun, fun h => h.elim nofun fun ⟨_, h, _⟩ => nomatch h⟩⟩
  drainJobs := ⟨.nil, fun b => by
    rw [posted_buffer]
    exact ⟨nofun, fun h => h.elim nofun fun ⟨_, h, _⟩ => nomatch h⟩⟩
  job j h := nomatch h
  held := ⟨.nil, fun p => ⟨nofun, fun ⟨x, _, h, _⟩ => by rw [posted_slot] at h; split at h <;> cases h⟩⟩
  heldDue p x h := nomatch h
  heldFull h := absurd rfl h
  waits := ⟨.nil, fun p => ⟨nofun, fun h => nomatch (posted_point p).1.symm.trans h.2.1⟩⟩

theorem witness_PoolInvariantKept :
    PoolSound posted ∧ (match step posted with | .next t => decide (t.queue 0 = []) | _ => false) = true :=
  ⟨⟨by decide +kernel, by decide +kernel, by decide +kernel, fun _ => posted_agrees⟩, by decide +kernel⟩

/-- A PERIODIC point of period 4, enabled at position 0. -/
def scheduled : State :=
  let cfg : PointConfig := { PointConfig.default with kind := .periodic, period := 4, maxPayload := .b32 }
  match exec .enablePoint (State.reset.setPoint 0 { Point.reset with cfg := cfg }) with
  | .next t => t
  | _ => State.reset

/-- DISABLE POINT then takes it off the list and its cost out of the table. -/
theorem witness_SchedulerInvariantKept :
    SchedulerAgrees scheduled ∧ scheduled.fs.periodic = [0] ∧ scheduled.fs.load[(4 : Residue)] = 536 ∧
      (match step { scheduled with pending := [.disablePoint] } with
        | .next t => decide (t.fs.periodic = [] ∧ t.fs.load[(4 : Residue)] = 0) | _ => false) = true := by
  decide +kernel

end Sys2Proof.Tests
end

section
/-! SUPPORT. What freeing a buffer leaves of each record (R133). -/

namespace Sys2Proof.Machine

theorem freeBuffer_buffer (b c : BufId) (s : State) : (freeBuffer b s).buffer c =
    if b = c then { Buffer.reset with data := (s.buffer b).data } else s.buffer c := by
  rw [← State.buffer_setBuffer]
  unfold freeBuffer
  dsimp only
  cases (s.buffer b).slot <;> cases (s.buffer b).point <;> dsimp only <;> (try split) <;> rfl

theorem freeBuffer_slot (b : BufId) (x : SlotId) (s : State) : (freeBuffer b s).slot x =
    if (s.buffer b).slot = some x then { s.slot x with jobs := (s.slot x).jobs - 1 } else s.slot x := by
  have h2 : ∀ t : State, (match (s.buffer b).point with
      | some p => if (t.point p).staged = some b then t.modPoint p fun q => { q with staged := none } else t
      | none => t).slot x = t.slot x := by
    intro t
    split
    · split <;> rfl
    · rfl
  unfold freeBuffer
  refine (h2 _).trans ?_
  cases hs : (s.buffer b).slot with
  | none => rfl
  | some y =>
    by_cases h : y = x
    · subst h; simp [State.modSlot]
    · simp [State.modSlot, State.slot_setSlot, h]

theorem freeBuffer_point (b : BufId) (p : PointId) (s : State) : (freeBuffer b s).point p =
    if (s.buffer b).point = some p ∧ (s.point p).staged = some b then { s.point p with staged := none }
    else s.point p := by
  have h2 : ∀ t : State, t.point = s.point → (match (s.buffer b).point with
      | some p => if (t.point p).staged = some b then t.modPoint p fun q => { q with staged := none } else t
      | none => t).point p =
      if (s.buffer b).point = some p ∧ (s.point p).staged = some b then { s.point p with staged := none }
      else s.point p := by
    intro t ht
    cases hp : (s.buffer b).point with
    | none => simp [ht]
    | some q =>
      simp only [State.modPoint, ht]
      by_cases hq : q = p
      · subst hq
        split <;> simp_all
      · split <;> simp [State.point_setPoint, hq, ht]
  unfold freeBuffer
  refine h2 _ ?_
  cases (s.buffer b).slot <;> rfl

theorem freeBuffer_sp (b : BufId) (s : State) :
    (freeBuffer b s).sp = { s.sp with slots := (freeBuffer b s).sp.slots } := by
  unfold freeBuffer
  dsimp only
  cases (s.buffer b).slot <;> cases (s.buffer b).point <;> dsimp only <;> (try split) <;> rfl

@[simp] theorem freeBuffer_queue (b : BufId) (p : PointId) (s : State) : (freeBuffer b s).queue p = s.queue p := by
  simp only [State.queue]
  rw [freeBuffer_sp]

@[simp] theorem freeBuffer_first (b : BufId) (p : PointId) (s : State) : (freeBuffer b s).first p = s.first p := by
  simp only [State.first, freeBuffer_queue]

@[simp] theorem freeBuffer_freeList (b : BufId) (s : State) : (freeBuffer b s).sp.freeList = s.sp.freeList := by
  rw [freeBuffer_sp]

@[simp] theorem freeBuffer_waitList (b : BufId) (s : State) : (freeBuffer b s).bp.waitList = s.bp.waitList := by
  unfold freeBuffer
  dsimp only
  cases (s.buffer b).slot <;> cases (s.buffer b).point <;> dsimp only <;> (try split) <;> rfl

end Sys2Proof.Machine
end

section
/-! SUPPORT. What every step keeps of the records: the counts, the completion ring, the halt causes, the bindings, the mover
and the FREE buffers (R1, R2, R9, R123, R130, R140, R147, R153). Each part of a happening is weighed once, block by block;
the walks follow by `Closed`. -/

namespace Sys2Proof.Machine

set_option Elab.async false

/-! ### What it is to keep the records -/

/-- Each record invariant that holds of `s` holds of `t`. -/
structure RecordsKept (s t : State) : Prop where
  counts : CountsInRange s → CountsInRange t
  ring : RingAgrees s → RingAgrees t
  causes : HaltCausesAgree s → HaltCausesAgree t
  bindings : BindingsAgree s → BindingsAgree t
  mover : MoverAgrees s → MoverAgrees t
  buffers : FreeBuffersEmpty s → FreeBuffersEmpty t

theorem RecordsKept.refl (s : State) : RecordsKept s s := ⟨id, id, id, id, id, id⟩

theorem RecordsKept.trans {s t u : State} (h : RecordsKept s t) (k : RecordsKept t u) : RecordsKept s u :=
  ⟨k.counts ∘ h.counts, k.ring ∘ h.ring, k.causes ∘ h.causes, k.bindings ∘ h.bindings, k.mover ∘ h.mover,
    k.buffers ∘ h.buffers⟩

/-- The counters and limits of a point record are in their ranges (R1, R2). -/
def Point.InRange (q : Point) : Prop :=
  q.missCount ≤ 255 ∧ q.deferCount ≤ 15 ∧ q.cfg.deferInterval ≤ 15 ∧ q.cfg.queueLimit ≤ 64

/-- What a change of a point record keeps: the ranges, the agreement of halt cause and state, and the binding of a point that
is not DISABLED, which was not DISABLED before. -/
structure PointKept (q r : Point) : Prop where
  counts : q.InRange → r.InRange
  cause : (q.haltCause.isSome = true ↔ q.state = .halted) → (r.haltCause.isSome = true ↔ r.state = .halted)
  binding : r.state ≠ .disabled → q.state ≠ .disabled ∧ r.cfg = q.cfg

theorem PointKept.refl (q : Point) : PointKept q q := ⟨id, id, fun h => ⟨h, rfl⟩⟩

/-- The counters of a station entry are in their ranges (R123). -/
def Station.InRange (x : Station) : Prop := x.silent ≤ 15 ∧ x.streak ≤ 15

/-- A FREE buffer record has its FREE values (R130). -/
def Buffer.EmptyIfFree (r : Buffer) : Prop :=
  r.state = .free → r.point = none ∧ r.slot = none ∧ r.addr = none ∧ r.count = 0

/-- The records are kept where each block keeps its own; a block that is not named is as it was. -/
theorem RecordsKept.of_blocks {s t : State}
    (hp : ∀ p, PointKept (s.point p) (t.point p) := by exact fun _ => .refl _)
    (hq : ∀ p, (t.queue p).length ≤ (s.queue p).length ∨ (t.queue p).length ≤ (s.point p).cfg.queueLimit := by
      exact fun _ => .inl (le_refl _))
    (hi : ∀ i, (s.station i).InRange → (t.station i).InRange := by exact fun _ => id)
    (hb : ∀ b, (s.buffer b).EmptyIfFree → (t.buffer b).EmptyIfFree := by exact fun _ => id)
    (hm : MoverAgrees s → MoverAgrees t := by exact id)
    (hr : RingAgrees s → RingAgrees t := by exact id) : RecordsKept s t where
  counts h := by
    refine ⟨fun p => ?_, fun i => hi i (h.2 i)⟩
    obtain ⟨h1, h2, h3, h4, h5⟩ := h.1 p
    obtain ⟨k1, k2, k3, k4⟩ := (hp p).counts ⟨h1, h2, h3, h4⟩
    refine ⟨k1, k2, k3, k4, ?_⟩
    rcases hq p with h | h <;> omega
  ring := hr
  causes h p := (hp p).cause (h p)
  bindings h p q hpd hqd h1 h2 h3 := by
    obtain ⟨kp, ep⟩ := (hp p).binding hpd
    obtain ⟨kq, eq⟩ := (hp q).binding hqd
    rw [ep, eq] at h1 h2 h3
    exact h p q kp kq h1 h2 h3
  mover := hm
  buffers h b := hb b (h b)

/-- A change of one point record. -/
theorem recordsKept_setPoint {s : State} {p : PointId} {q : Point} (h : PointKept (s.point p) q) :
    RecordsKept s (s.setPoint p q) :=
  .of_blocks (hp := fun p' => by
    rw [State.point_setPoint]
    split
    · next e => exact e ▸ h
    · exact .refl _)

/-- A change of one buffer record. -/
theorem recordsKept_setBuffer {s : State} {b : BufId} {r : Buffer}
    (h : (s.buffer b).EmptyIfFree → r.EmptyIfFree) : RecordsKept s (s.setBuffer b r) :=
  .of_blocks (hb := fun b' => by
    rw [State.buffer_setBuffer]
    split
    · next e => exact e ▸ h
    · exact id)

/-- A change of one station entry. -/
theorem recordsKept_setStation {s : State} {i : StationId} {x : Station}
    (h : (s.station i).InRange → x.InRange) : RecordsKept s (s.setStation i x) :=
  .of_blocks (hi := fun i' => by
    rw [State.station_setStation]
    split
    · next e => exact e ▸ h
    · exact id)

theorem recordsKept_setSlot (s : State) (x : SlotId) (e : Slot) : RecordsKept s (s.setSlot x e) := .of_blocks

theorem recordsKept_raise (c : Cause) (s : State) : RecordsKept s (raise c s) := .of_blocks

/-- A record is posted where the ring has room (R153, R155). -/
theorem recordsKept_postRecord (x : SlotId) (p : PointId) {s : State} (hc : s.cu.count < 64) :
    RecordsKept s (postRecord x p s) :=
  .of_blocks (hr := fun ⟨_, hh⟩ => by
    refine ⟨Nat.succ_le_of_lt hc, ?_⟩
    change (s.cu.head + 1).val = (s.cu.tail.val + (s.cu.count + 1)) % 64
    rw [Fin.val_add, hh]
    simp only [Fin.isValue, Fin.val_one]
    omega)

theorem recordsKept_freeSlot (x : SlotId) (p : PointId) (s : State) : RecordsKept s (freeSlot x p s) :=
  .of_blocks (hq := fun p' => by
    rw [show freeSlot x p s = { (s.setSlot x Slot.free).setQueue p ((s.queue p).erase x) with
      sp := (freeSlot x p s).sp } from rfl]
    refine .inl ?_
    change (((s.setSlot x Slot.free).setQueue p ((s.queue p).erase x)).queue p').length ≤ _
    rw [State.queue_setQueue]
    split
    · next e => subst e; exact List.length_erase_le
    · exact le_refl _)

theorem recordsKept_freeBuffer (b : BufId) (s : State) : RecordsKept s (freeBuffer b s) :=
  .of_blocks
    (hp := fun p => by
      rw [freeBuffer_point]
      split
      · exact ⟨id, id, fun h => ⟨h, rfl⟩⟩
      · exact .refl _)
    (hq := fun p => by rw [freeBuffer_queue]; exact .inl (le_refl _))
    (hi := fun i => by simp only [State.station, freeBuffer_sc]; exact id)
    (hb := fun c => by
      rw [freeBuffer_buffer]
      split
      · exact fun _ _ => ⟨rfl, rfl, rfl, rfl⟩
      · exact id)
    (hm := by unfold MoverAgrees; rw [freeBuffer_pm]; exact id)
    (hr := by unfold RingAgrees; rw [freeBuffer_cu]; exact id)

theorem recordsKept_joinHeld (w : Bool) (p : PointId) (s : State) : RecordsKept s (joinHeld w p s) := by
  rw [joinHeld_eq]
  exact .of_blocks

theorem recordsKept_reachDisabled (p : PointId) (s : State) : RecordsKept s (reachDisabled p s) :=
  .trans (t := s.setPoint p { s.point p with state := .disabled, deferCount := 0, haltCause := none, staged := none })
    (recordsKept_setPoint ⟨fun h => ⟨h.1, by simp, h.2.2⟩, fun _ => by simp, fun h => absurd rfl h⟩) .of_blocks

theorem recordsKept_haltPoint (c : HaltCause) (p : PointId) (s : State) : RecordsKept s (haltPoint c p s) := by
  rw [haltPoint_eq]
  unfold pointHalted
  split
  · next h =>
    have hk : PointKept (s.point p) { s.point p with state := .halted, haltCause := some c } :=
      ⟨id, fun _ => ⟨fun _ => rfl, fun _ => rfl⟩, fun _ => ⟨by rcases h with h | h <;> simp [h], rfl⟩⟩
    exact (recordsKept_setPoint hk).trans .of_blocks
  · exact .refl s

theorem recordsKept_grant (p : PointId) (b : BufId) (x : SlotId) (s : State) : RecordsKept s (grant p b x s) :=
  .of_blocks
    (hp := fun q => by
      rw [grant_point]
      split
      · next e => subst e; exact ⟨id, id, fun h => ⟨h, rfl⟩⟩
      · exact .refl _)
    (hq := fun q => by rw [grant_queue]; exact .inl (le_refl _))
    (hi := fun i => by rw [grant_blocks]; exact id)
    (hb := fun c => by
      rw [grant_buffer]
      split
      · rcases grantedBuffer_state p b x s with h | h <;> exact fun _ h' => by rw [h] at h'; cases h'
      · exact id)
    (hm := by unfold MoverAgrees; rw [grant_pm]; exact id)
    (hr := by rw [grant_blocks]; exact id)

/-- Taking a job gives an IDLE mover its job and burst, and changes no other (R139). -/
theorem recordsKept_takeJob (s : State) : RecordsKept s (takeJob s) := by
  have started : ∀ (k : JobKind) (b : BufId) (t : State), t.pm.faultRecord = s.pm.faultRecord →
      s.pm.state = .idle → MoverAgrees s → MoverAgrees (startJob k b t) := by
    intro k b t hf hi ⟨_, _, h⟩
    rw [hi, ← hf] at h
    exact ⟨⟨fun _ => .inl rfl, fun _ => ⟨rfl, rfl⟩⟩, rfl, h.trans ⟨nofun, nofun⟩⟩
  unfold takeJob
  split
  · next hi =>
    split
    · exact .of_blocks (hm := started _ _ _ rfl hi)
    · split
      · exact .of_blocks (hm := started _ _ _ rfl hi)
      · exact .refl s
  · exact .refl s

/-- Every primitive change of the walks keeps the records. -/
theorem recordsKept_closed (s : State) : Closed (RecordsKept s) where
  free b t h := h.trans (recordsKept_freeBuffer b t)
  retire x _ t h := h.trans (recordsKept_setSlot t x _)
  freeSlot x p t h := h.trans (recordsKept_freeSlot x p t)
  post x p _ hc h := h.trans (recordsKept_postRecord x p hc)
  hold w p t h := h.trans (recordsKept_joinHeld w p t)
  close p t h := h.trans (recordsKept_reachDisabled p t)
  halt c p t h := h.trans (recordsKept_haltPoint c p t)
  wait _ _ h := h.trans .of_blocks
  grant p b x t h := h.trans (recordsKept_grant p b x t)
  job t h := h.trans (recordsKept_takeJob t)

end Sys2Proof.Machine
end

section
/-! SUPPORT. What a command that answers a next state has done: one inversion lemma per meaning that can also refuse, fault or
be ignored. Proofs about every step go through these in place of unfolding the meanings. -/

namespace Sys2Proof.Machine

set_option Elab.async false

/-! ### The window (R188, R195, R197) -/

theorem windowWrite_next {s t : State} {f : State → State} (h : windowWrite s f = .next t) :
    t = s ∨ deaf s = false ∧ t = f s := by
  unfold windowWrite at h
  split at h
  · exact .inl (by cases h; rfl)
  · next hd => exact .inr ⟨by simpa using hd, by cases h; rfl⟩

theorem command_next {s t : State} {code : BitVec 8} {f : State → State × Reply} (h : command code f s = .next t) :
    t = s ∨ deaf s = false ∧ t = writeResult code (f s).2 (f s).1 := windowWrite_next h

theorem onPoint_eq (f : PointId → State → State × Reply) (s : State) :
    (onPoint f s).1 = s ∨ ∃ p, pointOperand s = some p ∧ onPoint f s = f p s := by
  unfold onPoint
  split
  · next p hp => exact .inr ⟨p, hp, rfl⟩
  · exact .inl rfl

theorem execUnknownCommand_next {code : BitVec 8} {s t : State} (h : execUnknownCommand code s = .next t) :
    t = s ∨ ∃ r, t = writeResult code r s := by
  unfold execUnknownCommand at h
  split at h
  · cases h
  · exact (command_next h).imp id fun h => ⟨_, h.2⟩

theorem execUndefinedOffset_next {w : Bool} {o : BitVec 7} {e : BitVec 4} {s t : State}
    (h : execUndefinedOffset w o e s = .next t) :
    t = s ∨ t = raise .accessFault (setAccess (fun a => { a with undefinedOffset := true }) s) := by
  unfold execUndefinedOffset at h
  split at h
  · cases h
  · exact (windowWrite_next h).imp id And.right

theorem execReleaseIntervalEnd_next {l : IntLine} {s t : State} (h : execReleaseIntervalEnd l s = .next t) :
    ∃ i j, t = { s with eu := { s.eu with attn := i, alarm := j } } := by
  unfold execReleaseIntervalEnd at h
  split at h
  · cases l <;> (cases h; exact ⟨_, _, rfl⟩)
  · cases h

theorem execDeviceReset_next {s t : State} (h : execDeviceReset s = .next t) :
    t = { completeReset s with hw := { HostWindow.reset with resetPin := true } } := by
  unfold execDeviceReset at h
  injection h with h
  exact h.symm

theorem execResetPinReleased_next {s t : State} (h : execResetPinReleased s = .next t) :
    t = { s with hw := { s.hw with resetPin := false } } := by
  unfold execResetPinReleased at h
  split at h <;> cases h
  rfl

/-! ### Frames, the census and signalling -/

/-- Settling the due list reaches the points, the event unit and the due list (R58, R68). -/
theorem settleDue_blocks (s : State) : settleDue s = { s with
    pt := (settleDue s).pt, eu := (settleDue s).eu, fs := { s.fs with due := [] } } := by
  obtain ⟨a, b, h⟩ := foldl_keeps (P := fun u => ∃ a b, u = { s with pt := a, eu := b })
    (fun t p => if countsAsMiss s p then chargeMiss p t else t)
    (fun u p ⟨a, b, hu⟩ => by
      split
      · exact ⟨_, _, by rw [hu]; rfl⟩
      · exact ⟨a, b, hu⟩) s.fs.due s ⟨_, _, rfl⟩
  unfold settleDue
  rw [h]

theorem execMarkEnd_next {s t : State} (h : execMarkEnd s = .next t) :
    s.le.state = .marking ∧ s.fs.running = true ∧ t = choose ((s.setElapsed 64).setLine .idle) := by
  unfold execMarkEnd at h
  split at h
  · next hc =>
    simp only [timedAt, Bool.and_eq_true] at hc
    cases h
    exact ⟨hc.1, hc.2.1, rfl⟩
  · cases h

theorem execCensusStart_next {s t : State} (h : execCensusStart s = .next t) :
    s.le.state = .idle ∧ s.fs.running = true ∧
      t = takeHaltRequests { settleDue (s.setElapsed (s.sc.params.frameLength - 168)) with
        le := { s.le with state := .census, slotsRead := 0 } } := by
  unfold execCensusStart at h
  dsimp only at h
  split at h
  · next hc =>
    simp only [timedAt, Bool.and_eq_true] at hc
    refine ⟨hc.1, hc.2.1, ?_⟩
    cases h
    rw [settleDue_blocks]
    rfl
  · cases h

theorem execFrameEnd_next {s t : State} (h : execFrameEnd s = .next t) :
    s.le.state = .census ∧ s.fs.running = true ∧
      ((s.sc.state = .running ∨ s.sc.state = .halted) ∧
          t = raise .frameTick (beginFrame (s.fs.frame + 1) (s.setElapsed s.sc.params.frameLength)) ∨
        s.sc.state = .suspending ∧ t = beginSuspendMark (s.setElapsed s.sc.params.frameLength)) := by
  unfold execFrameEnd at h
  dsimp only at h
  split at h
  · next hc =>
    simp only [timedAt, Bool.and_eq_true] at hc
    refine ⟨hc.1, hc.2.1.1, ?_⟩
    cases hg : s.sc.state <;> rw [hg] at h <;> cases h
    · exact .inl ⟨.inl rfl, rfl⟩
    · exact .inl ⟨.inr rfl, rfl⟩
    · exact .inr ⟨rfl, rfl⟩
  · cases h

theorem execCensusSlotEnd_next {i : StationId} {v : SlotLevels} {s t : State} (h : execCensusSlotEnd i v s = .next t) :
    s.le.state = .census ∧ s.fs.running = true ∧ ∃ moment,
      t = applyCensus (readSlot v) i
        { s.setElapsed moment with le := { s.le with slotsRead := stationAddress i } } := by
  unfold execCensusSlotEnd at h
  dsimp only at h
  split at h
  · next hc =>
    simp only [timedAt, Bool.and_eq_true] at hc
    cases h
    exact ⟨hc.1, hc.2.1.1, _, rfl⟩
  · cases h

theorem execSuspendMarkEnd_next {s t : State} (h : execSuspendMarkEnd s = .next t) :
    s.le.state = .marking ∧ s.sc.state = .suspended ∧
      t = { s with le := { s.le with state := .idle, lineBits := 0, lowBits := 0 } } := by
  unfold execSuspendMarkEnd at h
  split at h
  · next hc => cases h; exact ⟨hc.1, hc.2, rfl⟩
  · cases h

theorem execResetSignallingEnd_next {s t : State} (h : execResetSignallingEnd s = .next t) :
    s.le.state = .signalling ∧ s.sc.state = .resetting ∧ t = openAfterSignalling 0 s := by
  unfold execResetSignallingEnd at h
  split at h
  · next hc => cases h; exact ⟨hc.1, hc.2, rfl⟩
  · cases h

theorem execWakeSignallingEnd_next {s t : State} (h : execWakeSignallingEnd s = .next t) :
    s.le.state = .signalling ∧ s.sc.state = .waking ∧ t = openAfterSignalling (s.fs.frame + 1) s := by
  unfold execWakeSignallingEnd at h
  split at h
  · next hc => cases h; exact ⟨hc.1, hc.2, rfl⟩
  · cases h

/-! ### Transactions -/

theorem execRequestEnd_next {s t : State} (h : execRequestEnd s = .next t) :
    ∃ tx, s.le.state = .requesting ∧ s.le.txn = some tx ∧
      t = (s.setElapsed (tx.began + 58)).setLine (if tx.direction = .store then .sendingData else .awaitAnswer) := by
  unfold execRequestEnd at h
  split at h
  · next hl =>
    split at h
    · cases h
    · next tx htx =>
      split at h
      · refine ⟨tx, hl, htx, ?_⟩
        dsimp only at h
        cases hd : tx.direction <;> rw [hd] at h <;> cases h <;> rfl
      · cases h
  · cases h

theorem execStoreDataEnd_next {s t : State} (h : execStoreDataEnd s = .next t) :
    ∃ tx moment, s.le.state = .sendingData ∧ s.le.txn = some tx ∧
      t = (s.setElapsed moment).setLine .awaitReply := by
  unfold execStoreDataEnd at h
  split at h
  · next hl =>
    split at h
    · cases h
    · next tx htx =>
      split at h
      · cases h; exact ⟨tx, _, hl, htx, rfl⟩
      · cases h
  · cases h

theorem execAnswerBegins_next {delay : Nat} {s t : State} (h : execAnswerBegins delay s = .next t) :
    t = s ∨ ∃ tx moment, (s.le.state = .awaitReply ∨ s.le.state = .awaitAnswer) ∧ s.le.txn = some tx ∧
      t = answerAt tx moment s := by
  unfold execAnswerBegins at h
  split at h
  · next hl =>
    split at h
    · cases h
    · next tx htx =>
      split at h
      · cases h; exact .inl rfl
      · dsimp only at h
        split at h
        · cases h; exact .inr ⟨tx, _, hl, htx, rfl⟩
        · cases h
  · cases h; exact .inl rfl

theorem execDataReceived_next {levels : List Bool} {s t : State} (h : execDataReceived levels s = .next t) :
    ∃ tx k seq payload moment, s.le.state = .receiving ∧ s.le.txn = some tx ∧
      t = receiveData tx k seq payload moment s := by
  unfold execDataReceived at h
  split at h
  · next hl =>
    split at h
    · cases h
    · next tx htx =>
      split at h
      · cases h
      · split at h
        · split at h
          · cases h; exact ⟨tx, _, _, _, _, hl, htx, rfl⟩
          · cases h
        · cases h
  · cases h

theorem execTransactionEnd_next {levels : List Bool} {s t : State} (h : execTransactionEnd levels s = .next t) :
    ∃ tx moment a, s.le.txn = some tx ∧ s.fs.running = true ∧
      txnEnding s.sc.params s.le.state tx levels = some (moment, a) ∧ t = endTxn tx a moment s := by
  unfold execTransactionEnd at h
  split at h
  · cases h
  · next tx htx =>
    split at h
    · next moment a he =>
      split at h
      · next hc =>
        simp only [timedAt, Bool.and_eq_true] at hc
        cases h
        exact ⟨tx, moment, a, htx, hc.1, he, rfl⟩
      · cases h
    · cases h

/-! ### The mover -/

theorem execBusGrant_next {s t : State} (h : execBusGrant s = .next t) :
    s.pm.state = .waitGrant ∧ t = { s with pm := { s.pm with state := .burst } } := by
  unfold execBusGrant at h
  split at h
  · next hc => cases h; exact ⟨hc, rfl⟩
  · cases h

/-- An answer of the bus partner completes a pending controller reset, or acts on the current job and burst. -/
theorem onAnswer_next {f : Job → Burst → State → Out} {s t : State} (h : onAnswer f s = .next t) :
    s.pm.state = .burst ∧ (t = completeReset s ∨ s.hw.access.resetPending = false ∧
      ∃ j u, s.pm.job = some j ∧ s.pm.burst = some u ∧ f j u s = .next t) := by
  unfold onAnswer at h
  split at h
  · next hb =>
    refine ⟨hb, ?_⟩
    split at h
    · cases h; exact .inl rfl
    · next hr =>
      split at h
      · next j u hj hu => exact .inr ⟨by simpa using hr, j, u, hj, hu, h⟩
      · cases h
  · cases h

end Sys2Proof.Machine
end

section
/-! SUPPORT. Every step keeps the records (O57): the parts of each command, in the order of the model's definitions. -/

namespace Sys2Proof.Machine

set_option Elab.async false

/-! ### The choice, the segment and the event unit -/

/-! A change after others: what is known of the record before it is what the changes before it left. -/

section

variable {s t : State} (h : RecordsKept s t)
include h

theorem RecordsKept.modPoint {p : PointId} {f : Point → Point} (hk : PointKept (t.point p) (f (t.point p))) :
    RecordsKept s (t.modPoint p f) := h.trans (recordsKept_setPoint hk)

theorem RecordsKept.modSlot (x : SlotId) (f : Slot → Slot) : RecordsKept s (t.modSlot x f) :=
  h.trans (recordsKept_setSlot t x _)

theorem RecordsKept.modBuffer {b : BufId} {f : Buffer → Buffer}
    (hk : (t.buffer b).EmptyIfFree → (f (t.buffer b)).EmptyIfFree) : RecordsKept s (t.modBuffer b f) :=
  h.trans (recordsKept_setBuffer hk)

theorem RecordsKept.modStation {i : StationId} {f : Station → Station}
    (hk : (t.station i).InRange → (f (t.station i)).InRange) : RecordsKept s (t.modStation i f) :=
  h.trans (recordsKept_setStation hk)

theorem RecordsKept.raise (c : Cause) : RecordsKept s (raise c t) := h.trans (recordsKept_raise c t)

end

/-- A change of a point record outside its configuration, counters, state and halt cause. -/
theorem PointKept.of_eq {q r : Point} (h : r.cfg = q.cfg ∧ r.state = q.state ∧ r.haltCause = q.haltCause)
    (hm : r.missCount = q.missCount) (hd : r.deferCount ≤ q.deferCount) : PointKept q r where
  counts k := ⟨hm ▸ k.1, le_trans hd k.2.1, h.1 ▸ k.2.2⟩
  cause k := by rw [h.2.1, h.2.2]; exact k
  binding k := ⟨h.2.1 ▸ k, h.1⟩

theorem recordsKept_beginTxn (p : PointId) (s : State) : RecordsKept s (beginTxn p s) := by
  unfold beginTxn
  split
  · next x b _ _ =>
    cases (s.point p).cfg.direction with
    | store => exact .of_blocks
    | fetch =>
      refine .trans (recordsKept_setBuffer (b := b) (r := { s.buffer b with
        state := .receiving, point := some p, slot := some x, count := 0, addr := none }) fun _ h => ?_) .of_blocks
      cases h
  · exact .refl s

theorem recordsKept_choose (s : State) : RecordsKept s (choose s) := by
  unfold choose
  split
  · split
    · exact .trans .of_blocks (recordsKept_beginTxn _ _)
    · split
      · exact .trans .of_blocks (recordsKept_beginTxn _ _)
      · exact .refl s
  · exact .refl s

theorem recordsKept_settle (s : State) : RecordsKept s (settle s) := (recordsKept_closed s).settle s (.refl s)

theorem RecordsKept.served {s t : State} (h : RecordsKept s t) : RecordsKept s (choose (settle t)) :=
  (h.trans (recordsKept_settle t)).trans (recordsKept_choose _)

theorem recordsKept_takeHaltRequests (s : State) : RecordsKept s (takeHaltRequests s) := by
  rw [takeHaltRequests_eq]
  unfold haltTaken
  dsimp only
  split_ifs <;> exact .of_blocks

theorem RecordsKept.haltTaken {s t : State} (h : RecordsKept s t) : RecordsKept s (takeHaltRequests t) :=
  h.trans (recordsKept_takeHaltRequests t)

theorem recordsKept_enterHalting (s : State) : RecordsKept s (enterHalting s) := by
  unfold enterHalting
  dsimp only
  split <;> exact .of_blocks

theorem recordsKept_lowerDefers (s : State) : RecordsKept s (lowerDefers s) :=
  .of_blocks (hp := fun p => by
    rw [lowerDefers_point]
    exact .of_eq ⟨rfl, rfl, rfl⟩ rfl (Nat.sub_le _ _))

theorem recordsKept_clearSeqs (s : State) : RecordsKept s (clearSeqs s) :=
  .of_blocks (hp := fun p => by
    rw [clearSeqs_point]
    exact .of_eq ⟨rfl, rfl, rfl⟩ rfl (le_refl _))

theorem recordsKept_clearDefers (s : State) : RecordsKept s (clearDefers s) :=
  .of_blocks (hp := fun p => by
    rw [clearDefers_point]
    exact .of_eq ⟨rfl, rfl, rfl⟩ rfl (Nat.zero_le _))

theorem recordsKept_stationsAbsent (s : State) : RecordsKept s (stationsAbsent s) :=
  .of_blocks (hi := fun i _ => by
    rw [stationsAbsent_station]
    exact ⟨Nat.zero_le _, Nat.zero_le _⟩)

theorem recordsKept_enterResettingCore (s : State) : RecordsKept s (enterResettingCore s) :=
  (((recordsKept_stationsAbsent s).trans (recordsKept_clearSeqs _)).trans (recordsKept_clearDefers _)).trans .of_blocks

theorem recordsKept_endAllActive (s : State) : RecordsKept s (endAllActive s) :=
  (recordsKept_closed s).endAllActive s (.refl s)

theorem recordsKept_enterResettingByReset (s : State) : RecordsKept s (enterResettingByReset s) :=
  (recordsKept_enterResettingCore s).trans (recordsKept_endAllActive _)

theorem recordsKept_enterDown (s : State) : RecordsKept s (enterDown s) :=
  ((((recordsKept_stationsAbsent s).trans (recordsKept_clearSeqs _)).trans .of_blocks).trans
    (recordsKept_endAllActive _)).trans (recordsKept_raise _ _)

theorem recordsKept_carryOutWaiting (s : State) : RecordsKept s (carryOutWaiting s) := by
  unfold carryOutWaiting
  split
  · exact recordsKept_enterDown s
  · exact recordsKept_enterResettingByReset s
  · split
    · exact .of_blocks
    · exact .refl s

theorem recordsKept_beginFrame (f : BitVec 12) (s : State) : RecordsKept s (beginFrame f s) :=
  (recordsKept_lowerDefers s).trans .of_blocks

theorem recordsKept_openAfterSignalling (f : BitVec 12) (s : State) : RecordsKept s (openAfterSignalling f s) := by
  unfold openAfterSignalling
  dsimp only
  split
  · exact .trans (.trans .of_blocks (recordsKept_beginFrame f _)) .of_blocks
  · exact .trans (.trans .of_blocks (recordsKept_beginFrame f _)) .of_blocks

/-- After a reset the records have their reset values (R196, R197). -/
theorem recordsKept_completeReset (s : State) : RecordsKept s (completeReset s) where
  counts _ := ⟨fun p => by
      simp [State.point, State.queue, PointTable.reset, SlotPool.reset, Point.reset, PointConfig.default],
    fun i => by simp [State.station, SegmentControl.reset, Station.reset]⟩
  ring _ := ⟨Nat.zero_le _, rfl⟩
  causes _ p := by simp [State.point, PointTable.reset, Point.reset]
  bindings _ p _ hp := absurd (by simp [State.point, PointTable.reset, Point.reset]) hp
  mover _ := by simp [MoverAgrees, Mover.reset]
  buffers _ b _ := by simp [completeReset, State.buffer, Buffer.reset]

/-! ### The point and exchange commands -/

/-- CONFIGURE POINT keeps the limits in their ranges (R6). -/
theorem configOperand_inRange {s : State} {c : PointConfig} (h : configOperand s = some c) :
    c.deferInterval ≤ 15 ∧ c.queueLimit ≤ 64 := by
  unfold configOperand at h
  dsimp only at h
  split at h
  · split at h
    · split at h
      · next hl =>
        split at h
        · split at h
          · cases h; exact ⟨Nat.le_of_ble_eq_true rfl, hl.2.2.2⟩
          · cases h
        · split at h
          · next hd => cases h; exact ⟨hd, hl.2.2.2⟩
          · cases h
      · cases h
    · cases h
  · cases h

theorem recordsKept_configurePoint (p : PointId) (s : State) : RecordsKept s (configurePoint p s).1 := by
  unfold configurePoint
  split
  · next hd =>
    split
    · next c hc =>
      obtain ⟨h1, h2⟩ := configOperand_inRange hc
      dsimp only
      exact (RecordsKept.refl s).modPoint ⟨fun k => ⟨k.1, k.2.1, h1, h2⟩, id, fun k => absurd hd k⟩
    · exact .refl s
  · exact .refl s

/-- What `bindingFree` says (R9). -/
theorem bindingFree_iff (s : State) (p : PointId) : bindingFree s p = true ↔
    ¬ ∃ q : PointId, q ≠ p ∧ (s.point q).state ≠ .disabled ∧
      (s.point q).cfg.station = (s.point p).cfg.station ∧ (s.point q).cfg.number = (s.point p).cfg.number ∧
      (s.point q).cfg.direction = (s.point p).cfg.direction := by
  simp only [bindingFree, List.all_eq_true, List.mem_finRange, true_implies, Bool.or_eq_true, decide_eq_true_iff,
    Bool.not_eq_true', Bool.and_eq_false_iff, decide_eq_false_iff_not]
  push Not
  refine forall_congr' fun q => ?_
  tauto

/-- The records of the points after ENABLE POINT admits one (R8). -/
theorem admitPoint_point (n : Nat) (p : PointId) (s : State) (q : PointId) : (admitPoint n p s).point q =
    if p = q then { s.point p with state := .ready, seq := false, deferCount := 0, missCount := 0, haltCause := none }
    else s.point q := by
  simp only [admitPoint, State.modPoint, State.point_setPoint]
  rfl

/-- A point whose binding is free may leave DISABLED (R8, R9). -/
theorem recordsKept_admitPoint (n : Nat) (p : PointId) {s : State} (hf : bindingFree s p = true) :
    RecordsKept s (admitPoint n p s) := by
  have hcfg : ∀ q, ((admitPoint n p s).point q).cfg = (s.point q).cfg := fun q => by
    rw [admitPoint_point]
    split
    · next e => subst e; rfl
    · rfl
  have hother : ∀ q, p ≠ q → (admitPoint n p s).point q = s.point q := fun q hq => by
    rw [admitPoint_point, if_neg hq]
  refine ⟨fun ⟨h1, h2⟩ => ⟨fun q => ?_, h2⟩, id, fun h q => ?_, fun h q r hq hr e1 e2 e3 => ?_, id, id⟩
  · obtain ⟨k1, k2, k3, k4, k5⟩ := h1 q
    refine ⟨?_, ?_, hcfg q ▸ k3, hcfg q ▸ k4, k5⟩
    all_goals
      rw [admitPoint_point]
      split
      · exact Nat.zero_le _
      · assumption
  · rw [admitPoint_point]
    split
    · simp
    · exact h q
  · rw [hcfg, hcfg] at e1 e2 e3
    rw [bindingFree_iff] at hf
    by_cases hpq : p = q <;> by_cases hpr : p = r
    · exact hpq.symm.trans hpr
    · rw [hother r hpr] at hr
      subst hpq
      exact absurd ⟨r, Ne.symm hpr, hr, e1.symm, e2.symm, e3.symm⟩ hf
    · rw [hother q hpq] at hq
      subst hpr
      exact absurd ⟨q, Ne.symm hpq, hq, e1, e2, e3⟩ hf
    · exact h q r (hother q hpq ▸ hq) (hother r hpr ▸ hr) e1 e2 e3

theorem recordsKept_enablePoint (p : PointId) (s : State) : RecordsKept s (enablePoint p s).1 := by
  unfold enablePoint
  dsimp only
  split
  · split
    · next hf =>
      split
      · exact (recordsKept_admitPoint _ p hf).served
      · split
        · exact (recordsKept_admitPoint _ p hf).served
        · exact .refl s
    · exact .refl s
  · exact .refl s

/-- A point that is not HALTED before and after may change between the other states but for DISABLED. -/
theorem PointKept.of_state {q : Point} {g : PointState} (hq : q.state ≠ .disabled) (hh : q.state ≠ .halted)
    (hg : g ≠ .halted) : PointKept q { q with state := g } where
  counts := id
  cause h := ⟨fun k => absurd (h.mp k) hh, fun k => absurd k hg⟩
  binding _ := ⟨hq, rfl⟩

theorem recordsKept_pausePoint (p : PointId) (s : State) : RecordsKept s (pausePoint p s).1 := by
  unfold pausePoint
  split
  · next h =>
    exact (recordsKept_closed s).settle _
      ((RecordsKept.refl s).modPoint (.of_state (by simp [h]) (by simp [h]) (by simp)))
  · exact .refl s

theorem recordsKept_continuePoint (p : PointId) (s : State) : RecordsKept s (continuePoint p s).1 := by
  unfold continuePoint
  split
  · next h => exact ((RecordsKept.refl s).modPoint (.of_state (by simp [h]) (by simp [h]) (by simp))).served
  · exact .refl s

theorem recordsKept_clearPoint (p : PointId) (s : State) : RecordsKept s (clearPoint p s).1 := by
  unfold clearPoint
  split
  · next h => exact ((RecordsKept.refl s).modPoint ⟨id, fun _ => by simp, fun _ => ⟨by simp [h], rfl⟩⟩).served
  · exact .refl s

theorem recordsKept_flushFirst (x : SlotId) (s : State) : RecordsKept s (flushFirst x s) := by
  have hend := (recordsKept_closed s).endWith x .flushed s (.refl s)
  unfold flushFirst
  dsimp only
  split
  · exact hend
  · split
    · exact .refl s
    · split
      · exact hend
      · exact recordsKept_setSlot _ _ _
  · exact .refl s
  · exact .refl s

theorem recordsKept_flushWalk (p : PointId) (xs : List SlotId) (s : State) : RecordsKept s (flushWalk p xs s) := by
  induction xs generalizing s with
  | nil => exact (recordsKept_closed s).closePoint p s (.refl s)
  | cons x xs ih =>
    have h := (recordsKept_closed s).retireFirst false p x _ (recordsKept_flushFirst x s)
    unfold flushWalk
    dsimp only
    split
    · exact h.trans (ih _)
    · exact foldl_keeps (P := RecordsKept s) _ (fun t y ht => ht.trans (recordsKept_setSlot t y _)) xs _ h

theorem recordsKept_closeAndFlush (p : PointId) {s : State} (hd : (s.point p).state ≠ .disabled) :
    RecordsKept s (closeAndFlush p s) := by
  unfold closeAndFlush
  refine .served (.trans ?_ (recordsKept_flushWalk p _ _))
  exact (RecordsKept.refl s).modPoint ⟨id, fun _ => by simp, fun _ => ⟨hd, rfl⟩⟩

theorem recordsKept_disablePoint (p : PointId) (s : State) : RecordsKept s (disablePoint p s).1 := by
  unfold disablePoint
  split
  · exact .refl s
  · exact .refl s
  all_goals
    next h =>
    dsimp only
    exact recordsKept_closeAndFlush p (by simp [h])

theorem recordsKept_postExchange (p : PointId) (s : State) : RecordsKept s (postExchange p s).1 := by
  unfold postExchange
  split
  · exact .refl s
  · next hc =>
    split
    · exact .refl s
    · next x rest hl =>
      refine (RecordsKept.of_blocks (t := enqueue p x rest s) (hq := fun q => ?_)).served
      have hroom : (s.queue p).length < (s.point p).cfg.queueLimit := by
        unfold postCheck at hc
        dsimp only at hc
        split_ifs at hc with h1 h2 h3 h4
        omega
      change (((s.setSlot x (postedSlot p s)).setQueue p (s.queue p ++ [x])).queue q).length ≤ _ ∨
        (((s.setSlot x (postedSlot p s)).setQueue p (s.queue p ++ [x])).queue q).length ≤ _
      rw [State.queue_setQueue]
      split
      · next e => subst e; exact .inr (by rw [List.length_append]; exact hroom)
      · exact .inl (le_refl _)

theorem recordsKept_advancePoint (p : PointId) (s : State) : RecordsKept s (advancePoint p s) :=
  (recordsKept_closed s).advancePoint p s (.refl s)

theorem recordsKept_endWith (x : SlotId) (st : Status) (s : State) : RecordsKept s (endWith x st s) :=
  (recordsKept_closed s).endWith x st s (.refl s)

theorem endWith_cu (x : SlotId) (st : Status) (s : State) : (endWith x st s).cu = s.cu := by
  unfold endWith freeStaged
  split
  · exact freeBuffer_cu _ _
  · rfl

theorem recordsKept_cancelQueued (x : SlotId) (p : PointId) (s : State) : RecordsKept s (cancelQueued x p s).1 := by
  have k := recordsKept_closed s
  have hend : RecordsKept s (endWith x (cancelStatus s x) s) := recordsKept_endWith _ _ _
  have hc : (endWith x (cancelStatus s x) s).cu = s.cu := endWith_cu _ _ _
  unfold cancelQueued
  generalize endWith x (cancelStatus s x) s = u at hend hc
  dsimp only
  split
  · dsimp only
    exact .served (k.advancePoint p _ (k.freeSlot x p _ hend))
  · split
    · next hn =>
      dsimp only
      exact .served (k.advancePoint p _ (k.freeSlot x p _ (k.post x p _ (hc ▸ hn) hend)))
    · split
      · dsimp only
        exact .served (k.advancePoint p _ hend)
      · dsimp only
        exact k.settle _ ((RecordsKept.refl s).modSlot x _)

theorem recordsKept_cancelActive (x : SlotId) (p : PointId) (s : State) : RecordsKept s (cancelActive x p s).1 := by
  have k := recordsKept_closed s
  unfold cancelActive
  split
  · dsimp only
    exact .served (k.advancePoint p _ (recordsKept_endWith x _ s))
  · exact k.settle _ ((RecordsKept.refl s).modSlot x _)

theorem recordsKept_cancelExchange (s : State) : RecordsKept s (cancelExchange s).1 := by
  unfold cancelExchange
  split
  · exact .refl s
  · next x _ =>
    dsimp only
    unfold cancelDecision
    dsimp only
    split
    · exact .refl s
    · exact .refl s
    · split
      · exact .refl s
      · exact recordsKept_cancelQueued _ _ _
    · split
      · exact .refl s
      · split
        · exact .refl s
        · exact recordsKept_cancelActive _ _ _
    · exact .refl s

/-! ### The segment and station commands -/

theorem recordsKept_stopSegment (s : State) : RecordsKept s (stopSegment s).1 := by
  unfold stopSegment
  split
  · exact .refl s
  · split
    · exact .of_blocks
    · dsimp only
      exact (recordsKept_closed s).settle _ (recordsKept_enterDown s)

theorem recordsKept_resetSegment (s : State) : RecordsKept s (resetSegment s).1 := by
  unfold resetSegment
  split
  · split
    · exact .of_blocks
    · dsimp only
      exact (recordsKept_closed s).settle _ (recordsKept_enterResettingByReset s)
  · exact .refl s

theorem recordsKept_resumeSegment (s : State) : RecordsKept s (resumeSegment s).1 := by
  unfold resumeSegment
  split
  · split
    · exact .refl s
    · exact .trans (.of_blocks (t := raise .segmentChanged (s.setSeg .running))) (recordsKept_choose _)
  · exact .refl s

theorem recordsKept_clearStation (s : State) : RecordsKept s (clearStation s).1 := by
  unfold clearStation
  split
  · exact .refl s
  · dsimp only
    refine .trans ?_ (recordsKept_choose _)
    exact recordsKept_setStation fun h => ⟨h.1, Nat.zero_le _⟩

/-- RESUME MOVER leaves FAULTED without its record and takes a job (R150). -/
theorem recordsKept_resumeMover (s : State) : RecordsKept s (resumeMover s).1 := by
  unfold resumeMover
  split
  · next hf =>
    dsimp only
    refine (recordsKept_closed s).job _ (.of_blocks (hm := fun ⟨h1, h2, _⟩ => ?_))
    rw [hf] at h1
    exact ⟨h1.trans (by simp), h2, by simp⟩
  · exact .refl s

theorem recordsKept_beginReset (s : State) : RecordsKept s (beginReset s) := by
  unfold beginReset
  dsimp only
  split
  · exact .of_blocks
  · exact .trans .of_blocks (recordsKept_completeReset _)

/-! ### The window -/

theorem recordsKept_postingWalk (n : Nat) (s : State) : RecordsKept s (postingWalk n s) := by
  induction n generalizing s with
  | zero => exact .refl s
  | succ n ih =>
    unfold postingWalk
    split
    · exact .refl s
    · next p rest _ =>
      split
      · next hc =>
        have h1 : RecordsKept s { s with cu := { s.cu with held := rest } } := .of_blocks
        split
        · next x _ =>
          exact (((h1.trans (recordsKept_postRecord x p hc)).trans (recordsKept_freeSlot x p _)).trans
            ((recordsKept_closed _).advance true p _ _ (.refl _))).trans (ih _)
        · exact h1.trans (ih _)
      · exact .refl s

/-- The tail and the count of the ring move together (R159). -/
theorem recordsKept_releaseRecords (n : Nat) (s : State) : RecordsKept s (releaseRecords n s) :=
  .of_blocks (hr := fun ⟨h1, h2⟩ => by
    refine ⟨le_trans (Nat.sub_le _ _) h1, ?_⟩
    change s.cu.head.val = ((s.cu.tail + Fin.ofNat 64 (min n s.cu.count)).val + (s.cu.count - min n s.cu.count)) % 64
    rw [h2, Fin.val_add]
    simp only [Fin.val_ofNat]
    omega)

theorem recordsKept_release (w : Word) (s : State) : RecordsKept s (release w s) := by
  have hwalk : ∀ u, RecordsKept s u →
      RecordsKept s (if u.cu.held = [] then u else choose (settle (postingWalk 64 u))) := by
    intro u hu
    split
    · exact hu
    · exact (hu.trans (recordsKept_postingWalk 64 u)).served
  unfold release
  refine hwalk _ ?_
  split
  · exact (recordsKept_releaseRecords _ s).trans .of_blocks
  · exact recordsKept_releaseRecords _ s

theorem recordsKept_acknowledge (w : Word) (s : State) : RecordsKept s (acknowledge w s) := by
  unfold acknowledge
  split <;> exact .of_blocks

theorem recordsKept_writeHostConfig (w : Word) (s : State) : RecordsKept s (writeHostConfig w s) := by
  unfold writeHostConfig
  dsimp only
  split <;> exact .of_blocks

/-! ### Frames and the census -/

theorem recordsKept_chargeMiss (p : PointId) (s : State) : RecordsKept s (chargeMiss p s) :=
  .raise ((RecordsKept.refl s).modPoint ⟨fun h => ⟨Nat.min_le_left _ _, h.2⟩, id, fun h => ⟨h, rfl⟩⟩) _

theorem recordsKept_settleDue (s : State) : RecordsKept s (settleDue s) :=
  .trans (foldl_keeps (P := RecordsKept s) (fun t p => if countsAsMiss s p then chargeMiss p t else t) (fun t p ht => by
    split
    · exact ht.trans (recordsKept_chargeMiss p t)
    · exact ht) s.fs.due s (.refl s)) .of_blocks

theorem recordsKept_censusAnswered (i : StationId) (s : State) : RecordsKept s (censusAnswered i s) := by
  have h1 : RecordsKept s (s.setStation i { s.station i with silent := 0, answered := true }) :=
    recordsKept_setStation fun h => ⟨Nat.zero_le _, h.2⟩
  unfold censusAnswered
  dsimp only
  split
  · exact .raise (h1.modStation fun h => ⟨h.1, Nat.zero_le _⟩) _
  · exact h1

theorem recordsKept_censusAlert (i : StationId) (s : State) : RecordsKept s (censusAlert i s) := by
  unfold censusAlert
  split
  · exact .refl s
  · exact .raise ((RecordsKept.refl s).modStation id) _

theorem recordsKept_censusClash (i : StationId) (s : State) : RecordsKept s (censusClash i s) := by
  unfold censusClash
  split
  · exact .refl s
  · exact .raise ((RecordsKept.refl s).modStation id) _

theorem recordsKept_censusSilence (i : StationId) (s : State) : RecordsKept s (censusSilence i s) := by
  have h1 : RecordsKept s (s.setStation i
      { s.station i with answered := false, silent := min 15 ((s.station i).silent + 1) }) :=
    recordsKept_setStation fun h => ⟨Nat.min_le_left _ _, h.2⟩
  unfold censusSilence
  dsimp only
  split
  · refine RecordsKept.trans ?_ (recordsKept_settle _)
    exact .haltTaken ((recordsKept_closed s).stationGone _ i _ (.raise (h1.modStation id) _))
  · exact h1

theorem recordsKept_applyCensus (a : CensusAnswer) (i : StationId) (s : State) : RecordsKept s (applyCensus a i s) := by
  cases a with
  | silence => exact recordsKept_censusSilence i s
  | present => exact (recordsKept_censusAnswered i s).haltTaken
  | alert => exact ((recordsKept_censusAnswered i s).trans (recordsKept_censusAlert i _)).haltTaken
  | garbled => exact ((recordsKept_censusAnswered i s).trans (recordsKept_censusClash i _)).haltTaken

theorem recordsKept_watchBit (s : State) (level : Bool) : RecordsKept s (watchBit s level) := by
  unfold watchBit reportWake
  dsimp only
  split_ifs <;> exact .of_blocks

/-! ### Transactions -/

theorem recordsKept_endExchange (x : SlotId) (c : Status) (s : State) : RecordsKept s (endExchange x c s) :=
  (recordsKept_closed s).endExchange x c s (.refl s)

theorem RecordsKept.toggleSeq {s t : State} (h : RecordsKept s t) (p : PointId) : RecordsKept s (toggleSeq p t) :=
  h.modPoint (.of_eq ⟨rfl, rfl, rfl⟩ rfl (le_refl _))

theorem recordsKept_deferPoint (p : PointId) (s : State) : RecordsKept s (deferPoint p s) := by
  unfold deferPoint
  split
  · exact (RecordsKept.refl s).modPoint ⟨fun h => ⟨h.1, h.2.2.1, h.2.2⟩, id, fun h => ⟨h, rfl⟩⟩
  · exact .refl s

theorem recordsKept_storeAccept (t : Txn) (s : State) : RecordsKept s (storeAccept t s) := by
  have k := recordsKept_closed s
  have h := k.free t.buffer _ (((RecordsKept.refl s).modSlot t.slot fun e =>
    { e with bytesLine := e.bytesLine + t.requested, errors := 0 }).toggleSeq t.point)
  unfold storeAccept afterOutcome
  refine k.advancePoint _ _ ?_
  split
  · exact h
  · exact k.endExchange _ _ _ h

theorem recordsKept_refuseOutcome (t : Txn) (s : State) : RecordsKept s (refuseOutcome t s) :=
  ((recordsKept_endExchange _ _ s).trans (recordsKept_haltPoint _ _ _)).trans (recordsKept_advancePoint _ _)

theorem recordsKept_errorOutcome (t : Txn) (st : Status) (s : State) : RecordsKept s (errorOutcome t st s) := by
  have k := recordsKept_closed s
  have h := (RecordsKept.refl s).modSlot t.slot fun e => { e with errors := e.errors + 1 }
  unfold errorOutcome afterOutcome
  refine k.advancePoint _ _ ?_
  split
  · exact k.halt _ _ _ (k.endExchange _ _ _ h)
  · exact h

theorem recordsKept_fetchTaken (t : Txn) (n : Nat) (s : State) : RecordsKept s (fetchTaken t n s) := by
  have k := recordsKept_closed s
  have h1 := ((RecordsKept.refl s).modSlot t.slot fun e =>
    { e with bytesLine := e.bytesLine + n, errors := 0 }).toggleSeq t.point
  unfold fetchTaken afterOutcome
  refine k.advancePoint _ _ ?_
  have hend : ∀ v, RecordsKept s v → RecordsKept s (if (s.slot t.slot).length ≤ (s.slot t.slot).bytesLine + n then
      endExchange t.slot .done v
    else if n < t.requested then endExchange t.slot (if (s.slot t.slot).shortOk then .done else .short) v else v) := by
    intro v hv
    split_ifs
    · exact k.endExchange _ _ _ hv
    · exact k.endExchange _ _ _ hv
    · exact k.endExchange _ _ _ hv
    · exact hv
  refine hend _ ?_
  split
  · exact k.free _ _ h1
  · refine .trans (h1.modBuffer (b := t.buffer) (f := fun r => { r with
      state := .draining, count := n
      addr := some ((s.slot t.slot).hostAddr + BitVec.ofNat 32 (s.slot t.slot).bytesLine) }) ?_) .of_blocks
    exact fun _ hs => by cases hs

theorem recordsKept_fetchDiscarded (t : Txn) (b : Bool) (s : State) : RecordsKept s (fetchDiscarded t b s) := by
  have k := recordsKept_closed s
  have h := (RecordsKept.refl s).modSlot t.slot fun e => { e with errors := 0 }
  unfold fetchDiscarded afterOutcome
  refine k.advancePoint _ _ (k.free _ _ ?_)
  cases b with
  | true => exact h.toggleSeq _
  | false => exact h

theorem recordsKept_applyOutcome (t : Txn) (a : Answer) (s : State) : RecordsKept s (applyOutcome t a s) := by
  have hb := recordsKept_freeBuffer t.buffer s
  have hd := fun u => (recordsKept_deferPoint t.point u).trans (recordsKept_advancePoint t.point _)
  unfold applyOutcome
  split
  · unfold storeOutcome
    split
    · exact recordsKept_storeAccept t s
    · exact hd s
    · exact hb.trans (recordsKept_refuseOutcome t _)
    all_goals exact recordsKept_errorOutcome t _ s
  · unfold fetchOutcome
    split
    · unfold fetchData
      split_ifs
      · exact recordsKept_fetchDiscarded t _ s
      · exact recordsKept_fetchTaken t _ s
      · exact recordsKept_fetchDiscarded t _ s
    · exact hb.trans (hd _)
    · exact hb.trans (recordsKept_refuseOutcome t _)
    all_goals exact hb.trans (recordsKept_errorOutcome t _ _)

theorem streakAfter_le (a : Answer) {n : Nat} (h : n ≤ 15) : streakAfter a n ≤ 15 := by
  unfold streakAfter
  split <;> omega

theorem recordsKept_applyStreak (i : StationId) (a : Answer) (s : State) : RecordsKept s (applyStreak i a s) := by
  have h1 : RecordsKept s (s.setStation i { s.station i with streak := streakAfter a (s.station i).streak }) :=
    recordsKept_setStation fun h => ⟨h.1, streakAfter_le a h.2⟩
  unfold applyStreak
  dsimp only
  split
  · exact (recordsKept_closed s).stationGone _ i _ (.raise (h1.modStation id) _)
  · exact h1

theorem recordsKept_endTxn (t : Txn) (a : Answer) (moment : Nat) (s : State) : RecordsKept s (endTxn t a moment s) := by
  have h : RecordsKept s { s.setElapsed moment with le := { s.le with state := .idle, txn := none } } := .of_blocks
  exact (((h.trans (recordsKept_applyOutcome t a _)).trans (recordsKept_applyStreak _ a _)).trans
    (recordsKept_carryOutWaiting _)).haltTaken.served

theorem recordsKept_receiveData (t : Txn) (k : Nat) (q : Bool) (l : List Byte) (m : Nat) (s : State) :
    RecordsKept s (receiveData t k q l m s) :=
  (recordsKept_setBuffer (b := t.buffer) (r := { s.buffer t.buffer with
    data := writeBytes (s.buffer t.buffer).data 0 l }) id).trans .of_blocks

/-! ### The mover -/

/-- In BURST the mover has no fault record (R147). -/
theorem MoverAgrees.noFault {s : State} (h : MoverAgrees s) (hs : s.pm.state ≠ .faulted) :
    ¬ s.pm.faultRecord.isSome = true := fun k => hs (h.2.2.mp k)

/-- A mover with a job, a burst and no fault record, in WAIT_GRANT or BURST. -/
theorem moverAgrees_busy {t : State} (hs : t.pm.state = .waitGrant ∨ t.pm.state = .burst) (hj : t.pm.job.isSome = true)
    (hu : t.pm.burst.isSome = true) (hf : ¬ t.pm.faultRecord.isSome = true) : MoverAgrees t :=
  ⟨⟨fun _ => hs, fun _ => ⟨hj, hu⟩⟩, hj.trans hu.symm, ⟨fun k => absurd k hf, fun k => by
    rw [k] at hs
    rcases hs with h | h <;> cases h⟩⟩

theorem recordsKept_countMoved (j : Job) (n : Nat) (w : Vector Word 16) {s : State} (hs : s.pm.state = .burst)
    (hu : s.pm.burst.isSome = true) : RecordsKept s (countMoved j n w s) := by
  have h1 : RecordsKept s { s with pm := { s.pm with job := some { j with
      nextAddr := j.nextAddr + BitVec.ofNat 32 n, remaining := j.remaining - n, moved := j.moved + n, retries := 0 } } } :=
    .of_blocks (hm := fun h => moverAgrees_busy (.inr hs) rfl hu (h.noFault (by simp [hs])))
  unfold countMoved
  dsimp only
  split
  · exact h1.trans (recordsKept_setBuffer id)
  · exact h1

theorem countMoved_pm (j : Job) (n : Nat) (w : Vector Word 16) (s : State) : (countMoved j n w s).pm =
    { s.pm with job := some { j with
      nextAddr := j.nextAddr + BitVec.ofNat 32 n, remaining := j.remaining - n, moved := j.moved + n, retries := 0 } } := by
  unfold countMoved
  dsimp only
  split <;> rfl

theorem recordsKept_nextBurst {s : State} (hs : s.pm.state = .burst) : RecordsKept s (nextBurst s) := by
  unfold nextBurst
  split
  · next j hj =>
    exact .of_blocks (hm := fun h => moverAgrees_busy (.inl rfl) (by simp [hj]) rfl (h.noFault (by simp [hs])))
  · exact .refl s

theorem recordsKept_clearJob {s : State} (hs : s.pm.state = .burst) : RecordsKept s (clearJob s) :=
  .of_blocks (hm := fun h => ⟨by simp [clearJob], rfl,
    ⟨fun k => absurd k (h.noFault (by simp [hs])), fun k => by cases k⟩⟩)

theorem recordsKept_advanceOwner (x : SlotId) (s : State) : RecordsKept s (advanceOwner x s) := by
  unfold advanceOwner
  split
  · exact recordsKept_advancePoint _ _
  · exact .refl s

theorem recordsKept_endJob (j : Job) {s : State} (hs : s.pm.state = .burst) : RecordsKept s (endJob j s) := by
  have hcount : ∀ n, RecordsKept s (countMemory j.slot n (clearJob s)) := fun n =>
    (recordsKept_clearJob hs).trans (recordsKept_setSlot _ _ _)
  have hfreed : ∀ n, RecordsKept s (advanceOwner j.slot (freeBuffer j.buffer (countMemory j.slot n (clearJob s)))) :=
    fun n => ((hcount n).trans (recordsKept_freeBuffer _ _)).trans (recordsKept_advanceOwner _ _)
  unfold endJob
  dsimp only
  refine RecordsKept.served ?_
  split
  · unfold stageJobEnd
    dsimp only
    split
    · exact (hcount _).trans (recordsKept_setBuffer fun _ h => by cases h)
    · exact hfreed _
  · exact hfreed _

theorem recordsKept_faultExchange (x : SlotId) (s : State) : RecordsKept s (faultExchange x s) := by
  unfold faultExchange
  split
  · split
    · exact recordsKept_setSlot _ _ _
    · exact recordsKept_endWith _ _ _
  · exact recordsKept_endWith _ _ _
  · exact recordsKept_setSlot _ _ _
  · exact .refl s

theorem recordsKept_faultJob (j : Job) (u : Burst) (c : FaultCause) (s : State) : RecordsKept s (faultJob j u c s) := by
  unfold faultJob
  dsimp only
  refine RecordsKept.served (RecordsKept.haltTaken (.trans ?_ (recordsKept_advanceOwner _ _)))
  refine .trans (.trans ?_ (recordsKept_faultExchange _ _)) (recordsKept_raise _ _)
  refine foldl_keeps (P := RecordsKept s) _ (fun t b ht => ht.trans (recordsKept_freeBuffer b t)) _ _ ?_
  refine .trans (.trans ?_ (recordsKept_setSlot _ _ _)) (recordsKept_freeBuffer _ _)
  exact .of_blocks (hm := fun _ => ⟨by simp, rfl, by simp⟩)

theorem recordsKept_answerCompleted (w : Vector Word 16) (j : Job) (u : Burst) {s : State} (hs : s.pm.state = .burst)
    (hu : s.pm.burst.isSome = true) : RecordsKept s (answerCompleted w j u s) := by
  have h1 := recordsKept_countMoved j u.bytes w hs hu
  have h2 : (countMoved j u.bytes w s).pm.state = .burst := by rw [countMoved_pm]; exact hs
  unfold answerCompleted
  dsimp only
  split
  · exact h1.trans (recordsKept_endJob j h2)
  · exact h1.trans (recordsKept_nextBurst h2)

theorem recordsKept_answerRetry (j : Job) (u : Burst) {s : State} (hs : s.pm.state = .burst)
    (hu : s.pm.burst.isSome = true) : RecordsKept s (answerRetry j u s) := by
  unfold answerRetry
  split
  · exact recordsKept_faultJob _ _ _ _
  · exact .of_blocks (hm := fun h => moverAgrees_busy (.inl rfl) rfl hu (h.noFault (by simp [hs])))

/-! ### Every step -/

theorem recordsKept_windowWrite {s t : State} {f : State → State} (h : windowWrite s f = .next t)
    (hf : RecordsKept s (f s)) : RecordsKept s t := by
  rcases windowWrite_next h with rfl | ⟨_, rfl⟩
  · exact .refl _
  · exact hf

theorem recordsKept_setWindow (w : HostWindow) (s : State) : RecordsKept s { s with hw := w } := .of_blocks

theorem recordsKept_setLineEngine (l : LineEngine) (s : State) : RecordsKept s { s with le := l } := .of_blocks

theorem recordsKept_setElapsed (n : Nat) (s : State) : RecordsKept s (s.setElapsed n) := .of_blocks

/-- A result reaches the window alone (R189). -/
theorem writeResult_blocks (code : BitVec 8) (r : Reply) (s : State) :
    writeResult code r s = { s with hw := (writeResult code r s).hw } := by
  unfold writeResult
  rfl

theorem recordsKept_writeResult (code : BitVec 8) (r : Reply) (s : State) : RecordsKept s (writeResult code r s) := by
  rw [writeResult_blocks]
  exact recordsKept_setWindow _ s

theorem recordsKept_command {s t : State} {code : BitVec 8} {f : State → State × Reply}
    (h : command code f s = .next t) (hf : RecordsKept s (f s).1) : RecordsKept s t := by
  rcases command_next h with rfl | ⟨_, rfl⟩
  · exact .refl _
  · exact hf.trans (recordsKept_writeResult _ _ _)

theorem recordsKept_onPoint {s : State} {f : PointId → State → State × Reply} (hf : ∀ p, RecordsKept s (f p s).1) :
    RecordsKept s (onPoint f s).1 := by
  rcases onPoint_eq f s with h | ⟨p, _, h⟩
  · rw [h]; exact .refl s
  · rw [h]; exact hf p

/-- An answer of the bus partner keeps the records where its effect on the job does. -/
theorem recordsKept_onAnswer {s t : State} {f : Job → Burst → State → Out} (h : onAnswer f s = .next t)
    (hf : ∀ j u, s.pm.state = .burst → s.pm.burst.isSome = true → f j u s = .next t → RecordsKept s t) :
    RecordsKept s t := by
  obtain ⟨hb, rfl | ⟨_, j, u, _, hu, h⟩⟩ := onAnswer_next h
  · exact recordsKept_completeReset s
  · exact hf j u hb (by simp [hu]) h

theorem recordsKept_exec {i : Instr} {s t : State} (h : exec i s = .next t) : RecordsKept s t := by
  cases i with
  | configurePoint =>
    exact recordsKept_command (show execConfigurePoint s = _ from h)
      (recordsKept_onPoint fun p => recordsKept_configurePoint p s)
  | enablePoint =>
    exact recordsKept_command (show execEnablePoint s = _ from h)
      (recordsKept_onPoint fun p => recordsKept_enablePoint p s)
  | disablePoint =>
    exact recordsKept_command (show execDisablePoint s = _ from h)
      (recordsKept_onPoint fun p => recordsKept_disablePoint p s)
  | pausePoint =>
    exact recordsKept_command (show execPausePoint s = _ from h)
      (recordsKept_onPoint fun p => recordsKept_pausePoint p s)
  | continuePoint =>
    exact recordsKept_command (show execContinuePoint s = _ from h)
      (recordsKept_onPoint fun p => recordsKept_continuePoint p s)
  | clearPoint =>
    exact recordsKept_command (show execClearPoint s = _ from h)
      (recordsKept_onPoint fun p => recordsKept_clearPoint p s)
  | inspectPoint =>
    exact recordsKept_command (show execInspectPoint s = _ from h) (recordsKept_onPoint fun _ => .refl s)
  | postExchange =>
    exact recordsKept_command (show execPostExchange s = _ from h)
      (recordsKept_onPoint fun p => recordsKept_postExchange p s)
  | cancelExchange => exact recordsKept_command (show execCancelExchange s = _ from h) (recordsKept_cancelExchange s)
  | inspectSlot =>
    exact recordsKept_command (show execInspectSlot s = _ from h) (by unfold inspectSlot; split <;> exact .refl s)
  | inspectLoad =>
    exact recordsKept_command (show execInspectLoad s = _ from h) (by unfold inspectLoad; split <;> exact .refl s)
  | setSegmentParameters =>
    exact recordsKept_command (show execSetSegmentParameters s = _ from h)
      (by unfold setSegmentParameters; dsimp only; split_ifs <;> exact .of_blocks)
  | startSegment =>
    refine recordsKept_command (show execStartSegment s = _ from h) ?_
    unfold startSegment
    split
    · exact (recordsKept_enterResettingCore s).trans .of_blocks
    · exact .refl s
  | stopSegment => exact recordsKept_command (show execStopSegment s = _ from h) (recordsKept_stopSegment s)
  | resetSegment => exact recordsKept_command (show execResetSegment s = _ from h) (recordsKept_resetSegment s)
  | haltSegment =>
    refine recordsKept_command (show execHaltSegment s = _ from h) ?_
    unfold haltSegment
    split
    · exact recordsKept_enterHalting s
    · exact .refl s
  | resumeSegment => exact recordsKept_command (show execResumeSegment s = _ from h) (recordsKept_resumeSegment s)
  | suspendSegment =>
    exact recordsKept_command (show execSuspendSegment s = _ from h)
      (by unfold suspendSegment; split <;> exact .of_blocks)
  | wakeSegment =>
    exact recordsKept_command (show execWakeSegment s = _ from h)
      (by unfold wakeSegment; split <;> exact .of_blocks)
  | clearStation => exact recordsKept_command (show execClearStation s = _ from h) (recordsKept_clearStation s)
  | resumeMover => exact recordsKept_command (show execResumeMover s = _ from h) (recordsKept_resumeMover s)
  | resetController =>
    exact recordsKept_windowWrite (show execResetController s = _ from h)
      ((recordsKept_writeResult _ _ s).trans (recordsKept_beginReset _))
  | unknownCommand code =>
    rcases execUnknownCommand_next h with rfl | ⟨r, rfl⟩
    · exact .refl _
    · exact recordsKept_writeResult _ _ s
  | eventAck w => exact recordsKept_windowWrite (show execEventAck w s = _ from h) (recordsKept_acknowledge w s)
  | completionRelease w =>
    exact recordsKept_windowWrite (show execCompletionRelease w s = _ from h) (recordsKept_release w s)
  | eventQuietWrite w => exact recordsKept_windowWrite (show execEventQuietWrite w s = _ from h) .of_blocks
  | accessStatusWrite w => exact recordsKept_windowWrite (show execAccessStatusWrite w s = _ from h) .of_blocks
  | hostConfigWrite w =>
    exact recordsKept_windowWrite (show execHostConfigWrite w s = _ from h) (recordsKept_writeHostConfig w s)
  | reportEnableWrite w => exact recordsKept_windowWrite (show execReportEnableWrite w s = _ from h) .of_blocks
  | haltEnableWrite w => exact recordsKept_windowWrite (show execHaltEnableWrite w s = _ from h) .of_blocks
  | routeWrite w => exact recordsKept_windowWrite (show execRouteWrite w s = _ from h) .of_blocks
  | registerWrite i w => exact recordsKept_windowWrite (show execRegisterWrite i w s = _ from h) .of_blocks
  | readOnlyWrite r w =>
    exact recordsKept_windowWrite (show execReadOnlyWrite r w s = _ from h) (.raise (recordsKept_setWindow _ s) _)
  | undefinedOffset w o e =>
    rcases execUndefinedOffset_next (w := w) h with rfl | rfl
    · exact .refl _
    · exact .of_blocks
  | deviceReset =>
    rw [execDeviceReset_next h]
    exact (recordsKept_completeReset s).trans (recordsKept_setWindow _ _)
  | markEnd =>
    obtain ⟨_, _, rfl⟩ := execMarkEnd_next h
    exact .trans .of_blocks (recordsKept_choose _)
  | censusStart =>
    obtain ⟨_, _, rfl⟩ := execCensusStart_next h
    exact .haltTaken (((recordsKept_setElapsed _ s).trans (recordsKept_settleDue _)).trans
      (recordsKept_setLineEngine _ _))
  | frameEnd =>
    obtain ⟨_, _, ⟨_, rfl⟩ | ⟨_, rfl⟩⟩ := execFrameEnd_next h
    · exact .trans (.trans .of_blocks (recordsKept_beginFrame _ _)) (recordsKept_raise _ _)
    · exact .of_blocks
  | censusSlotEnd i v =>
    obtain ⟨_, _, _, rfl⟩ := execCensusSlotEnd_next h
    exact .trans .of_blocks (recordsKept_applyCensus _ i _)
  | suspendMarkEnd =>
    obtain ⟨_, _, rfl⟩ := execSuspendMarkEnd_next h
    exact .of_blocks
  | resetSignallingEnd =>
    obtain ⟨_, _, rfl⟩ := execResetSignallingEnd_next h
    exact recordsKept_openAfterSignalling _ s
  | wakeSignallingEnd =>
    obtain ⟨_, _, rfl⟩ := execWakeSignallingEnd_next h
    exact recordsKept_openAfterSignalling _ s
  | wakePattern levels =>
    cases h
    have key : ∀ (l : List Bool) (u : State), RecordsKept s u → RecordsKept s (l.foldl watchBit u) := fun l => by
      induction l with
      | nil => exact fun _ hu => hu
      | cons b l ih => exact fun u hu => ih _ (hu.trans (recordsKept_watchBit u b))
    exact key levels s (.refl s)
  | requestEnd =>
    obtain ⟨_, _, _, rfl⟩ := execRequestEnd_next h
    exact .of_blocks
  | storeDataEnd =>
    obtain ⟨_, _, _, _, rfl⟩ := execStoreDataEnd_next h
    exact .of_blocks
  | answerBegins d =>
    obtain rfl | ⟨_, _, _, _, rfl⟩ := execAnswerBegins_next h
    · exact .refl _
    · exact .of_blocks
  | dataReceived levels =>
    obtain ⟨_, _, _, _, _, _, _, rfl⟩ := execDataReceived_next h
    exact recordsKept_receiveData _ _ _ _ _ s
  | transactionEnd levels =>
    obtain ⟨_, _, _, _, _, _, rfl⟩ := execTransactionEnd_next h
    exact recordsKept_endTxn _ _ _ s
  | busGrant =>
    obtain ⟨hw, rfl⟩ := execBusGrant_next h
    refine .of_blocks (hm := fun h => ?_)
    obtain ⟨hj, hu⟩ := h.1.mpr (.inl hw)
    exact moverAgrees_busy (.inr rfl) hj hu (h.noFault (by simp [hw]))
  | burstCompleted w =>
    refine recordsKept_onAnswer (show execBurstCompleted w s = _ from h) fun j u hs hu h => ?_
    cases h
    exact recordsKept_answerCompleted w j u hs hu
  | burstRetry =>
    refine recordsKept_onAnswer (show execBurstRetry s = _ from h) fun j u hs hu h => ?_
    cases h
    exact recordsKept_answerRetry j u hs hu
  | burstCutShort k w =>
    refine recordsKept_onAnswer (show execBurstCutShort k w s = _ from h) fun j u hs hu h => ?_
    split at h <;> cases h
    exact (recordsKept_countMoved j _ w hs hu).trans (recordsKept_nextBurst (by rw [countMoved_pm]; exact hs))
  | burstError =>
    refine recordsKept_onAnswer (show execBurstError s = _ from h) fun j u _ _ h => ?_
    obtain rfl := Host.Outcome.next.inj h
    exact recordsKept_faultJob j u .busError s
  | releaseIntervalEnd l =>
    obtain ⟨_, _, rfl⟩ := execReleaseIntervalEnd_next h
    exact .of_blocks
  | resetPinReleased =>
    rw [execResetPinReleased_next h]
    exact .of_blocks

theorem recordsKept_tick (s : State) : RecordsKept s (tick s) := by
  unfold tick
  split_ifs <;> exact .of_blocks

theorem recordsKept_step {s t : State} (h : step s = .next t) : RecordsKept s t := by
  unfold step at h
  split at h
  · cases h
    exact recordsKept_tick s
  · exact RecordsKept.trans .of_blocks (recordsKept_exec h)

end Sys2Proof.Machine
end

section
/-! SUPPORT. No step leaves a halt request untaken (R113): what the event unit holds of one after each operation, and the
happenings that raise a halting cause, which take the request at their end (R115). -/

namespace Sys2Proof.Machine

set_option Elab.async false

/-! ### Operations that leave the event unit alone -/

theorem endWith_eu (x : SlotId) (st : Status) (s : State) : (endWith x st s).eu = s.eu := by
  unfold endWith freeStaged
  split
  · exact freeBuffer_eu _ _
  · rfl

theorem endExchange_eu (x : SlotId) (c : Status) (s : State) : (endExchange x c s).eu = s.eu := by
  unfold endExchange
  split
  · exact endWith_eu _ _ _
  · exact endWith_eu _ _ _
  · rfl
  · rfl

theorem endPending_eu (x : SlotId) (s : State) : (endPending x s).eu = s.eu := by
  unfold endPending
  dsimp only
  split
  · split
    · exact endExchange_eu _ _ _
    · rfl
  · split
    · rfl
    · split
      · exact endExchange_eu _ _ _
      · split
        · exact endExchange_eu _ _ _
        · rfl
  · rfl
  · rfl

theorem settle_eu (s : State) : (settle s).eu = s.eu := by
  have h := congrArg State.eu (settle_only s).blocks
  exact h

theorem beginTxn_eu (p : PointId) (s : State) : (beginTxn p s).eu = s.eu := by rw [beginTxn_blocks]

theorem choose_eu (s : State) : (choose s).eu = s.eu := by
  unfold choose
  split
  · split
    · rw [beginTxn_eu]
    · split
      · rw [beginTxn_eu]
      · rfl
  · rfl

/-! ### Operations that raise no halting cause -/

/-- No halt request waits where none did before. -/
theorem haltRequest_raise {c : Cause} (h : c.haltClass = .notHalting) (s : State) :
    (raise c s).eu.haltRequest = s.eu.haltRequest :=
  take_haltRequest_of_not _ _ _ (by unfold EventUnit.halting; rw [h])

theorem haltRequest_postRecord (x : SlotId) (p : PointId) (s : State) :
    (postRecord x p s).eu.haltRequest = s.eu.haltRequest := by
  unfold postRecord
  rw [haltRequest_raise rfl]

theorem haltRequest_joinHeld (w : Bool) (p : PointId) (s : State) :
    (joinHeld w p s).eu.haltRequest = s.eu.haltRequest := by
  unfold joinHeld
  dsimp only
  split
  · rw [haltRequest_raise rfl]
  · rfl

theorem haltRequest_retireFirst (w : Bool) (p : PointId) (x : SlotId) (s : State) :
    (retireFirst w p x s).1.eu.haltRequest = s.eu.haltRequest := by
  unfold retireFirst
  split
  · split
    · split
      · rw [freeSlot_eu, haltRequest_postRecord]
      · split
        · rfl
        · exact haltRequest_joinHeld _ _ _
    · rw [freeSlot_eu]
  · rfl

theorem haltRequest_closePoint (p : PointId) (s : State) : (closePoint p s).eu.haltRequest = s.eu.haltRequest := by
  unfold closePoint
  split
  · unfold reachDisabled
    rw [haltRequest_raise rfl]
    rfl
  · rfl

theorem haltRequest_advance (w : Bool) (p : PointId) (xs : List SlotId) (s : State) :
    (advance w p xs s).eu.haltRequest = s.eu.haltRequest := by
  induction xs generalizing s with
  | nil => exact haltRequest_closePoint p s
  | cons x xs ih =>
    unfold advance
    dsimp only
    split
    · rw [ih, haltRequest_retireFirst, endPending_eu]
    · rw [haltRequest_retireFirst, endPending_eu]

theorem haltRequest_advancePoint (p : PointId) (s : State) :
    (advancePoint p s).eu.haltRequest = s.eu.haltRequest := haltRequest_advance _ _ _ _

theorem haltRequest_endActive (c : Status) (p : PointId) (s : State) :
    (endActive c p s).eu.haltRequest = s.eu.haltRequest := by
  unfold endActive
  split
  · split
    · rw [haltRequest_advancePoint, endExchange_eu]
    · rfl
  · rfl

theorem haltRequest_endAllActive (s : State) : (endAllActive s).eu.haltRequest = s.eu.haltRequest := by
  unfold endAllActive
  exact foldl_keeps (P := fun t => t.eu.haltRequest = s.eu.haltRequest) (fun t p => endActive .lineReset p t)
    (fun t p ht => (haltRequest_endActive .lineReset p t).trans ht) (List.finRange 64) s rfl

theorem markAll_eu (xs : List SlotId) (s : State) : (markAll xs s).eu = s.eu :=
  foldl_keeps (P := fun t => t.eu = s.eu) (fun t x => t.modSlot x fun e => { e with cancelRequested := true })
    (fun _ _ ht => ht) xs s rfl

theorem haltRequest_flushWalk (p : PointId) (xs : List SlotId) (s : State) :
    (flushWalk p xs s).eu.haltRequest = s.eu.haltRequest := by
  have hflush : ∀ x u, (flushFirst x u).eu = u.eu := fun x u => by
    unfold flushFirst
    dsimp only
    split
    · exact endWith_eu _ _ _
    · split
      · rfl
      · split
        · exact endWith_eu _ _ _
        · rfl
    · rfl
    · rfl
  induction xs generalizing s with
  | nil => exact haltRequest_closePoint p s
  | cons x xs ih =>
    unfold flushWalk
    dsimp only
    split
    · rw [ih, haltRequest_retireFirst, hflush]
    · rw [markAll_eu, haltRequest_retireFirst, hflush]

theorem haltRequest_postingWalk (n : Nat) (s : State) : (postingWalk n s).eu.haltRequest = s.eu.haltRequest := by
  induction n generalizing s with
  | zero => rfl
  | succ n ih =>
    unfold postingWalk
    split
    · rfl
    · split
      · dsimp only
        split
        · rw [ih, haltRequest_advance, freeSlot_eu, haltRequest_postRecord]
        · rw [ih]
      · rfl

theorem haltRequest_enterDown (s : State) : (enterDown s).eu.haltRequest = s.eu.haltRequest := by
  unfold enterDown
  dsimp only
  rw [haltRequest_raise rfl, haltRequest_endAllActive]
  rfl

theorem haltRequest_enterResettingByReset (s : State) :
    (enterResettingByReset s).eu.haltRequest = s.eu.haltRequest := by
  unfold enterResettingByReset
  rw [haltRequest_endAllActive, enterResettingCore_eu]

theorem haltRequest_enterHalted (s : State) : (enterHalted s).eu.haltRequest = s.eu.haltRequest := by
  unfold enterHalted
  rw [haltRequest_raise rfl]

theorem haltRequest_enterHalting (s : State) : (enterHalting s).eu.haltRequest = s.eu.haltRequest := by
  unfold enterHalting
  dsimp only
  split
  · rfl
  · rw [haltRequest_enterHalted]
    rfl

theorem haltRequest_openAfterSignalling (f : BitVec 12) (s : State) :
    (openAfterSignalling f s).eu.haltRequest = s.eu.haltRequest := by
  unfold openAfterSignalling
  rw [haltRequest_raise rfl, haltRequest_raise rfl, beginFrame_eu]
  split <;> rfl

theorem haltRequest_watchBit (s : State) (level : Bool) : (watchBit s level).eu.haltRequest = s.eu.haltRequest := by
  have hwake : ∀ u, (reportWake u).eu.haltRequest = u.eu.haltRequest := fun u => by
    unfold reportWake
    dsimp only
    split
    · rw [enterWaking_eu, haltRequest_raise rfl]
    · rw [haltRequest_raise rfl]
  unfold watchBit
  split
  · dsimp only
    split
    · exact hwake _
    · rfl
  · rfl

/-- Taking the halt requests of a happening leaves none (R115). -/
theorem haltRequest_takeHaltRequests (s : State) : (takeHaltRequests s).eu.haltRequest = false := by
  unfold takeHaltRequests
  split
  · unfold haltRequest
    split
    · rw [haltRequest_enterHalting]
    · rw [haltRequest_enterHalting]
    all_goals rfl
  · next h => simpa using h

theorem haltRequest_completeReset (s : State) : (completeReset s).eu.haltRequest = false := by
  rw [completeReset_eu]
  rfl

/-! ### The commands -/

theorem haltRequest_enablePoint (p : PointId) (s : State) :
    (enablePoint p s).1.eu.haltRequest = s.eu.haltRequest := by
  unfold enablePoint
  dsimp only
  split
  · split
    · split
      · rw [choose_eu, settle_eu, admitPoint_eu]
      · split
        · rw [choose_eu, settle_eu, admitPoint_eu]
        · rfl
    · rfl
  · rfl

theorem haltRequest_disablePoint (p : PointId) (s : State) :
    (disablePoint p s).1.eu.haltRequest = s.eu.haltRequest := by
  have hclose : (closeAndFlush p s).eu.haltRequest = s.eu.haltRequest := by
    unfold closeAndFlush
    dsimp only
    rw [choose_eu, settle_eu, haltRequest_flushWalk]
    rfl
  unfold disablePoint
  split
  · rfl
  · rfl
  all_goals
    dsimp only
    exact hclose

theorem haltRequest_cancelExchange (s : State) : (cancelExchange s).1.eu.haltRequest = s.eu.haltRequest := by
  have hqueued : ∀ x p, (cancelQueued x p s).1.eu.haltRequest = s.eu.haltRequest := fun x p => by
    unfold cancelQueued
    dsimp only
    split
    · rw [choose_eu, settle_eu, haltRequest_advancePoint, freeSlot_eu, endWith_eu]
    · split
      · rw [choose_eu, settle_eu, haltRequest_advancePoint, freeSlot_eu, haltRequest_postRecord, endWith_eu]
      · split
        · rw [choose_eu, settle_eu, haltRequest_advancePoint, endWith_eu]
        · rw [settle_eu]
          rfl
  have hactive : ∀ x p, (cancelActive x p s).1.eu.haltRequest = s.eu.haltRequest := fun x p => by
    unfold cancelActive
    split
    · rw [choose_eu, settle_eu, haltRequest_advancePoint, endWith_eu]
    · rw [settle_eu]
      rfl
  unfold cancelExchange
  split
  · rfl
  · dsimp only
    unfold cancelDecision
    dsimp only
    split
    · rfl
    · rfl
    · split
      · rfl
      · exact hqueued _ _
    · split
      · rfl
      · split
        · rfl
        · exact hactive _ _
    · rfl

theorem haltRequest_release (w : Word) (s : State) : (release w s).eu.haltRequest = s.eu.haltRequest := by
  have hwalk : ∀ u : State, (if u.cu.held = [] then u else choose (settle (postingWalk 64 u))).eu.haltRequest =
      u.eu.haltRequest := by
    intro u
    split
    · rfl
    · rw [choose_eu, settle_eu, haltRequest_postingWalk]
  unfold release
  refine (hwalk _).trans ?_
  split
  · rw [haltRequest_raise rfl, setAccess_eu, releaseRecords_eu]
  · rw [releaseRecords_eu]

theorem haltRequest_acknowledge (w : Word) (s : State) : (acknowledge w s).eu.haltRequest = s.eu.haltRequest := by
  unfold acknowledge
  split
  · unfold EventUnit.acknowledge
    dsimp only
    split <;> rfl
  · rw [haltRequest_raise rfl]
    rfl

/-! ### The mover -/

theorem haltRequest_advanceOwner (x : SlotId) (s : State) : (advanceOwner x s).eu.haltRequest = s.eu.haltRequest := by
  unfold advanceOwner
  split
  · exact haltRequest_advancePoint _ _
  · rfl

theorem haltRequest_endJob (j : Job) (s : State) : (endJob j s).eu.haltRequest = s.eu.haltRequest := by
  unfold endJob
  dsimp only
  rw [choose_eu, settle_eu]
  split
  · unfold stageJobEnd
    dsimp only
    split
    · rfl
    · rw [haltRequest_advanceOwner, freeBuffer_eu]
      rfl
  · unfold drainJobEnd
    rw [haltRequest_advanceOwner, freeBuffer_eu]
    rfl

theorem haltRequest_faultJob (j : Job) (u : Burst) (c : FaultCause) (s : State) :
    (faultJob j u c s).eu.haltRequest = false := by
  unfold faultJob
  dsimp only
  rw [choose_eu, settle_eu, haltRequest_takeHaltRequests]

theorem haltRequest_endTxn (t : Txn) (a : Answer) (moment : Nat) (s : State) :
    (endTxn t a moment s).eu.haltRequest = false := by
  unfold endTxn
  rw [choose_eu, settle_eu, haltRequest_takeHaltRequests]

/-! ### Every step -/

section

variable {s t : State} (hs : HaltRequestsTaken s)
include hs

theorem haltRequestsTaken_windowWrite {f : State → State} (h : windowWrite s f = .next t)
    (hf : (f s).eu.haltRequest = s.eu.haltRequest) : HaltRequestsTaken t := by
  rcases windowWrite_next h with rfl | ⟨_, rfl⟩
  · exact hs
  · exact hf.trans hs

theorem haltRequestsTaken_command {code : BitVec 8} {f : State → State × Reply} (h : command code f s = .next t)
    (hf : (f s).1.eu.haltRequest = s.eu.haltRequest) : HaltRequestsTaken t := by
  rcases command_next h with rfl | ⟨_, rfl⟩
  · exact hs
  · rw [HaltRequestsTaken, writeResult_eu, hf]
    exact hs

theorem haltRequestsTaken_applyCensus (a : CensusAnswer) (i : StationId) : HaltRequestsTaken (applyCensus a i s) := by
  cases a with
  | silence =>
    unfold applyCensus censusSilence
    dsimp only
    split
    · change (settle _).eu.haltRequest = false
      rw [settle_eu, haltRequest_takeHaltRequests]
    · exact hs
  | present => exact haltRequest_takeHaltRequests _
  | alert => exact haltRequest_takeHaltRequests _
  | garbled => exact haltRequest_takeHaltRequests _

end

theorem haltRequest_onPoint {s : State} {f : PointId → State → State × Reply}
    (hf : ∀ p, (f p s).1.eu.haltRequest = s.eu.haltRequest) : (onPoint f s).1.eu.haltRequest = s.eu.haltRequest := by
  rcases onPoint_eq f s with h | ⟨p, _, h⟩
  · rw [h]
  · rw [h]; exact hf p

theorem haltRequestsTaken_exec {i : Instr} {s t : State} (hs : HaltRequestsTaken s) (h : exec i s = .next t) :
    HaltRequestsTaken t := by
  cases i with
  | configurePoint =>
    refine haltRequestsTaken_command hs (show execConfigurePoint s = _ from h) (haltRequest_onPoint fun p => ?_)
    unfold configurePoint
    split
    · split <;> rfl
    · rfl
  | enablePoint =>
    exact haltRequestsTaken_command hs (show execEnablePoint s = _ from h)
      (haltRequest_onPoint fun p => haltRequest_enablePoint p s)
  | disablePoint =>
    exact haltRequestsTaken_command hs (show execDisablePoint s = _ from h)
      (haltRequest_onPoint fun p => haltRequest_disablePoint p s)
  | pausePoint =>
    refine haltRequestsTaken_command hs (show execPausePoint s = _ from h) (haltRequest_onPoint fun p => ?_)
    unfold pausePoint
    split
    · rw [settle_eu]; rfl
    · rfl
  | continuePoint =>
    refine haltRequestsTaken_command hs (show execContinuePoint s = _ from h) (haltRequest_onPoint fun p => ?_)
    unfold continuePoint
    split
    · rw [choose_eu, settle_eu]; rfl
    · rfl
  | clearPoint =>
    refine haltRequestsTaken_command hs (show execClearPoint s = _ from h) (haltRequest_onPoint fun p => ?_)
    unfold clearPoint
    split
    · rw [choose_eu, settle_eu]; rfl
    · rfl
  | inspectPoint =>
    exact haltRequestsTaken_command hs (show execInspectPoint s = _ from h) (haltRequest_onPoint fun _ => rfl)
  | postExchange =>
    refine haltRequestsTaken_command hs (show execPostExchange s = _ from h) (haltRequest_onPoint fun p => ?_)
    unfold postExchange
    split
    · rfl
    · split
      · rfl
      · dsimp only
        rw [choose_eu, settle_eu, enqueue_eu]
  | cancelExchange =>
    exact haltRequestsTaken_command hs (show execCancelExchange s = _ from h) (haltRequest_cancelExchange s)
  | inspectSlot =>
    exact haltRequestsTaken_command hs (show execInspectSlot s = _ from h) (by unfold inspectSlot; split <;> rfl)
  | inspectLoad =>
    exact haltRequestsTaken_command hs (show execInspectLoad s = _ from h) (by unfold inspectLoad; split <;> rfl)
  | setSegmentParameters =>
    exact haltRequestsTaken_command hs (show execSetSegmentParameters s = _ from h)
      (by unfold setSegmentParameters; dsimp only; split_ifs <;> rfl)
  | startSegment =>
    refine haltRequestsTaken_command hs (show execStartSegment s = _ from h) ?_
    unfold startSegment
    split
    · dsimp only
      rw [enterResettingByStart_eu]
    · rfl
  | stopSegment =>
    refine haltRequestsTaken_command hs (show execStopSegment s = _ from h) ?_
    unfold stopSegment
    split
    · rfl
    · split
      · rfl
      · dsimp only
        rw [settle_eu, haltRequest_enterDown]
  | resetSegment =>
    refine haltRequestsTaken_command hs (show execResetSegment s = _ from h) ?_
    unfold resetSegment
    split
    · split
      · rfl
      · dsimp only
        rw [settle_eu, haltRequest_enterResettingByReset]
    · rfl
  | haltSegment =>
    refine haltRequestsTaken_command hs (show execHaltSegment s = _ from h) ?_
    unfold haltSegment
    split
    · exact haltRequest_enterHalting s
    · rfl
  | resumeSegment =>
    refine haltRequestsTaken_command hs (show execResumeSegment s = _ from h) ?_
    unfold resumeSegment
    split
    · split
      · rfl
      · dsimp only
        rw [choose_eu, haltRequest_raise rfl]
        rfl
    · rfl
  | suspendSegment =>
    exact haltRequestsTaken_command hs (show execSuspendSegment s = _ from h)
      (by unfold suspendSegment; split <;> rfl)
  | wakeSegment =>
    exact haltRequestsTaken_command hs (show execWakeSegment s = _ from h) (by unfold wakeSegment; split <;> rfl)
  | clearStation =>
    refine haltRequestsTaken_command hs (show execClearStation s = _ from h) ?_
    unfold clearStation
    split
    · rfl
    · dsimp only
      rw [choose_eu]
      rfl
  | resumeMover =>
    refine haltRequestsTaken_command hs (show execResumeMover s = _ from h) ?_
    unfold resumeMover
    split
    · dsimp only
      rw [takeJob_blocks]
    · rfl
  | resetController =>
    rcases windowWrite_next (show execResetController s = _ from h) with rfl | ⟨_, rfl⟩
    · exact hs
    · unfold beginReset
      dsimp only
      split
      · rw [HaltRequestsTaken, writeResult_eu]
        exact hs
      · exact haltRequest_completeReset _
  | unknownCommand code =>
    rcases execUnknownCommand_next h with rfl | ⟨r, rfl⟩
    · exact hs
    · rw [HaltRequestsTaken, writeResult_eu]
      exact hs
  | eventAck w =>
    exact haltRequestsTaken_windowWrite hs (show execEventAck w s = _ from h) (haltRequest_acknowledge w s)
  | completionRelease w =>
    exact haltRequestsTaken_windowWrite hs (show execCompletionRelease w s = _ from h) (haltRequest_release w s)
  | eventQuietWrite w => exact haltRequestsTaken_windowWrite hs (show execEventQuietWrite w s = _ from h) rfl
  | accessStatusWrite w => exact haltRequestsTaken_windowWrite hs (show execAccessStatusWrite w s = _ from h) rfl
  | hostConfigWrite w =>
    exact haltRequestsTaken_windowWrite hs (show execHostConfigWrite w s = _ from h)
      (by unfold writeHostConfig; dsimp only; split <;> rfl)
  | reportEnableWrite w => exact haltRequestsTaken_windowWrite hs (show execReportEnableWrite w s = _ from h) rfl
  | haltEnableWrite w => exact haltRequestsTaken_windowWrite hs (show execHaltEnableWrite w s = _ from h) rfl
  | routeWrite w => exact haltRequestsTaken_windowWrite hs (show execRouteWrite w s = _ from h) rfl
  | registerWrite i w => exact haltRequestsTaken_windowWrite hs (show execRegisterWrite i w s = _ from h) rfl
  | readOnlyWrite r w =>
    exact haltRequestsTaken_windowWrite hs (show execReadOnlyWrite r w s = _ from h) (haltRequest_raise rfl _)
  | undefinedOffset w o e =>
    rcases execUndefinedOffset_next (w := w) h with rfl | rfl
    · exact hs
    · exact (haltRequest_raise rfl _).trans hs
  | deviceReset =>
    have ht := congrArg State.eu (execDeviceReset_next (show execDeviceReset s = _ from h))
    exact (congrArg EventUnit.haltRequest ht).trans (haltRequest_completeReset s)
  | markEnd =>
    obtain ⟨_, _, rfl⟩ := execMarkEnd_next h
    exact (congrArg EventUnit.haltRequest (choose_eu _)).trans hs
  | censusStart =>
    obtain ⟨_, _, rfl⟩ := execCensusStart_next h
    exact haltRequest_takeHaltRequests _
  | frameEnd =>
    obtain ⟨_, _, ⟨_, rfl⟩ | ⟨_, rfl⟩⟩ := execFrameEnd_next h
    · exact (haltRequest_raise rfl _).trans hs
    · exact (haltRequest_raise rfl _).trans hs
  | censusSlotEnd i v =>
    obtain ⟨_, _, _, rfl⟩ := execCensusSlotEnd_next h
    refine haltRequestsTaken_applyCensus ?_ _ i
    exact hs
  | suspendMarkEnd =>
    obtain ⟨_, _, rfl⟩ := execSuspendMarkEnd_next h
    exact hs
  | resetSignallingEnd =>
    obtain ⟨_, _, rfl⟩ := execResetSignallingEnd_next h
    exact (haltRequest_openAfterSignalling _ s).trans hs
  | wakeSignallingEnd =>
    obtain ⟨_, _, rfl⟩ := execWakeSignallingEnd_next h
    exact (haltRequest_openAfterSignalling _ s).trans hs
  | wakePattern levels =>
    obtain rfl := Host.Outcome.next.inj h
    have key : ∀ (l : List Bool) (u : State), (l.foldl watchBit u).eu.haltRequest = u.eu.haltRequest := fun l => by
      induction l with
      | nil => exact fun _ => rfl
      | cons b l ih => exact fun u => (ih _).trans (haltRequest_watchBit u b)
    exact (key levels s).trans hs
  | requestEnd =>
    obtain ⟨_, _, _, rfl⟩ := execRequestEnd_next h
    exact hs
  | storeDataEnd =>
    obtain ⟨_, _, _, _, rfl⟩ := execStoreDataEnd_next h
    exact hs
  | answerBegins d =>
    obtain rfl | ⟨_, _, _, _, rfl⟩ := execAnswerBegins_next h
    · exact hs
    · exact hs
  | dataReceived levels =>
    obtain ⟨_, _, _, _, _, _, _, rfl⟩ := execDataReceived_next h
    exact hs
  | transactionEnd levels =>
    obtain ⟨_, _, _, _, _, _, rfl⟩ := execTransactionEnd_next h
    exact haltRequest_endTxn _ _ _ s
  | busGrant =>
    obtain ⟨_, rfl⟩ := execBusGrant_next h
    exact hs
  | burstCompleted w =>
    obtain ⟨_, rfl | ⟨_, j, u, _, _, h⟩⟩ := onAnswer_next (show execBurstCompleted w s = _ from h)
    · exact haltRequest_completeReset s
    · obtain rfl := Host.Outcome.next.inj h
      unfold answerCompleted
      dsimp only
      split
      · change (endJob _ _).eu.haltRequest = false
        rw [haltRequest_endJob, countMoved_eu]
        exact hs
      · change (nextBurst _).eu.haltRequest = false
        rw [nextBurst_eu, countMoved_eu]
        exact hs
  | burstRetry =>
    obtain ⟨_, rfl | ⟨_, j, u, _, _, h⟩⟩ := onAnswer_next (show execBurstRetry s = _ from h)
    · exact haltRequest_completeReset s
    · obtain rfl := Host.Outcome.next.inj h
      unfold answerRetry
      split
      · exact haltRequest_faultJob _ _ _ _
      · exact hs
  | burstCutShort k w =>
    obtain ⟨_, rfl | ⟨_, j, u, _, _, h⟩⟩ := onAnswer_next (show execBurstCutShort k w s = _ from h)
    · exact haltRequest_completeReset s
    · split at h
      · obtain rfl := Host.Outcome.next.inj h
        change (nextBurst _).eu.haltRequest = false
        rw [nextBurst_eu, countMoved_eu]
        exact hs
      · cases h
  | burstError =>
    obtain ⟨_, rfl | ⟨_, j, u, _, _, h⟩⟩ := onAnswer_next (show execBurstError s = _ from h)
    · exact haltRequest_completeReset s
    · obtain rfl := Host.Outcome.next.inj h
      exact haltRequest_faultJob _ _ _ _
  | releaseIntervalEnd l =>
    obtain ⟨_, _, rfl⟩ := execReleaseIntervalEnd_next h
    exact hs
  | resetPinReleased =>
    rw [execResetPinReleased_next h]
    exact hs

theorem haltRequestsTaken_step {s t : State} (hs : HaltRequestsTaken s) (h : step s = .next t) :
    HaltRequestsTaken t := by
  unfold step at h
  split at h
  · obtain rfl := Host.Outcome.next.inj h
    unfold tick
    split_ifs <;> exact hs
  · next rest _ => exact haltRequestsTaken_exec (s := { s with pending := rest }) hs h

/-- Settles O57: the record invariants block by block (`recordsKept_step`), the halt requests by the happenings that raise a
halting cause (`haltRequestsTaken_step`). -/
theorem recordInvariantsKept : Obligations.RecordInvariantsKept := by
  unfold Obligations.RecordInvariantsKept
  intro s t h
  obtain ⟨h1, h2, h3, h4, h5, h6⟩ := recordsKept_step h
  exact ⟨h1, h2, h3, h4, h5, h6, fun hs => haltRequestsTaken_step hs h⟩

end Sys2Proof.Machine
end

section
/-! PROOF. The checks that the point commands share, CONFIGURE POINT and INSPECT POINT (R5 to R8, R11, R12, R17, R18, R25). -/

namespace Sys2Proof.Machine

set_option Elab.async false

/-- Settles O5: each of the eight commands checks its point id first (`command_onPoint_none`). -/
theorem pointCommandsCheckTheId : Obligations.PointCommandsCheckTheId := by
  unfold Obligations.PointCommandsCheckTheId
  intro code c s hc hd hp
  simp only [List.mem_cons, List.not_mem_nil, or_false, Prod.mk.injEq] at hc
  rcases hc with ⟨rfl, rfl⟩ | ⟨rfl, rfl⟩ | ⟨rfl, rfl⟩ | ⟨rfl, rfl⟩ | ⟨rfl, rfl⟩ | ⟨rfl, rfl⟩ | ⟨rfl, rfl⟩ | ⟨rfl, rfl⟩
  · exact command_onPoint_none _ configurePoint hd hp
  · exact command_onPoint_none _ enablePoint hd hp
  · exact command_onPoint_none _ disablePoint hd hp
  · exact command_onPoint_none _ pausePoint hd hp
  · exact command_onPoint_none _ continuePoint hd hp
  · exact command_onPoint_none _ clearPoint hd hp
  · exact command_onPoint_none _ inspectPoint hd hp
  · exact command_onPoint_none _ postExchange hd hp

/-- A point command that its checks refuse: its result is written and nothing else changes. -/
theorem command_onPoint_refuse {s : State} {p : PointId} {c : ResultCode} {f : PointId → State → State × Reply}
    (code : BitVec 8) (hd : deaf s = false) (hp : (s.param 0).toNat % 256 = p.val) (hf : f p s = refuse c s) :
    command code (onPoint f) s = .next { s with hw := answeredWindow s.hw code c.code 0 0 0 } := by
  rw [command_onPoint code f hd hp, hf]
  exact congrArg _ (writeResult_refusal code c s)

/-- A point command with a plain result. -/
theorem command_onPoint_plain {s t : State} {p : PointId} {c : ResultCode} {f : PointId → State → State × Reply}
    (code : BitVec 8) (hd : deaf s = false) (hp : (s.param 0).toNat % 256 = p.val) (hf : f p s = (t, Reply.plain c)) :
    command code (onPoint f) s = .next { t with hw := answeredWindow t.hw code c.code 0 0 0 } := by
  rw [command_onPoint code f hd hp, hf]
  exact congrArg _ (writeResult_plain code c t)

/-- Settles O6: the state check of each command comes before all others but that of the id. -/
theorem pointCommandsCheckTheState : Obligations.PointCommandsCheckTheState := by
  unfold Obligations.PointCommandsCheckTheState
  intro p s hd hp
  refine ⟨fun h => ⟨?_, ?_⟩, fun h => ⟨?_, ?_⟩, fun h => ?_, fun h => ?_, fun h => ?_⟩
  · exact command_onPoint_refuse (f := configurePoint) (c := .badPointState) _ hd hp (if_neg h)
  · exact command_onPoint_refuse (f := enablePoint) (c := .badPointState) _ hd hp (if_neg h)
  · refine command_onPoint_refuse (f := disablePoint) (c := .badPointState) _ hd hp ?_
    unfold disablePoint
    rcases h with h | h <;> rw [h]
  · refine command_onPoint_refuse (f := postExchange) (c := .badPointState) _ hd hp ?_
    have hcheck : postCheck p s = some .badPointState := if_pos h
    unfold postExchange
    rw [hcheck]
  · exact command_onPoint_refuse (f := pausePoint) (c := .badPointState) _ hd hp (if_neg h)
  · exact command_onPoint_refuse (f := continuePoint) (c := .badPointState) _ hd hp (if_neg h)
  · exact command_onPoint_refuse (f := clearPoint) (c := .badPointState) _ hd hp (if_neg h)

/-- Settles O13: INSPECT POINT returns the state it was given, and its words are those of the statement. -/
theorem inspectPointReportsThePoint : Obligations.InspectPointReportsThePoint := by
  unfold Obligations.InspectPointReportsThePoint
  intro p s hd hp
  refine (command_onPoint 0x07 inspectPoint hd hp).trans (congrArg _ ?_)
  rw [writeResult_eq _ _ (show 0 < 256 by decide)]
  rfl

/-! ### CONFIGURE POINT -/

theorem Payload.ofBytes?_some_iff {n : Nat} {m : Payload} : Payload.ofBytes? n = some m ↔ m.bytes = n := by
  constructor
  · intro h
    unfold Payload.ofBytes? at h
    split at h <;> cases h <;> rfl
  · rintro rfl
    cases m <;> rfl

theorem stationOfAddress?_some_iff {n : Nat} {i : StationId} :
    stationOfAddress? n = some i ↔ stationAddress i = n := by
  unfold stationOfAddress? stationAddress
  split
  · simp only [Option.some.injEq, Fin.ext_iff]
    omega
  · simp only [reduceCtorEq, false_iff]
    have := i.isLt
    omega

theorem legalPeriod_iff {n : Nat} : legalPeriod n = true ↔ n ∈ [1, 2, 4, 8, 16, 32, 64, 128] := by
  unfold legalPeriod
  exact List.contains_iff_mem

theorem field_low (w : Word) : field w 0 8 = w.toNat % 256 := by
  unfold field
  rw [pow_zero, Nat.div_one]
  rfl

/-- What a configuration that the checks pass holds (R6, R7). -/
theorem configOperand_some {s : State} {c : PointConfig} (h : configOperand s = some c) :
    configFieldsLegal (s.param 1) (s.param 2) (s.param 3) ∧
    stationAddress c.station = (s.param 1).toNat % 256 ∧ c.number.val = (s.param 1).toNat / 256 % 16 ∧
    (c.direction = .store ↔ (s.param 1).getLsbD 12 = true) ∧ (c.kind = .periodic ↔ (s.param 1).getLsbD 13 = true) ∧
    c.maxPayload.bytes = (s.param 1).toNat / 65536 % 256 ∧ c.attemptLimit = (s.param 2).toNat / 65536 % 16 ∧
    c.queueLimit = (s.param 3).toNat % 256 ∧
    (c.kind = .periodic → c.period = (s.param 2).toNat % 256 ∧ c.phase = (s.param 2).toNat / 256 % 256 ∧
      c.deferInterval = 1) ∧
    (c.kind = .async → c.period = 1 ∧ c.phase = 0 ∧ c.deferInterval = (s.param 2).toNat / 2 ^ 24 % 32) := by
  unfold configOperand at h
  dsimp only at h
  split at h
  case h_2 => cases h
  next i m hi hm =>
  rw [stationOfAddress?_some_iff, field_low] at hi
  rw [Payload.ofBytes?_some_iff] at hm
  split at h
  case isFalse => cases h
  next hn =>
  split at h
  case isFalse => cases h
  next hl =>
  obtain ⟨ha1, ha15, hq1, hq64⟩ := hl
  have hs : 1 ≤ stationAddress i ∧ stationAddress i ≤ 30 := ⟨Nat.le_add_left .., i.isLt⟩
  have hb : m.bytes = 8 ∨ m.bytes = 16 ∨ m.bytes = 32 ∨ m.bytes = 64 := by cases m <;> decide
  rw [hi] at hs
  rw [hm] at hb
  have hdir : ((if bitAt (s.param 1) 12 = true then Direction.store else .fetch) = .store) ↔
      (s.param 1).getLsbD 12 = true := by
    unfold bitAt
    split_ifs with hd
    · exact iff_of_true rfl hd
    · exact iff_of_false (fun hf => nomatch hf) hd
  rw [field_low] at hq1 hq64
  rcases Bool.eq_false_or_eq_true ((s.param 1).getLsbD 13) with hk | hk
  · rw [show bitAt (s.param 1) 13 = true from hk] at h
    simp only [if_true] at h
    split at h
    case isFalse => cases h
    next hp =>
    rw [Bool.and_eq_true, legalPeriod_iff, decide_eq_true_iff, field_low] at hp
    obtain rfl := Option.some.inj h
    exact ⟨⟨hs, Nat.le_of_lt_succ hn, hb, ⟨ha1, ha15⟩, ⟨hq1, hq64⟩, fun _ => hp,
        fun hf => absurd (hk.symm.trans hf) (by decide)⟩,
      hi, rfl, hdir, ⟨fun _ => hk, fun _ => rfl⟩, hm, rfl, field_low _,
      fun _ => ⟨field_low _, rfl, rfl⟩, fun hf => nomatch hf⟩
  · rw [show bitAt (s.param 1) 13 = false from hk] at h
    simp only [Bool.false_eq_true, if_false] at h
    split at h
    case isFalse => cases h
    next hd =>
    obtain rfl := Option.some.inj h
    exact ⟨⟨hs, Nat.le_of_lt_succ hn, hb, ⟨ha1, ha15⟩, ⟨hq1, hq64⟩,
        fun hf => absurd (hk.symm.trans hf) (by decide), fun _ => hd⟩,
      hi, rfl, hdir, ⟨fun hf => (nomatch hf), fun hf => absurd (hk.symm.trans hf) (by decide)⟩, hm, rfl, field_low _,
      fun hf => (nomatch hf), fun _ => ⟨rfl, rfl, rfl⟩⟩

/-- Fields that are all legal make a configuration (R6). -/
theorem configOperand_isSome {s : State} (h : configFieldsLegal (s.param 1) (s.param 2) (s.param 3)) :
    ∃ c, configOperand s = some c := by
  obtain ⟨hs, hn, hb, ha, hq, hper, hasync⟩ := h
  have hm : ∃ m, Payload.ofBytes? (field (s.param 1) 16 8) = some m := by
    rcases hb with hb | hb | hb | hb
    · exact ⟨.b8, congrArg _ hb⟩
    · exact ⟨.b16, congrArg _ hb⟩
    · exact ⟨.b32, congrArg _ hb⟩
    · exact ⟨.b64, congrArg _ hb⟩
  obtain ⟨m, hm⟩ := hm
  have hi : ∃ i, stationOfAddress? (field (s.param 1) 0 8) = some i := ⟨_, dif_pos (by rwa [field_low])⟩
  obtain ⟨i, hi⟩ := hi
  have hlim : 1 ≤ field (s.param 2) 16 4 ∧ field (s.param 2) 16 4 ≤ 15 ∧
      1 ≤ field (s.param 3) 0 8 ∧ field (s.param 3) 0 8 ≤ 64 := by
    rw [field_low]
    exact ⟨ha.1, ha.2, hq.1, hq.2⟩
  unfold configOperand
  dsimp only
  rw [hi, hm]
  dsimp only
  rw [dif_pos (show field (s.param 1) 8 4 < 8 from Nat.lt_succ_of_le hn), if_pos hlim]
  cases hk : (s.param 1).getLsbD 13 with
  | true =>
    rw [show bitAt (s.param 1) 13 = true from hk]
    simp only [if_true]
    rw [if_pos]
    · exact ⟨_, rfl⟩
    · rw [Bool.and_eq_true, legalPeriod_iff, decide_eq_true_iff, field_low]
      exact hper hk
  | false =>
    rw [show bitAt (s.param 1) 13 = false from hk]
    simp only [Bool.false_eq_true, if_false]
    exact ⟨_, if_pos (hasync hk)⟩

/-- Settles O7: the checks pass just where the fields are legal (`configOperand_some`, `configOperand_isSome`). -/
theorem configurePointWritesAllOrNone : Obligations.ConfigurePointWritesAllOrNone := by
  unfold Obligations.ConfigurePointWritesAllOrNone
  intro p s hd hp hs
  refine ⟨fun hl => ?_, fun hl => ?_⟩
  · obtain ⟨c, hc⟩ := configOperand_isSome hl
    refine ⟨c, ?_, (configOperand_some hc).2⟩
    refine command_onPoint_plain (f := configurePoint) (c := .ok) _ hd hp ?_
    unfold configurePoint
    rw [if_pos hs, hc]
    rfl
  · refine command_onPoint_refuse (f := configurePoint) (c := .badParameter) _ hd hp ?_
    have hc : configOperand s = none := by
      rw [Option.eq_none_iff_forall_ne_some]
      exact fun c hc => hl (configOperand_some hc).1
    unfold configurePoint
    rw [if_pos hs, hc]

end Sys2Proof.Machine
end

section
/-! PROOF. ENABLE, PAUSE, CONTINUE, CLEAR and DISABLE POINT of a point with nothing queued (R4, R8 to R12, R17, R18, R20). -/

namespace Sys2Proof.Machine

set_option Elab.async false

/-! ### What a service leaves as it was -/

theorem StagingOnly.hw_eq {s t : State} (h : StagingOnly s t) : t.hw = s.hw := by rw [h.blocks]

theorem StagingOnly.fs_eq {s t : State} (h : StagingOnly s t) : t.fs = s.fs := by rw [h.blocks]

theorem StagingOnly.queue_eq {s t : State} (h : StagingOnly s t) (p : PointId) : t.queue p = s.queue p := by
  rw [h.blocks]
  rfl

theorem Begins.hw_eq {s t : State} {p : PointId} {f : FrameScheduler} (h : Begins s p f t) : t.hw = s.hw := by
  obtain ⟨_, _, _, _, ht, _⟩ := h
  rw [ht]

theorem Begins.fs_eq {s t : State} {p : PointId} {f : FrameScheduler} (h : Begins s p f t) : t.fs = f := by
  obtain ⟨_, _, _, _, ht, _⟩ := h
  rw [ht]

theorem Begins.queue_eq {s t : State} {p : PointId} {f : FrameScheduler} (h : Begins s p f t) (q : PointId) :
    t.queue q = s.queue q := by
  obtain ⟨x, b, n, _, _, hstore, hfetch⟩ := h
  have hq : t.sp.queues = s.sp.queues := by
    cases hd : (s.point p).cfg.direction with
    | store => rw [(hstore hd).2.2.1]
    | fetch => rw [(hfetch hd).2.2.2.1]; rfl
  exact congrArg (fun v => v[q]) hq

/-- A choice changes nothing, or it begins a transaction with another due list or pointer. -/
theorem ChoiceOnly.eq_or_begins {s t : State} (h : ChoiceOnly s t) :
    t = s ∨ ∃ p f, Begins s p f t ∧ f.load = s.fs.load := by
  rcases h.choice with e | ⟨_, p, l, r, _, _, ⟨_, k⟩ | ⟨_, _, _, _, _, _, _, _, _, k, _⟩⟩
  · exact .inl e
  · exact .inr ⟨p, _, k, rfl⟩
  · exact .inr ⟨p, _, k, rfl⟩

section

variable {s t : State} (h : ServiceOnly s t)
include h

theorem ServiceOnly.hw_eq : t.hw = s.hw := by
  obtain ⟨u, hu, hc⟩ := h
  rcases hc.eq_or_begins with rfl | ⟨p, f, hb, _⟩
  · exact hu.hw_eq
  · exact hb.hw_eq.trans hu.hw_eq

theorem ServiceOnly.load_eq : t.fs.load = s.fs.load := by
  obtain ⟨u, hu, hc⟩ := h
  rcases hc.eq_or_begins with rfl | ⟨p, f, hb, hf⟩
  · rw [hu.fs_eq]
  · rw [hb.fs_eq, hf, hu.fs_eq]

theorem ServiceOnly.queue_eq (p : PointId) : t.queue p = s.queue p := by
  obtain ⟨u, hu, hc⟩ := h
  rcases hc.eq_or_begins with rfl | ⟨q, f, hb, _⟩
  · exact hu.queue_eq p
  · exact (hb.queue_eq p).trans (hu.queue_eq p)

end

/-! ### A point command that ends in a service -/

@[simp] theorem answeredWindow_config (h : HostWindow) (code : BitVec 8) (rc value : Nat) (r1 r2 : Word) :
    (answeredWindow h code rc value r1 r2).config = h.config := by
  unfold answeredWindow
  rfl

section

variable {s u : State} {p : PointId} {f : PointId → State → State × Reply} {r : Reply} (code : BitVec 8)
  (hd : deaf s = false) (hp : (s.param 0).toNat % 256 = p.val)
include hd hp

theorem command_service (hf : f p s = (choose (settle u), r)) (hu : u.hw = s.hw) (hv : r.value < 256) :
    command code (onPoint f) s =
      .next { choose (settle u) with hw := answeredWindow s.hw code r.code.code r.value r.r1 r.r2 } := by
  rw [command_onPoint code f hd hp, hf]
  dsimp only
  rw [writeResult_eq _ _ hv, (choose_settle_only u).hw_eq, hu]

theorem command_service_plain {c : ResultCode} (hf : f p s = (choose (settle u), Reply.plain c)) (hu : u.hw = s.hw) :
    ∃ t, command code (onPoint f) s = .next t ∧
      ServiceOnly { u with hw := answeredWindow s.hw code c.code 0 0 0 } t := by
  have hw : (choose (settle u)).hw = s.hw := (choose_settle_only u).hw_eq.trans hu
  refine ⟨_, command_onPoint_plain code hd hp hf, ?_⟩
  rw [hw]
  exact (choose_settle_only u).withWindow _ (by rw [answeredWindow_config, hu])

end

/-! ### ENABLE POINT -/

theorem admitPoint_async {n : Nat} {p : PointId} {s : State} (hk : (s.point p).cfg.kind = .async) :
    admitPoint n p s =
      { s.setPoint p { s.point p with state := .ready, seq := false, deferCount := 0, missCount := 0,
                                      haltCause := none } with
        fs := { s.fs with ring := s.fs.ring ++ [p], pointer := if s.fs.ring = [] then some p else s.fs.pointer } } := by
  unfold admitPoint joinScheduler
  rw [hk]
  rfl

/-- Settles O8: the binding check is `bindingFree_iff`; a point that joins the ring is then serviced. -/
theorem enablePointJoinsTheRing : Obligations.EnablePointJoinsTheRing := by
  unfold Obligations.EnablePointJoinsTheRing
  intro p s hd hp hs
  refine ⟨fun ht => ?_, fun ht hk => ?_⟩
  · refine command_onPoint_refuse (f := enablePoint) (c := .bindingInUse) _ hd hp ?_
    have hb : ¬ bindingFree s p = true := fun hb => (bindingFree_iff s p).mp hb ht
    unfold enablePoint
    rw [if_pos hs, if_neg hb]
  · have hb : bindingFree s p = true := (bindingFree_iff s p).mpr ht
    have hf : enablePoint p s = (choose (settle (admitPoint (field (s.param 1) 0 8) p s)), Reply.plain .ok) := by
      unfold enablePoint
      rw [if_pos hs, if_pos hb, hk]
    rw [admitPoint_async hk] at hf
    obtain ⟨t, ht, hserve⟩ := command_service_plain 0x02 hd hp hf rfl
    exact ⟨t, ht, hserve⟩

theorem admitted_iff (s : State) (c : PointConfig) : admitted s c = true ↔
    ∀ r : Residue, r.val % c.period = c.phase →
      s.fs.load[r] + (152 + 10 * c.maxPayload.bytes + s.sc.params.replyTimeout) ≤
        3 * (s.sc.params.frameLength - 232) / 4 := by
  simp only [admitted, List.all_eq_true, List.mem_finRange, true_implies, Bool.or_eq_true, Bool.not_eq_true', dueAt,
    decide_eq_true_iff, decide_eq_false_iff_not, ← imp_iff_not_or]
  rfl

/-- The load table once a point that is due at some residues has joined (R63). -/
theorem admitPoint_periodic {n : Nat} {p : PointId} {s : State} (hk : (s.point p).cfg.kind = .periodic) :
    admitPoint n p s =
      { s.setPoint p { s.point p with state := .ready, seq := false, deferCount := 0, missCount := 0,
                                      haltCause := none } with
        fs := { s.fs with
          periodic := s.fs.periodic.take n ++ p :: s.fs.periodic.drop n
          load := Vector.ofFn fun r : Residue => if dueAt (s.point p).cfg r.val then
            s.fs.load[r] + cost s.sc.params (s.point p).cfg else s.fs.load[r] } } := by
  unfold admitPoint joinScheduler
  rw [hk, changeLoad_eq]
  rfl

section

variable {p : PointId} {s : State} (hs : (s.point p).state = .disabled) (hk : (s.point p).cfg.kind = .periodic)
  (hb : bindingFree s p = true)
include hs hk hb

/-- ENABLE POINT of a PERIODIC point whose binding is free and that a check of R10 refuses. -/
theorem enablePoint_periodic_refused {e : ResultCode}
    (he : periodicCheck s (s.point p).cfg ((s.param 1).toNat % 256) = some e) : enablePoint p s = refuse e s := by
  rw [← field_low] at he
  unfold enablePoint
  rw [if_pos hs, if_pos hb, hk]
  dsimp only
  rw [he]

/-- ENABLE POINT of a PERIODIC point that passes the checks of R10. -/
theorem enablePoint_periodic_admitted
    (he : periodicCheck s (s.point p).cfg ((s.param 1).toNat % 256) = none) :
    enablePoint p s = (choose (settle (admitPoint ((s.param 1).toNat % 256) p s)), Reply.plain .ok) := by
  rw [← field_low] at he ⊢
  unfold enablePoint
  rw [if_pos hs, if_pos hb, hk]
  dsimp only
  rw [he]

end

/-- Settles O9: the three checks of `periodicCheck` in turn, then the point is admitted and serviced. -/
theorem enablePointAdmitsPeriodicPoints : Obligations.EnablePointAdmitsPeriodicPoints := by
  unfold Obligations.EnablePointAdmitsPeriodicPoints
  intro p s hd hp hs hk hb
  refine ⟨fun hpos => ?_, fun hpos hroom => ?_, fun hpos hroom hfit => ?_, fun hpos hroom hfit => ?_⟩
  · refine command_onPoint_refuse (f := enablePoint) (c := .badParameter) _ hd hp
      (enablePoint_periodic_refused hs hk hb ?_)
    rw [periodicCheck, if_pos hpos]
  · refine command_onPoint_refuse (f := enablePoint) (c := .periodicFull) _ hd hp
      (enablePoint_periodic_refused hs hk hb ?_)
    rw [periodicCheck, if_neg (Nat.not_lt.mpr hpos), if_pos hroom]
  · refine command_onPoint_refuse (f := enablePoint) (c := .overcommit) _ hd hp
      (enablePoint_periodic_refused hs hk hb ?_)
    rw [periodicCheck, if_neg (Nat.not_lt.mpr hpos), if_neg (Nat.not_le.mpr hroom),
      if_neg (mt (admitted_iff s _).mp hfit)]
  · have hcheck : periodicCheck s (s.point p).cfg ((s.param 1).toNat % 256) = none := by
      rw [periodicCheck, if_neg (Nat.not_lt.mpr hpos), if_neg (Nat.not_le.mpr hroom),
        if_pos ((admitted_iff s _).mpr hfit)]
    have hf := enablePoint_periodic_admitted hs hk hb hcheck
    rw [admitPoint_periodic hk] at hf
    obtain ⟨t, ht, hserve⟩ := command_service_plain 0x02 hd hp hf rfl
    refine ⟨t, ht, fun r => ?_, ?_⟩
    · rw [hserve.load_eq]
      simp only [Fin.getElem_fin, Vector.getElem_ofFn, dueAt, decide_eq_true_iff]
      split_ifs
      · rfl
      · rfl
    · rw [hserve.load_eq]
      exact hserve

/-! ### PAUSE, CONTINUE and CLEAR POINT -/

/-- Settles O10: each command is a change of the point's record, then staging (and for the last two a choice). A PAUSED point
does not need staging, so it is off the wait list. -/
theorem pauseContinueAndClearMoveThePoint : Obligations.PauseContinueAndClearMoveThePoint := by
  unfold Obligations.PauseContinueAndClearMoveThePoint
  intro p s hd hp
  refine ⟨fun hs => ?_, fun hs => ?_, fun hs => ?_⟩
  · have hf : pausePoint p s = (settle (s.setPoint p { s.point p with state := .paused }), Reply.plain .ok) := if_pos hs
    have hst := settle_only (s.setPoint p { s.point p with state := .paused })
    generalize settle (s.setPoint p { s.point p with state := .paused }) = u at hf hst
    have hpaused : ¬ NeedsStaging (s.setPoint p { s.point p with state := .paused }) p := fun h => by
      have := h.1
      rw [State.point_setPoint, if_pos rfl] at this
      cases this
    refine ⟨_, (command_onPoint_plain 0x04 hd hp hf), fun hw => ?_, ?_, ?_⟩
    · exact hpaused (mem_waitOrder (hst.waits.subset hw))
    · rcases hst.points p with h | ⟨h, _⟩
      · change (u.point p).staged = _
        rw [h, State.point_setPoint, if_pos rfl]
      · exact absurd h hpaused
    · rw [hst.hw_eq]
      exact hst.withWindow _ (answeredWindow_config _ _ _ _ _ _)
  · have hf : continuePoint p s = (choose (settle (s.setPoint p { s.point p with state := .ready })), Reply.plain .ok) :=
      if_pos hs
    obtain ⟨t, ht, hserve⟩ := command_service_plain 0x05 hd hp hf rfl
    exact ⟨t, ht, hserve⟩
  · have hf : clearPoint p s =
        (choose (settle (s.setPoint p { s.point p with state := .ready, haltCause := none, seq := false })),
          Reply.plain .ok) := if_pos hs
    obtain ⟨t, ht, hserve⟩ := command_service_plain 0x06 hd hp hf rfl
    exact ⟨t, ht, hserve⟩

/-! ### DISABLE POINT of a point with nothing queued -/

/-- DISABLE POINT of a point in a state it is taken in. -/
theorem disablePoint_taken {p : PointId} {s : State}
    (hs : (s.point p).state = .ready ∨ (s.point p).state = .paused ∨ (s.point p).state = .halted) :
    disablePoint p s = (closeAndFlush p s,
      { code := if ((closeAndFlush p s).queue p).length = 0 then .closed else .closing, value := 0,
        r1 := place ((closeAndFlush p s).queue p).length 0, r2 := 0 }) := by
  unfold disablePoint
  rcases hs with hs | hs | hs <;> rw [hs]

theorem State.setPoint_setPoint (s : State) (p : PointId) (v w : Point) :
    (s.setPoint p v).setPoint p w = s.setPoint p w := by
  unfold State.setPoint
  simp only [Vector.set_set]

/-- Closing a point and reaching DISABLED in one happening leaves no trace of CLOSING (R18, R20). -/
theorem pointClosed_closing (s : State) (p : PointId) :
    pointClosed (s.setPoint p { s.point p with state := .closing, haltCause := none }) p = pointClosed s p := by
  unfold pointClosed
  simp only [State.point_setPoint, if_true, State.setPoint_setPoint]
  rfl

/-- Settles O11: with nothing to flush the walk closes the point at once. -/
theorem disablePointWithNothingQueuedCloses : Obligations.DisablePointWithNothingQueuedCloses := by
  unfold Obligations.DisablePointWithNothingQueuedCloses
  intro p s hd hp hs hq
  have hclose : closeAndFlush p s = choose (settle (pointClosed s p)) := by
    unfold closeAndFlush
    rw [hq]
    dsimp only [flushWalk, closePoint, State.modPoint]
    rw [if_pos (by rw [State.point_setPoint, if_pos rfl]), reachDisabled_eq, pointClosed_closing]
  have hlen : ((choose (settle (pointClosed s p))).queue p).length = 0 := by
    rw [(choose_settle_only _).queue_eq]
    exact congrArg List.length hq
  have hf := disablePoint_taken hs
  rw [hclose, hlen] at hf
  exact ⟨_, command_service 0x03 hd hp hf rfl (show 0 < 256 by decide), (choose_settle_only _).withWindow _ (answeredWindow_config _ _ _ _ _ _)⟩

end Sys2Proof.Machine
end

section
/-! PROOF. How a frame opens and how the CENSUS begins (R22, R23, R55, R56, R58, R66, R68, R109, R118, R120). -/

namespace Sys2Proof.Machine

set_option Elab.async false

/-! ### The opening of a frame -/

/-- The due list is built from the configurations, which the frame mark leaves alone (R66). -/
theorem dueList_lowerDefers (s : State) (f : BitVec 12) : dueList (lowerDefers s) f = dueList s f :=
  List.filter_congr fun p _ => by rw [lowerDefers_point]

theorem beginFrame_point (f : BitVec 12) (s : State) (p : PointId) :
    (beginFrame f s).point p = { s.point p with deferCount := (s.point p).deferCount - 1 } := lowerDefers_point s p

theorem beginFrame_eq (f : BitVec 12) (s : State) : beginFrame f s = { s with
    pt := (beginFrame f s).pt
    fs := { s.fs with running := true, elapsed := 0, frame := f,
                      due := if s.sc.state = .running then dueList s f else [] }
    le := { s.le with state := .marking, slotsRead := 0, lineBits := 0 } } := by
  unfold beginFrame
  dsimp only
  rw [dueList_lowerDefers]
  rfl

section

variable {s : State} (hl : s.le.state = .census) (hr : s.fs.running = true)
  (ht : s.fs.elapsed ≤ s.sc.params.frameLength) (h30 : s.le.slotsRead = 30)
include hl hr ht h30

/-- FRAME_END at its moment, after the 30 slots, opens the next frame in RUNNING and HALTED (R55). -/
theorem execFrameEnd_opens (hg : s.sc.state = .running ∨ s.sc.state = .halted) : execFrameEnd s =
    .next (raise .frameTick (beginFrame (s.fs.frame + 1) (s.setElapsed s.sc.params.frameLength))) := by
  unfold execFrameEnd
  rw [if_pos ⟨hl, by rw [timedAt, hr, Bool.true_and, decide_eq_true ht], h30⟩]
  dsimp only
  rcases hg with hg | hg <;> rw [hg]

/-- FRAME_END in SUSPENDING begins the SUSPEND MARK (R118). -/
theorem execFrameEnd_suspends (hg : s.sc.state = .suspending) :
    execFrameEnd s = .next (beginSuspendMark (s.setElapsed s.sc.params.frameLength)) := by
  unfold execFrameEnd
  rw [if_pos ⟨hl, by rw [timedAt, hr, Bool.true_and, decide_eq_true ht], h30⟩]
  dsimp only
  rw [hg]

end

/-- The segment state in which the first frame opens after signalling (R109, R120). -/
def stateAfterSignalling (s : State) : SegState := if s.sc.haltPending = true then .halted else .running

theorem openAfterSignalling_eq (f : BitVec 12) (s : State) : openAfterSignalling f s =
    raise .frameTick (raise .segmentChanged (beginFrame f
      { s with sc := { s.sc with state := stateAfterSignalling s, haltPending := false } })) := by
  unfold openAfterSignalling stateAfterSignalling
  split
  · rfl
  · next h =>
    have hp : s.sc.haltPending = false := Bool.eq_false_iff.mpr h
    dsimp only
    rw [State.setSeg, ← hp]

/-- Settles O43: each moment's command comes to `beginFrame` or to the SUSPEND MARK. -/
theorem framesOpenByTheSegmentState : Obligations.FramesOpenByTheSegmentState := by
  unfold Obligations.FramesOpenByTheSegmentState
  intro s
  refine ⟨fun hl hr ht h30 => ⟨fun hg => ?_, fun hg => ?_⟩, fun c g f hc hl hg => ?_⟩
  · refine ⟨_, execFrameEnd_opens hl hr ht h30 hg, fun p => beginFrame_point (s.fs.frame + 1) _ p, rfl, ?_⟩
    unfold raise
    rw [beginFrame_eq]
    rfl
  · exact execFrameEnd_suspends hl hr ht h30 hg
  · have hexec : exec c s = .next (openAfterSignalling f s) := by
      simp only [List.mem_cons, List.not_mem_nil, or_false, Prod.mk.injEq] at hc
      rcases hc with ⟨rfl, rfl, rfl⟩ | ⟨rfl, rfl, rfl⟩
      · exact if_pos ⟨hl, hg⟩
      · exact if_pos ⟨hl, hg⟩
    rw [openAfterSignalling_eq] at hexec
    refine ⟨_, hexec, fun p => beginFrame_point f _ p, rfl, ?_⟩
    unfold raise
    rw [beginFrame_eq]
    rfl

/-! ### Census start -/

/-- The misses of a list of points charged in turn (R23): PERIODIC_MISS once for each. -/
theorem chargeMisses_eq (l : List PointId) (u : State) :
    l.foldl (fun t p => chargeMiss p t) u = { u with
      pt := (l.foldl (fun t p => chargeMiss p t) u).pt
      eu := l.foldl (fun e _ => e.take u.hw.config .periodicMiss) u.eu } := by
  induction l generalizing u with
  | nil => rfl
  | cons p l ih =>
    rw [List.foldl_cons, ih]
    rfl

/-- Each point of a list without repetition is charged once. -/
theorem chargeMisses_point {l : List PointId} (hl : l.Nodup) (u : State) (q : PointId) :
    (l.foldl (fun t p => chargeMiss p t) u).point q =
      if q ∈ l then { u.point q with missCount := min 255 ((u.point q).missCount + 1) } else u.point q := by
  induction l generalizing u with
  | nil => rfl
  | cons p l ih =>
    obtain ⟨hp, hl⟩ := List.nodup_cons.mp hl
    have hcharge : (chargeMiss p u).point q =
        if p = q then { u.point p with missCount := min 255 ((u.point p).missCount + 1) } else u.point q :=
      State.point_setPoint u p q _
    rw [List.foldl_cons, ih hl, hcharge]
    by_cases hpq : p = q
    · subst hpq
      rw [if_neg hp, if_pos rfl, if_pos List.mem_cons_self]
    · simp only [if_neg hpq, List.mem_cons, show (q = p) = False from eq_false (Ne.symm hpq), false_or]

theorem countsAsMiss_iff (s : State) (p : PointId) : countsAsMiss s p = true ↔
    (s.point p).state = .ready ∧ (s.station (s.point p).cfg.station).presence = .present ∧
      (firstOffers s p = true ∨ ∃ x y rest, s.queue p = x :: y :: rest ∧ (s.slot x).state = .retiring ∧
        (s.slot y).state = .queued ∧ (s.slot y).cancelRequested = false) := by
  unfold countsAsMiss stationPresent
  rw [Bool.and_eq_true, Bool.and_eq_true, Bool.or_eq_true, decide_eq_true_iff, decide_eq_true_iff, and_assoc]
  refine and_congr_right' (and_congr_right' (or_congr_right ?_))
  split
  · next x y rest hq =>
    rw [hq]
    simp [and_assoc]
  · next hq => exact iff_of_false Bool.false_ne_true fun ⟨x, y, rest, h, _⟩ => hq x y rest h

/-- The due list settled: the misses are charged to the points that earn one. -/
theorem settleDue_eq (s : State) : settleDue s = { s with
    pt := ((s.fs.due.filter (countsAsMiss s)).foldl (fun t p => chargeMiss p t) s).pt
    eu := (s.fs.due.filter (countsAsMiss s)).foldl (fun e _ => e.take s.hw.config .periodicMiss) s.eu
    fs := { s.fs with due := [] } } := by
  unfold settleDue
  rw [← List.foldl_filter, chargeMisses_eq]

/-- The causes of a list of misses leave a halt request just where PERIODIC_MISS is halting and there is one (R171). -/
theorem takeMisses_haltRequest (l : List PointId) (cfg : HostConfig) (e : EventUnit) (he : e.haltRequest = false) :
    (l.foldl (fun e _ => e.take cfg .periodicMiss) e).haltRequest =
      (decide (l ≠ []) && e.haltEnable.getLsbD 9) := by
  have key : ∀ (l : List PointId) (e : EventUnit), (l.foldl (fun e _ => e.take cfg .periodicMiss) e).haltRequest =
      (e.haltRequest || (decide (l ≠ []) && e.haltEnable.getLsbD 9)) := by
    intro l
    induction l with
    | nil => intro e; simp
    | cons p l ih =>
      intro e
      rw [List.foldl_cons, ih, take_haltEnable]
      have hh : e.halting .periodicMiss = e.haltEnable.getLsbD 9 := rfl
      cases hb : e.haltEnable.getLsbD 9 with
      | false => rw [take_haltRequest_of_not _ _ _ (hh.trans hb)]; simp
      | true => rw [take_haltRequest_of_halting _ _ _ (hh.trans hb)]; simp
  rw [key, he, Bool.false_or]

/-- The state at census start, at a moment of the frame, before the halt requests are taken. -/
def censusBegun (moment : Nat) (s : State) : State :=
  { settleDue (s.setElapsed moment) with le := { s.le with state := .census, slotsRead := 0 } }

theorem execCensusStart_due {s : State} (hl : s.le.state = .idle) (hr : s.fs.running = true)
    (ht : s.fs.elapsed + 168 ≤ s.sc.params.frameLength) :
    execCensusStart s = .next (haltTaken (censusBegun (s.sc.params.frameLength - 168) s)) := by
  have hm : s.fs.elapsed ≤ s.sc.params.frameLength - 168 := Nat.le_sub_of_add_le ht
  unfold execCensusStart
  dsimp only
  generalize s.sc.params.frameLength - 168 = moment at hm ⊢
  rw [if_pos ⟨hl, by rw [timedAt, hr, Bool.true_and, decide_eq_true hm]⟩, takeHaltRequests_eq]
  unfold censusBegun
  rw [settleDue_blocks]
  rfl

section

variable {s : State} {missed : List PointId} (hn : s.fs.due.Nodup) (hmn : missed.Nodup)
  (hm : ∀ p, p ∈ missed ↔ p ∈ s.fs.due ∧ countsAsMiss s p = true)
include hn hmn hm

/-- The points charged are the due entries that count as a miss, in whatever order they are named. -/
theorem missed_perm : List.Perm (s.fs.due.filter (countsAsMiss s)) missed :=
  (List.perm_ext_iff_of_nodup (hn.filter _) hmn).mpr fun p => by rw [List.mem_filter, hm]

theorem censusBegun_eu (moment : Nat) : (censusBegun moment s).eu = missed.foldl (fun e _ => e.take s.hw.config .periodicMiss) s.eu := by
  unfold censusBegun
  rw [settleDue_eq]
  change (s.fs.due.filter (countsAsMiss s)).foldl (fun e _ => e.take s.hw.config .periodicMiss) s.eu = _
  rw [List.foldl_const, List.foldl_const, (missed_perm hn hmn hm).length_eq]

theorem censusBegun_point (moment : Nat) (q : PointId) : (censusBegun moment s).point q =
    if q ∈ missed then { s.point q with missCount := min 255 ((s.point q).missCount + 1) } else s.point q := by
  unfold censusBegun
  rw [settleDue_eq]
  refine (chargeMisses_point (hn.filter (countsAsMiss s)) _ q).trans ?_
  exact if_congr (missed_perm hn hmn hm).mem_iff rfl rfl

end

theorem censusBegun_eq (moment : Nat) (s : State) : censusBegun moment s = { s with
    pt := (censusBegun moment s).pt
    eu := (censusBegun moment s).eu
    fs := { s.fs with elapsed := moment, due := [] }
    le := { s.le with state := .census, slotsRead := 0 } } := by
  unfold censusBegun
  rw [settleDue_blocks]
  rfl

/-- Taking halt requests with the due list empty reaches the segment and the event unit alone. -/
theorem haltTaken_blocks {u : State} (hdue : u.fs.due = []) :
    haltTaken u = { u with sc := (haltTaken u).sc, eu := (haltTaken u).eu } := by
  have hfs : { u.fs with due := [] } = u.fs := by rw [← hdue]
  unfold haltTaken
  dsimp only
  rw [hfs]
  split_ifs <;> rfl

/-- Settles O42: the due list is settled (`settleDue_eq`), then the halt request of a miss is taken (`haltTaken`). -/
theorem censusStartChargesTheMisses : Obligations.CensusStartChargesTheMisses := by
  unfold Obligations.CensusStartChargesTheMisses
  intro missed s hl hr ht hn hh htxn hmn hmiss
  have hm : ∀ p, p ∈ missed ↔ p ∈ s.fs.due ∧ countsAsMiss s p = true := fun p => by rw [hmiss, countsAsMiss_iff]
  have hexec := execCensusStart_due hl hr ht
  generalize s.sc.params.frameLength - 168 = moment at hexec ⊢
  have heu := censusBegun_eu hn hmn hm moment
  have hpt := censusBegun_point hn hmn hm moment
  have hblocks := censusBegun_eq moment s
  have hreq : (censusBegun moment s).eu.haltRequest = (decide (missed ≠ []) && s.eu.haltEnable.getLsbD 9) := by
    rw [heu, takeMisses_haltRequest _ _ _ hh]
  have hdue : (censusBegun moment s).fs.due = [] := by rw [hblocks]
  have hsc : (censusBegun moment s).sc = s.sc := by rw [hblocks]
  have hle : (censusBegun moment s).le.txn = none := by rw [hblocks]; exact htxn
  have hcfg : (censusBegun moment s).hw = s.hw := by rw [hblocks]
  refine ⟨haltTaken (censusBegun moment s), hexec, fun p => ?_, ?_, fun hno => ?_, fun hne h9 hg => ?_⟩
  · rw [haltTaken_blocks hdue]
    exact hpt p
  · rw [haltTaken_blocks hdue, hblocks]
  · have hf : (censusBegun moment s).eu.haltRequest = false := by
      rw [hreq]
      rcases hno with h | h
      · rw [h]; rfl
      · rw [h, Bool.and_false]
    have hid : haltTaken (censusBegun moment s) = censusBegun moment s := by
      unfold haltTaken
      exact if_pos hf
    rw [hid]
    exact ⟨hsc, heu⟩
  · have hf : ¬ (censusBegun moment s).eu.haltRequest = false := by
      rw [hreq, h9, decide_eq_true hne]
      exact Bool.true_eq_false.mp
    unfold haltTaken
    dsimp only
    rw [if_neg hf, hsc, if_pos hg, if_pos hle, heu, hcfg]
    exact ⟨rfl, rfl⟩

end Sys2Proof.Machine
end

section
/-! SUPPORT. What an ending at one point leaves of the others: `Beside p s t` says that `t` differs from `s` in the point `p`, its
queue, its exchanges and its buffers. So exchanges that lead the queues of other points still lead them. -/

namespace Sys2Proof.Machine

set_option Elab.async false

/-! ### Leading a queue, in another state -/

/-- An ACTIVE first exchange of the point leads its queue. -/
def LeadsAt (s : State) (p : PointId) : Prop :=
  ∀ x rest, s.queue p = x :: rest → (s.slot x).state = .active → Leads s p x rest

theorem Waits.congr {s t : State} {p : PointId} {y : SlotId} (h : Waits s p y) (hy : t.slot y = s.slot y)
    (hp : ∀ b, (t.point p).staged = some b → (s.point p).staged = some b ∧ (t.buffer b).slot = (s.buffer b).slot) :
    Waits t p y where
  queued := hy ▸ h.queued
  point := hy ▸ h.point
  jobs := hy ▸ h.jobs
  unfaulted := hy ▸ h.unfaulted
  unstaged b hb := by
    obtain ⟨hs, hslot⟩ := hp b hb
    rw [hslot]
    exact h.unstaged b hs

theorem Leads.congr {s t : State} {p : PointId} {x : SlotId} {rest : List SlotId} (h : Leads s p x rest)
    (hq : t.queue p = s.queue p) (hx : (t.slot x).point = (s.slot x).point) (hs : ∀ y ∈ rest, t.slot y = s.slot y)
    (hp : ∀ b, (t.point p).staged = some b → (s.point p).staged = some b ∧ (t.buffer b).point = (s.buffer b).point ∧
      (t.buffer b).slot = (s.buffer b).slot)
    (hh : p ∈ t.cu.held → p ∈ s.cu.held) : Leads t p x rest where
  queue := hq.trans h.queue
  point := hx.trans h.point
  staged b hb := by
    obtain ⟨hst, hpoint, hslot⟩ := hp b hb
    rw [hpoint, hslot]
    exact h.staged b hst
  notHeld hc := h.notHeld (hh hc)
  behind y hy := ⟨(h.behind y hy).1, (h.behind y hy).2.congr (hs y hy) fun b hb => ⟨(hp b hb).1, (hp b hb).2.2⟩⟩

theorem bufferFreed_slot (s : State) (b : BufId) (x : SlotId) (p : PointId) (y : SlotId) :
    (bufferFreed s b x p).slot y = if x = y then { s.slot x with jobs := (s.slot x).jobs - 1 } else s.slot y :=
  State.slot_setSlot ..

theorem bufferFreed_point (s : State) (b : BufId) (x : SlotId) (p : PointId) (q : PointId) :
    (bufferFreed s b x p).point q =
      if p = q then { s.point p with staged := if (s.point p).staged = some b then none else (s.point p).staged }
      else s.point q := State.point_setPoint ..

theorem bufferFreed_buffer (s : State) (b : BufId) (x : SlotId) (p : PointId) (c : BufId) :
    (bufferFreed s b x p).buffer c = if b = c then
      { state := .free, point := none, slot := none, count := 0, addr := none, data := (s.buffer b).data }
      else s.buffer c := State.buffer_setBuffer ..

theorem Leads.bufferFreed {s : State} {p : PointId} {x : SlotId} {rest : List SlotId} (h : Leads s p x rest) (b : BufId) :
    Leads (bufferFreed s b x p) p x rest := by
  refine h.congr rfl ?_ (fun y hy => ?_) (fun c hc => ?_) id
  · rw [bufferFreed_slot, if_pos rfl]
  · rw [bufferFreed_slot, if_neg (Ne.symm (h.behind y hy).1)]
  · rw [bufferFreed_point, if_pos rfl] at hc
    dsimp only at hc
    split at hc
    · cases hc
    · next hb =>
      have hbc : b ≠ c := fun e => hb (e ▸ hc)
      rw [bufferFreed_buffer, if_neg hbc]
      exact ⟨hc, rfl, rfl⟩

theorem Leads.stagedFreed {s : State} {p : PointId} {x : SlotId} {rest : List SlotId} (h : Leads s p x rest) :
    Leads (stagedFreed s x p) p x rest := by
  unfold Machine.stagedFreed
  split
  · split
    · exact h.bufferFreed _
    · exact h
  · exact h

theorem Leads.setSlot {s : State} {p : PointId} {x : SlotId} {rest : List SlotId} (h : Leads s p x rest) {e : Slot}
    (he : e.point = (s.slot x).point) : Leads (s.setSlot x e) p x rest := by
  refine h.congr rfl ?_ (fun y hy => ?_) (fun c hc => ⟨hc, rfl, rfl⟩) id
  · rw [State.slot_setSlot_same, he]
  · rw [State.slot_setSlot, if_neg (Ne.symm (h.behind y hy).1)]

theorem Leads.pointHalted {s : State} {p : PointId} {x : SlotId} {rest : List SlotId} (h : Leads s p x rest)
    (q : PointId) (c : HaltCause) : Leads (pointHalted s q c) p x rest := by
  unfold Machine.pointHalted
  split
  · refine h.congr rfl rfl (fun _ _ => rfl) (fun b hb => ⟨?_, rfl, rfl⟩) id
    rw [← hb]
    change _ = ((s.setPoint q _).point p).staged
    rw [State.point_setPoint]
    split
    · next hqp => rw [hqp]
    · rfl
  · exact h

/-- Freeing the STAGED buffer a second time does nothing. -/
theorem stagedFreed_idem (s : State) (x : SlotId) (p : PointId) :
    stagedFreed (stagedFreed s x p) x p = stagedFreed s x p := by
  cases hs : (s.point p).staged with
  | none => simp only [stagedFreed, hs]
  | some b =>
    by_cases hb : (s.buffer b).state = .staged ∧ (s.buffer b).slot = some x
    · have hfreed : stagedFreed s x p = bufferFreed s b x p := by simp only [stagedFreed, hs, if_pos hb]
      have hnone : ((bufferFreed s b x p).point p).staged = none := by
        rw [bufferFreed_point, if_pos rfl]
        exact if_pos hs
      rw [hfreed]
      simp only [stagedFreed, hnone]
    · have hfreed : stagedFreed s x p = s := by simp only [stagedFreed, hs, if_neg hb]
      rw [hfreed, hfreed]

theorem stagedFreed_of_none {s : State} {x : SlotId} {p : PointId} (h : (s.point p).staged = none) :
    stagedFreed s x p = s := by simp only [stagedFreed, h]

theorem stagedFreed_pointHalted (s : State) (x : SlotId) (p : PointId) (c : HaltCause)
    (h : stagedFreed s x p = s) : stagedFreed (pointHalted s p c) x p = pointHalted s p c := by
  cases hs : (s.point p).staged with
  | none =>
    refine stagedFreed_of_none ?_
    unfold pointHalted
    split
    · exact (congrArg Point.staged (State.point_setPoint_same ..)).trans hs
    · exact hs
  | some b =>
    have hb : ¬ ((s.buffer b).state = .staged ∧ (s.buffer b).slot = some x) := fun hb => by
      have hfreed : stagedFreed s x p = bufferFreed s b x p := by simp only [stagedFreed, hs, if_pos hb]
      have hstate : (s.buffer b).state = .free := by
        rw [← h, hfreed]
        rw [bufferFreed_buffer, if_pos rfl]
      rw [hstate] at hb
      cases hb.1
    have hs' : ((pointHalted s p c).point p).staged = some b := by
      unfold pointHalted
      split
      · exact (congrArg Point.staged (State.point_setPoint_same ..)).trans hs
      · exact hs
    have hb' : (pointHalted s p c).buffer b = s.buffer b := by
      unfold pointHalted
      split <;> rfl
    simp only [stagedFreed, hs', hb', if_neg hb]

/-- The exchange that leads a queue, RETIRING with its STAGED buffer freed: the queue is followed. -/
theorem Leads.advancePoint_retired {s : State} {p : PointId} {x : SlotId} {rest : List SlotId} (h : Leads s p x rest)
    (hs : Machine.stagedFreed s x p = s) (st : Status) : advancePoint p (retired s x st) = ended s p x rest st := by
  have key := h.advancePoint_endWith st
  rwa [h.endWith_eq, hs] at key

/-! ### What an ending at one point leaves of the others -/

structure Beside (p : PointId) (s t : State) : Prop where
  points : ∀ q, q ≠ p → t.point q = s.point q
  queues : ∀ q, q ≠ p → t.queue q = s.queue q
  slots : ∀ y, (s.slot y).point ≠ some p → t.slot y = s.slot y
  active : ∀ y, (t.slot y).state = .active → (s.slot y).state = .active
  buffers : ∀ b, (s.buffer b).point ≠ some p → t.buffer b = s.buffer b
  held : ∀ q, q ≠ p → q ∈ t.cu.held → q ∈ s.cu.held

namespace Beside

variable {p : PointId} {s t u : State}

theorem refl (p : PointId) (s : State) : Beside p s s :=
  ⟨fun _ _ => rfl, fun _ _ => rfl, fun _ _ => rfl, fun _ => id, fun _ _ => rfl, fun _ _ => id⟩

theorem trans (h : Beside p s t) (k : Beside p t u) : Beside p s u where
  points q hq := (k.points q hq).trans (h.points q hq)
  queues q hq := (k.queues q hq).trans (h.queues q hq)
  slots y hy := (k.slots y (by rw [h.slots y hy]; exact hy)).trans (h.slots y hy)
  active y hy := h.active y (k.active y hy)
  buffers b hb := (k.buffers b (by rw [h.buffers b hb]; exact hb)).trans (h.buffers b hb)
  held q hq hc := h.held q hq (k.held q hq hc)

/-- Exchanges that lead the queues of other points still lead them. -/
theorem leadsAt (h : Beside p s t) {q : PointId} (hq : q ≠ p) (k : LeadsAt s q) : LeadsAt t q := by
  intro y behind hqueue ha
  rw [h.queues q hq] at hqueue
  have hl := k y behind hqueue (h.active y ha)
  have hne : ∀ {o : Option PointId}, o = some q → o ≠ some p := fun ho hp => hq (Option.some.inj (ho.symm.trans hp))
  refine hl.congr (h.queues q hq) ?_ (fun z hz => ?_) (fun b hb => ?_) (h.held q hq)
  · rw [h.slots y (hne hl.point)]
  · exact h.slots z (hne (hl.behind z hz).2.point)
  · rw [h.points q hq] at hb
    rw [h.buffers b (hne (hl.staged b hb).1)]
    exact ⟨hb, rfl, rfl⟩

theorem activesLead (h : Beside p s t) (hp : LeadsAt t p) (k : ActivesLead s) : ActivesLead t := fun q => by
  by_cases hq : q = p
  · subst hq; exact hp
  · exact h.leadsAt hq (k q)

/-- A change of the point, of one of its exchanges or of one of its buffers. -/
theorem setPoint (p : PointId) (s : State) (v : Point) : Beside p s (s.setPoint p v) :=
  ⟨fun _ hq => State.point_setPoint_other s (Ne.symm hq) v, fun _ _ => rfl, fun _ _ => rfl, fun _ => id, fun _ _ => rfl,
    fun _ _ => id⟩

theorem setSlot {y : SlotId} (hy : (s.slot y).point = some p) {e : Slot}
    (he : e.state = .active → (s.slot y).state = .active) : Beside p s (s.setSlot y e) := by
  refine ⟨fun _ _ => rfl, fun _ _ => rfl, fun z hz => ?_, fun z hz => ?_, fun _ _ => rfl, fun _ _ => id⟩
  · rw [State.slot_setSlot, if_neg fun (hyz : y = z) => hz (hyz ▸ hy)]
  · rw [State.slot_setSlot] at hz
    split at hz
    · next hyz => exact hyz ▸ he hz
    · exact hz

theorem setBuffer {b : BufId} (hb : (s.buffer b).point = some p) (r : Buffer) : Beside p s (s.setBuffer b r) :=
  ⟨fun _ _ => rfl, fun _ _ => rfl, fun _ _ => rfl, fun _ => id,
    fun c hc => (State.buffer_setBuffer ..).trans (if_neg fun (hbc : b = c) => hc (hbc ▸ hb)), fun _ _ => id⟩

/-- A change outside the points, the pool, the buffers and the held list. -/
theorem of_eq (hpt : t.pt = s.pt) (hsp : t.sp = s.sp) (hbp : t.bp = s.bp) (hcu : t.cu.held = s.cu.held) : Beside p s t := by
  refine ⟨fun q _ => ?_, fun q _ => ?_, fun y _ => ?_, fun y => ?_, fun b _ => ?_, fun q _ => ?_⟩
  · rw [State.point, hpt]; rfl
  · rw [State.queue, hsp]; rfl
  · rw [State.slot, hsp]; rfl
  · rw [State.slot, hsp]; exact id
  · rw [State.buffer, hbp]; rfl
  · rw [hcu]; exact id

theorem bufferFreed {b : BufId} {x : SlotId} (hb : (s.buffer b).point = some p) (hx : (s.slot x).point = some p) :
    Beside p s (bufferFreed s b x p) := by
  unfold Machine.bufferFreed
  refine (Beside.setBuffer hb _).trans (.trans (t := State.setSlot _ x _) (.setSlot ?_ ?_) (.setPoint _ _ _))
  · exact hx
  · exact id

theorem stagedFreed {x : SlotId} (hx : (s.slot x).point = some p)
    (hb : ∀ b, (s.point p).staged = some b → (s.buffer b).point = some p) : Beside p s (stagedFreed s x p) := by
  unfold Machine.stagedFreed
  split
  · next b hs =>
    split
    · exact .bufferFreed (hb b hs) hx
    · exact .refl p s
  · exact .refl p s

theorem pointHalted (p : PointId) (s : State) (c : HaltCause) : Beside p s (pointHalted s p c) := by
  unfold Machine.pointHalted
  split
  · exact (Beside.setPoint p s _).trans (.of_eq rfl rfl rfl rfl)
  · exact .refl p s

theorem slotGone {x : SlotId} (hx : (s.slot x).point = some p) (rest : List SlotId) :
    Beside p s (slotGone s p x rest) := by
  refine ⟨fun _ _ => rfl, fun q hq => ?_, fun y hy => ?_, fun y hy => ?_, fun _ _ => rfl, fun _ _ => id⟩
  · simp only [Machine.slotGone, State.queue]
    exact Vector.getElem_set_ne _ _ fun h => hq (Fin.ext h.symm)
  · rw [slotGone_slot, if_neg fun (hxy : x = y) => hy (hxy ▸ hx)]
  · rw [slotGone_slot] at hy
    split at hy
    · cases hy
    · exact hy

theorem recordPosted (p : PointId) (s : State) (q : PointId) (x : SlotId) (st : Status) :
    Beside p s (recordPosted s q x st) := .of_eq rfl rfl rfl rfl

/-- A change of the held list that adds the point alone. -/
theorem holds (p : PointId) (s : State) (e : EventUnit) :
    Beside p s { s with cu := { s.cu with held := s.cu.held ++ [p] }, eu := e } :=
  ⟨fun _ _ => rfl, fun _ _ => rfl, fun _ _ => rfl, fun _ => id, fun _ _ => rfl, fun q hq hc => by
    rcases List.mem_append.mp hc with h | h
    · exact h
    · exact absurd (List.mem_singleton.mp h) hq⟩

theorem pointClosed (p : PointId) (s : State) : Beside p s (pointClosed s p) :=
  (Beside.setPoint p s _).trans (.of_eq rfl rfl rfl rfl)

end Beside

/-! ### What follows an ending -/

/-- Each of the exchanges is of the point, or its slot is FREE. -/
def OfPoint (s : State) (p : PointId) (ys : List SlotId) : Prop :=
  ∀ y ∈ ys, (s.slot y).point = some p ∨ s.slot y = Slot.free

theorem OfPoint.slotGone {s u : State} {p : PointId} {y : SlotId} {ys zs : List SlotId} (h : OfPoint s p ys)
    (hu : ∀ z, u.slot z = s.slot z) : OfPoint (slotGone u p y zs) p ys := fun z hz => by
  rw [slotGone_slot]
  split
  · exact .inr rfl
  · rw [hu]
    exact h z hz

theorem followed_beside (w : Bool) (p : PointId) (ys : List SlotId) :
    ∀ s : State, OfPoint s p ys → Beside p s (followed w p ys s) := by
  induction ys with
  | nil =>
    intro s _
    unfold followed
    split
    · exact .pointClosed p s
    · exact .refl p s
  | cons y ys ih =>
    intro s h
    have hys : OfPoint s p ys := fun z hz => h z (List.mem_cons_of_mem _ hz)
    unfold followed
    dsimp only
    split
    · exact .refl p s
    · next hq =>
      have hqueued : (s.slot y).state = .queued := by
        by_contra hc
        exact hq (.inl hc)
      have hy : (s.slot y).point = some p := by
        rcases h y List.mem_cons_self with hp | hf
        · exact hp
        · rw [hf] at hqueued; cases hqueued
      split
      · exact (Beside.slotGone hy ys).trans (ih _ (hys.slotGone fun _ => rfl))
      · split
        · refine (Beside.recordPosted p s p y (cancelGives s p)).trans (.trans (.slotGone ?_ ys) (ih _ ?_))
          · exact hy
          · exact hys.slotGone fun _ => rfl
        · refine Beside.trans (t := s.setSlot y _) (.setSlot hy ?_) (.holds p _ _)
          nofun

/-- No exchange is ACTIVE at the head of a queue whose others wait once it has been followed. -/
theorem followed_leadsAt (w : Bool) (p : PointId) (ys : List SlotId) :
    ∀ s : State, s.queue p = ys → (∀ y ∈ ys, (s.slot y).state ≠ .active) → LeadsAt (followed w p ys s) p := by
  induction ys with
  | nil =>
    intro s hq _ x rest hx
    have : (followed w p [] s).queue p = [] := by
      unfold followed
      split
      · exact hq
      · exact hq
    rw [this] at hx
    cases hx
  | cons y ys ih =>
    intro s hq h
    have hfirst : ∀ u : State, u.queue p = y :: ys → (u.slot y).state ≠ .active → LeadsAt u p := by
      intro u hu hy x rest hx ha
      rw [hu] at hx
      obtain ⟨rfl, rfl⟩ := List.cons.inj hx
      exact absurd ha hy
    have hgone : ∀ u : State, (∀ z, u.slot z = s.slot z) → ∀ z ∈ ys, ((slotGone u p y ys).slot z).state ≠ .active := by
      intro u hu z hz
      rw [slotGone_slot]
      split
      · nofun
      · rw [hu]; exact h z (List.mem_cons_of_mem _ hz)
    unfold followed
    dsimp only
    split
    · exact hfirst s hq (h y List.mem_cons_self)
    · split
      · exact ih _ (slotGone_queue ..) (hgone s fun _ => rfl)
      · split
        · exact ih _ (slotGone_queue ..) (hgone _ fun _ => rfl)
        · refine hfirst _ hq ?_
          change ((s.setSlot y _).slot y).state ≠ .active
          rw [State.slot_setSlot_same]
          nofun

theorem ended_beside {s : State} {p : PointId} {x : SlotId} {rest : List SlotId} (h : Leads s p x rest) (st : Status) :
    Beside p s (ended s p x rest st) := by
  have hrest : OfPoint s p rest := fun y hy => .inl (h.behind y hy).2.point
  have hret : Beside p s (s.setSlot x { s.slot x with state := .retiring, status := some st }) := .setSlot h.point nofun
  have hgone : ∀ u : State, Beside p s u → (∀ z, u.slot z = s.slot z) → Beside p s (slotFreed u p x rest) := fun u hu hz =>
    hu.trans ((Beside.slotGone (by rw [hz]; exact h.point) rest).trans
      (followed_beside false p rest _ (hrest.slotGone hz)))
  unfold ended
  dsimp only
  split
  · exact hret
  · split
    · exact hgone s (.refl p s) fun _ => rfl
    · split
      · exact hgone _ (.recordPosted p s p x st) fun _ => rfl
      · exact hret.trans (.holds p _ _)

theorem ended_leadsAt {s : State} {p : PointId} {x : SlotId} {rest : List SlotId} (h : Leads s p x rest) (st : Status) :
    LeadsAt (ended s p x rest st) p := by
  have hfirst : ∀ u : State, u.queue p = x :: rest → (u.slot x).state ≠ .active → LeadsAt u p := by
    intro u hu hy z zs hx ha
    rw [hu] at hx
    obtain ⟨rfl, rfl⟩ := List.cons.inj hx
    exact absurd ha hy
  have hret : ((s.setSlot x { s.slot x with state := .retiring, status := some st }).slot x).state ≠ .active := by
    rw [State.slot_setSlot_same]
    nofun
  have hgone : ∀ u : State, (∀ z, u.slot z = s.slot z) → LeadsAt (slotFreed u p x rest) p := fun u hz =>
    followed_leadsAt false p rest _ (slotGone_queue ..) fun y hy => by
      rw [slotGone_slot, if_neg (Ne.symm (h.behind y hy).1), hz, (h.behind y hy).2.queued]
      nofun
  unfold ended
  dsimp only
  split
  · exact hfirst _ h.queue hret
  · split
    · exact hgone s fun _ => rfl
    · split
      · exact hgone _ fun _ => rfl
      · exact hfirst _ h.queue hret

theorem Leads.leadsAt {s : State} {p : PointId} {x : SlotId} {rest : List SlotId} (h : Leads s p x rest) : LeadsAt s p := by
  intro y behind hy _
  obtain ⟨rfl, rfl⟩ := List.cons.inj (h.queue.symm.trans hy)
  exact h

theorem Leads.beside_stagedFreed {s : State} {p : PointId} {x : SlotId} {rest : List SlotId} (h : Leads s p x rest) :
    Beside p s (Machine.stagedFreed s x p) := .stagedFreed h.point fun b hb => (h.staged b hb).1

theorem markTaken_beside {s : State} {p : PointId} {x : SlotId} {rest : List SlotId} (h : Leads s p x rest) :
    Beside p s (markTaken s p x rest) := by
  unfold markTaken
  dsimp only
  split
  · exact h.beside_stagedFreed.trans (ended_beside h.stagedFreed _)
  · split
    · exact h.beside_stagedFreed.trans (ended_beside h.stagedFreed _)
    · exact .refl p s

theorem markTaken_leadsAt {s : State} {p : PointId} {x : SlotId} {rest : List SlotId} (h : Leads s p x rest) :
    LeadsAt (markTaken s p x rest) p := by
  unfold markTaken
  dsimp only
  split
  · exact ended_leadsAt h.stagedFreed _
  · split
    · exact ended_leadsAt h.stagedFreed _
    · exact h.leadsAt

theorem activeEnds_beside {s : State} {p : PointId} (c : Status) (h : LeadsAt s p) : Beside p s (activeEnds c s p) := by
  unfold activeEnds
  split
  · next x rest hq =>
    split
    · next ha =>
      have hl := h x rest hq ha
      exact hl.beside_stagedFreed.trans (ended_beside hl.stagedFreed _)
    · exact .refl p s
  · exact .refl p s

theorem activeEnds_leadsAt {s : State} {p : PointId} (c : Status) (h : LeadsAt s p) : LeadsAt (activeEnds c s p) p := by
  unfold activeEnds
  split
  · next x rest hq =>
    split
    · next ha => exact ended_leadsAt (h x rest hq ha).stagedFreed _
    · exact h
  · exact h

/-- In a state whose ACTIVE exchanges lead, the model ends those of all points as the statements say it (R48). -/
theorem endAllActive_eq {s : State} (h : ActivesLead s) : endAllActive s = lineResets s := by
  have key : ∀ (l : List PointId) (u : State), ActivesLead u →
      l.foldl (fun t p => endActive .lineReset p t) u = l.foldl (activeEnds .lineReset) u := by
    intro l
    induction l with
    | nil => exact fun _ _ => rfl
    | cons p l ih =>
      intro u hu
      rw [List.foldl_cons, List.foldl_cons, endActive_eq .lineReset (hu p)]
      exact ih _ ((activeEnds_beside .lineReset (hu p)).activesLead (activeEnds_leadsAt .lineReset (hu p)) hu)
  exact key (List.finRange 64) s h

/-! ### The points of a station -/

theorem pointHalted_leadsAt {s : State} {q : PointId} (p : PointId) (c : HaltCause) (h : LeadsAt s q) :
    LeadsAt (pointHalted s p c) q := by
  have hblocks : (pointHalted s p c).sp = s.sp := by
    unfold pointHalted
    split <;> rfl
  intro x rest hq ha
  unfold State.queue at hq
  unfold State.slot at ha
  rw [hblocks] at hq ha
  exact (h x rest hq ha).pointHalted p c

/-- One point of a station that is lost or detached (R15, R49, R127). -/
def pointLeft (c : HaltCause) (i : StationId) (u : State) (p : PointId) : State :=
  let g := (u.point p).state
  if (u.point p).cfg.station = i ∧ (g = .ready ∨ g = .paused ∨ g = .closing) then
    activeEnds .stationGone (pointHalted u p c) p
  else u

theorem pointLeft_beside {u : State} {p : PointId} (c : HaltCause) (i : StationId)
    (h : (u.point p).cfg.station = i → LeadsAt u p) : Beside p u (pointLeft c i u p) := by
  unfold pointLeft
  dsimp only
  split
  · next hg => exact (Beside.pointHalted p u c).trans (activeEnds_beside _ (pointHalted_leadsAt p c (h hg.1)))
  · exact .refl p u

theorem pointLeft_leadsAt {u : State} {p : PointId} (c : HaltCause) (i : StationId) (h : LeadsAt u p) :
    LeadsAt (pointLeft c i u p) p := by
  unfold pointLeft
  dsimp only
  split
  · exact activeEnds_leadsAt _ (pointHalted_leadsAt p c h)
  · exact h

theorem stationGonePoint_eq {u : State} {p : PointId} (c : HaltCause) (i : StationId)
    (h : (u.point p).cfg.station = i → LeadsAt u p) :
    (if (u.point p).cfg.station = i then stationGonePoint c p u else u) = pointLeft c i u p := by
  unfold pointLeft
  dsimp only
  by_cases hi : (u.point p).cfg.station = i
  · have hends := endActive_eq .stationGone (h hi)
    have hhalt := endActive_eq .stationGone (pointHalted_leadsAt p c (h hi))
    rw [if_pos hi]
    unfold stationGonePoint
    rw [haltPoint_eq]
    cases hg : (u.point p).state with
    | ready => exact hhalt.trans (if_pos ⟨hi, .inl rfl⟩).symm
    | paused => exact hhalt.trans (if_pos ⟨hi, .inr (.inl rfl)⟩).symm
    | closing =>
      have hid : pointHalted u p c = u := by
        unfold pointHalted
        rw [hg]
        exact if_neg (by rintro (h | h) <;> cases h)
      rw [if_pos ⟨hi, .inr (.inr rfl)⟩, hid]
      exact hends
    | disabled => exact (if_neg (by rintro ⟨_, h | h | h⟩ <;> cases h)).symm
    | halted => exact (if_neg (by rintro ⟨_, h | h | h⟩ <;> cases h)).symm
  · rw [if_neg hi, if_neg fun h => hi h.1]

/-- The points bound to a station in turn, where their ACTIVE exchanges lead. -/
theorem stationGone_eq {s : State} (c : HaltCause) (i : StationId)
    (h : ∀ p, (s.point p).cfg.station = i → LeadsAt s p) : stationGone c i s = stationLeft c i s := by
  have key : ∀ (l : List PointId), l.Nodup → ∀ u : State, (∀ p ∈ l, (u.point p).cfg.station = i → LeadsAt u p) →
      l.foldl (fun t p => if (t.point p).cfg.station = i then stationGonePoint c p t else t) u =
        l.foldl (pointLeft c i) u := by
    intro l
    induction l with
    | nil => exact fun _ _ _ => rfl
    | cons p l ih =>
      intro hn u hu
      obtain ⟨hp, hl⟩ := List.nodup_cons.mp hn
      have hup := hu p List.mem_cons_self
      have hb := pointLeft_beside c i hup
      rw [List.foldl_cons, List.foldl_cons, stationGonePoint_eq c i hup]
      refine ih hl _ fun q hq hi => ?_
      have hqp : q ≠ p := fun e => hp (e ▸ hq)
      rw [hb.points q hqp] at hi
      exact hb.leadsAt hqp (hu q (List.mem_cons_of_mem _ hq) hi)
  exact key (List.finRange 64) (List.nodup_finRange 64) s fun p _ => h p

theorem stationLeft_activesLead {s : State} (c : HaltCause) (i : StationId) (h : ActivesLead s) :
    ActivesLead (stationLeft c i s) :=
  foldl_keeps (P := ActivesLead) (pointLeft c i)
    (fun _ p hu => (pointLeft_beside c i fun _ => hu p).activesLead (pointLeft_leadsAt c i (hu p)) hu)
    (List.finRange 64) s h

end Sys2Proof.Machine
end

section
/-! SUPPORT. How a transaction's end closes (R86, R115): the outcome does not look at the stations, and what follows it is as
`TxnCloses` says it. -/

namespace Sys2Proof.Machine

set_option Elab.async false

/-! ### Endings and the station table -/

section

variable (s : State) (i : StationId) (v : Station) (p : PointId) (x : SlotId)

theorem bufferFreed_setStation (b : BufId) :
    bufferFreed (s.setStation i v) b x p = (bufferFreed s b x p).setStation i v := rfl

theorem stagedFreed_setStation : stagedFreed (s.setStation i v) x p = (stagedFreed s x p).setStation i v := by
  unfold stagedFreed
  rw [State.setStation_point]
  cases (s.point p).staged with
  | none => rfl
  | some b =>
    simp only [apply_ite (fun u : State => u.setStation i v)]
    rfl

theorem pointHalted_setStation (c : HaltCause) :
    pointHalted (s.setStation i v) p c = (pointHalted s p c).setStation i v := by
  simp only [pointHalted, apply_ite (fun u : State => u.setStation i v)]
  rfl

theorem statusBy_setStation (c : Status) : statusBy (s.setStation i v) p x c = statusBy s p x c := rfl

theorem followed_setStation (w : Bool) (ys : List SlotId) :
    ∀ s : State, followed w p ys (s.setStation i v) = (followed w p ys s).setStation i v := by
  induction ys with
  | nil =>
    intro s
    simp only [followed, apply_ite (fun u : State => u.setStation i v)]
    rfl
  | cons y ys ih =>
    intro s
    have hgone : followed w p ys (slotGone (s.setStation i v) p y ys) =
        (followed w p ys (slotGone s p y ys)).setStation i v := ih (slotGone s p y ys)
    have hposted (st : Status) : followed w p ys (slotGone (recordPosted (s.setStation i v) p y st) p y ys) =
        (followed w p ys (slotGone (recordPosted s p y st) p y ys)).setStation i v :=
      ih (slotGone (recordPosted s p y st) p y ys)
    simp only [followed, hgone, hposted, apply_ite (fun u : State => u.setStation i v)]
    rfl

theorem ended_setStation (rest : List SlotId) (st : Status) :
    ended (s.setStation i v) p x rest st = (ended s p x rest st).setStation i v := by
  have hfreed (u : State) : slotFreed (u.setStation i v) p x rest = (slotFreed u p x rest).setStation i v :=
    followed_setStation i v p false rest (slotGone u p x rest)
  have hposted : recordPosted (s.setStation i v) p x st = (recordPosted s p x st).setStation i v := rfl
  simp only [ended, hposted, hfreed, apply_ite (fun u : State => u.setStation i v)]
  rfl

theorem markTaken_setStation (rest : List SlotId) :
    markTaken (s.setStation i v) p x rest = (markTaken s p x rest).setStation i v := by
  simp only [markTaken, stagedFreed_setStation, ended_setStation, apply_ite (fun u : State => u.setStation i v)]
  rfl

end

/-! ### What follows the outcome -/

theorem Leads.of_frame {s t : State} {p : PointId} {x : SlotId} {rest : List SlotId} (h : Leads s p x rest)
    (hsp : t.sp = s.sp) (hbp : t.bp = s.bp) (hcu : t.cu.held = s.cu.held) (hp : (t.point p).staged = (s.point p).staged) :
    Leads t p x rest := by
  refine h.congr (by rw [State.queue, hsp]; rfl) (by rw [State.slot, hsp]; rfl) (fun y _ => by rw [State.slot, hsp]; rfl)
    (fun b hb => ⟨hp ▸ hb, ?_, ?_⟩) (by rw [hcu]; exact id)
  · rw [State.buffer, hbp]; rfl
  · rw [State.buffer, hbp]; rfl

theorem LeadsAt.of_frame {s t : State} {p : PointId} (h : LeadsAt s p) (hsp : t.sp = s.sp) (hbp : t.bp = s.bp)
    (hcu : t.cu.held = s.cu.held) (hp : (t.point p).staged = (s.point p).staged) : LeadsAt t p := by
  intro x rest hq ha
  unfold State.queue at hq
  unfold State.slot at ha
  rw [hsp] at hq ha
  exact (h x rest hq ha).of_frame hsp hbp hcu hp

/-- Entry to DOWN before the exchanges end (R111). -/
def downEntered (s : State) : State :=
  { clearSeqs (stationsAbsent s) with
    sc := { (stationsAbsent s).sc with state := .down, haltPending := false, waiting := .none }
    fs := { s.fs with running := false, due := [] }
    le := { s.le with state := .off, slotsRead := 0, lineBits := 0 } }

theorem downEntered_staged (s : State) (p : PointId) : ((downEntered s).point p).staged = (s.point p).staged := by
  change ((clearSeqs (stationsAbsent s)).point p).staged = _
  rw [clearSeqs_point]
  rfl

theorem enterDown_eq (s : State) (h : ActivesLead s) : enterDown s = { lineResets (downEntered s) with
    eu := (lineResets (downEntered s)).eu.take s.hw.config .segmentChanged } := by
  have hl : ActivesLead (downEntered s) := fun p =>
    LeadsAt.of_frame (h p) rfl rfl rfl (downEntered_staged s p)
  have hw : (lineResets (downEntered s)).hw = s.hw := by
    rw [← endAllActive_eq hl]
    exact (endAllActive_frame (downEntered s)).2.2.1
  have he : enterDown s = raise .segmentChanged (endAllActive (downEntered s)) := rfl
  rw [he, endAllActive_eq hl, raise, ← hw]

theorem downEntered_entered (s : State) : EnteredDown s (downEntered s) :=
  ⟨rfl, fun p => clearSeqs_point (stationsAbsent s) p, fun i => stationsAbsent_station s i⟩

theorem enterResettingCore_point (s : State) (p : PointId) :
    (enterResettingCore s).point p = { s.point p with seq := false, deferCount := 0 } := by
  change (clearDefers (clearSeqs (stationsAbsent s))).point p = _
  rw [clearDefers_point, clearSeqs_point]
  rfl

theorem enterResettingByReset_eq (s : State) (h : ActivesLead s) :
    enterResettingByReset s = lineResets (enterResettingCore s) :=
  endAllActive_eq fun p =>
    LeadsAt.of_frame (h p) rfl rfl rfl (by rw [enterResettingCore_point])

theorem enterResettingCore_entered (s : State) : EnteredResetting s (enterResettingCore s) :=
  ⟨rfl, enterResettingCore_point s, fun i => stationsAbsent_station s i⟩

/-- A halt request taken, then the service that ends the happening. -/
theorem serviceOnly_takeHaltRequests (s : State) :
    ServiceOnly (haltTaken s) (choose (settle (takeHaltRequests s))) := by
  rw [takeHaltRequests_eq]
  exact choose_settle_only _

/-- What follows an outcome that left the waiting transition and the segment state as they were (R115). -/
theorem txnCloses_of_outcome {s u : State} (hw : u.sc.waiting = s.sc.waiting) (hg : u.sc.state = s.sc.state)
    (hl : ActivesLead s → ActivesLead u) :
    TxnCloses s u (choose (settle (takeHaltRequests (carryOutWaiting u)))) where
  goesOn h1 h2 := by
    have hu : carryOutWaiting u = u := by
      unfold carryOutWaiting
      rw [hw, h1]
      exact if_neg (hg ▸ h2)
    rw [hu]
    exact serviceOnly_takeHaltRequests u
  halts h1 h2 := by
    have hu : carryOutWaiting u = enterHalted u := by
      unfold carryOutWaiting
      rw [hw, h1]
      exact if_pos (hg.trans h2)
    rw [hu]
    exact serviceOnly_takeHaltRequests (enterHalted u)
  stops h1 h2 := by
    have hu : carryOutWaiting u = enterDown u := by
      unfold carryOutWaiting
      rw [hw, h1]
    rw [hu]
    refine ⟨_, downEntered_entered u, ?_⟩
    rw [← enterDown_eq u (hl h2)]
    exact serviceOnly_takeHaltRequests _
  resets h1 h2 := by
    have hu : carryOutWaiting u = enterResettingByReset u := by
      unfold carryOutWaiting
      rw [hw, h1]
    rw [hu]
    refine ⟨_, enterResettingCore_entered u, ?_⟩
    rw [← enterResettingByReset_eq u (hl h2)]
    exact serviceOnly_takeHaltRequests _

/-! ### The state in which an outcome is applied -/

/-- The record of the transaction is removed and the line engine is IDLE (R86). -/
def txnIdle (moment : Nat) (s : State) : State :=
  { s.setElapsed moment with le := { s.le with state := .idle, txn := none } }

theorem endTxn_eq (t : Txn) (a : Answer) (moment : Nat) (s : State) :
    endTxn t a moment s = choose (settle (takeHaltRequests (carryOutWaiting
      (applyStreak (s.point t.point).cfg.station a (applyOutcome t a (txnIdle moment s)))))) := rfl

theorem execTransactionEnd_due {s : State} {t : Txn} {levels : List Bool} {moment : Nat} {a : Answer}
    (ht : s.le.txn = some t) (he : txnEnding s.sc.params s.le.state t levels = some (moment, a))
    (hr : s.fs.running = true) (hm : s.fs.elapsed ≤ moment) :
    exec (.transactionEnd levels) s = .next (endTxn t a moment s) := by
  change execTransactionEnd levels s = _
  unfold execTransactionEnd
  rw [ht]
  dsimp only
  rw [he]
  exact if_pos (by rw [timedAt, hr, Bool.true_and, decide_eq_true hm])

/-- An ACTIVE exchange that leads its queue ends, by its mark or by the cause. -/
theorem Leads.endExchange_eq {s : State} {p : PointId} {x : SlotId} {rest : List SlotId} (h : Leads s p x rest)
    (ha : (s.slot x).state = .active) (c : Status) :
    endExchange x c s = retired (Machine.stagedFreed s x p) x (statusBy s p x c) := by
  rw [← h.endWith_eq]
  unfold endExchange endStatus statusBy
  rw [ha, cancelStatus_eq h.point]

theorem pointHalted_retired (s : State) (p : PointId) (x : SlotId) (st : Status) (c : HaltCause) :
    pointHalted (retired s x st) p c = retired (pointHalted s p c) x st := by
  have hp : (retired s x st).point p = s.point p := rfl
  unfold pointHalted
  rw [hp]
  split
  · rfl
  · rfl

/-- The exchange that leads a queue ends as its point is halted, and the queue is followed (R14, R89, R97). -/
theorem Leads.advancePoint_halted {s : State} {p : PointId} {x : SlotId} {rest : List SlotId} (h : Leads s p x rest)
    (ha : (s.slot x).state = .active) (c : HaltCause) (st : Status) :
    advancePoint p (haltPoint c p (endExchange x st s)) =
      ended (Machine.pointHalted (Machine.stagedFreed s x p) p c) p x rest (statusBy s p x st) := by
  rw [h.endExchange_eq ha, haltPoint_eq, pointHalted_retired]
  exact (h.stagedFreed.pointHalted p c).advancePoint_retired
    (stagedFreed_pointHalted _ _ _ _ (stagedFreed_idem s x p)) _

/-- An error of the exchange that leads a queue (R90, R96, R97): it counts, and at the attempt limit the exchange ends. -/
def errorTaken (s : State) (p : PointId) (x : SlotId) (rest : List SlotId) (st : Status) : State :=
  let w := s.setSlot x { s.slot x with errors := (s.slot x).errors + 1 }
  if (s.point p).cfg.attemptLimit ≤ (s.slot x).errors + 1 then
    ended (pointHalted (stagedFreed w x p) p .attempts) p x rest (statusBy s p x st)
  else markTaken w p x rest

theorem Leads.errorOutcome_eq {s : State} {t : Txn} {rest : List SlotId} (h : Leads s t.point t.slot rest)
    (ha : (s.slot t.slot).state = .active) (hf : s.le.txn = none) (st : Status) :
    errorOutcome t st s = errorTaken s t.point t.slot rest st := by
  have hw : Leads (s.setSlot t.slot { s.slot t.slot with errors := (s.slot t.slot).errors + 1 }) t.point t.slot rest :=
    h.setSlot rfl
  have hslot := State.slot_setSlot_same s t.slot { s.slot t.slot with errors := (s.slot t.slot).errors + 1 }
  have haw : ((s.setSlot t.slot { s.slot t.slot with errors := (s.slot t.slot).errors + 1 }).slot t.slot).state =
      .active := by rw [hslot]; exact ha
  have hst : statusBy (s.setSlot t.slot { s.slot t.slot with errors := (s.slot t.slot).errors + 1 }) t.point t.slot st =
      statusBy s t.point t.slot st := by
    simp only [statusBy, hslot]
    rfl
  unfold errorOutcome afterOutcome errorTaken
  dsimp only [modSlot_eq]
  rw [State.setSlot_point, hslot]
  split
  · rw [hw.advancePoint_halted haw, hst]
  · refine hw.advancePoint_active haw ?_
    unfold inFlight
    rw [State.setSlot_le, hf]

theorem errorTaken_setStation (s : State) (i : StationId) (v : Station) (p : PointId) (x : SlotId) (rest : List SlotId)
    (st : Status) : errorTaken (s.setStation i v) p x rest st = (errorTaken s p x rest st).setStation i v := by
  have hset (e : Slot) : (s.setStation i v).setSlot x e = (s.setSlot x e).setStation i v := rfl
  simp only [errorTaken, State.setStation_slot, State.setStation_point, hset, stagedFreed_setStation,
    pointHalted_setStation, statusBy_setStation, ended_setStation, markTaken_setStation,
    apply_ite (fun u : State => u.setStation i v)]

theorem errorTaken_beside {s : State} {p : PointId} {x : SlotId} {rest : List SlotId} (h : Leads s p x rest)
    (st : Status) : Beside p s (errorTaken s p x rest st) := by
  have hw : Leads (s.setSlot x { s.slot x with errors := (s.slot x).errors + 1 }) p x rest := h.setSlot rfl
  refine Beside.trans (t := s.setSlot x { s.slot x with errors := (s.slot x).errors + 1 }) (.setSlot h.point id) ?_
  unfold errorTaken
  dsimp only
  split
  · exact (hw.beside_stagedFreed.trans (.pointHalted p _ _)).trans (ended_beside (hw.stagedFreed.pointHalted p _) _)
  · exact markTaken_beside hw

theorem errorTaken_leadsAt {s : State} {p : PointId} {x : SlotId} {rest : List SlotId} (h : Leads s p x rest)
    (st : Status) : LeadsAt (errorTaken s p x rest st) p := by
  have hw : Leads (s.setSlot x { s.slot x with errors := (s.slot x).errors + 1 }) p x rest := h.setSlot rfl
  unfold errorTaken
  dsimp only
  split
  · exact ended_leadsAt (hw.stagedFreed.pointHalted p _) _
  · exact markTaken_leadsAt hw

/-! ### Outcomes and the frame -/

theorem afterOutcome_frame (t : Txn) (s : State) : WalkFrame s (afterOutcome t s) := advancePoint_frame t.point s

theorem deferPoint_frame (p : PointId) (s : State) : WalkFrame s (deferPoint p s) := by
  unfold deferPoint
  split
  · exact .refl s
  · exact .refl s

theorem refuseOutcome_frame (t : Txn) (s : State) : WalkFrame s (refuseOutcome t s) :=
  let k := walkFrame_closed s
  k.advancePoint _ _ (k.halt _ _ _ (k.endExchange _ _ _ (.refl s)))

theorem errorOutcome_frame (t : Txn) (st : Status) (s : State) : WalkFrame s (errorOutcome t st s) := by
  have k := walkFrame_closed s
  have hw : WalkFrame s (s.modSlot t.slot fun e => { e with errors := e.errors + 1 }) := .refl s
  unfold errorOutcome
  refine k.advancePoint _ _ ?_
  split
  · exact k.halt _ _ _ (k.endExchange _ _ _ hw)
  · exact hw

end Sys2Proof.Machine
end

section
/-! PROOF. A transaction's end without an accepted packet: silence, CHECK, OVERLENGTH, DEFER and REFUSE (R89, R90, R94 to R98,
R126, R127, R115). -/

namespace Sys2Proof.Machine

set_option Elab.async false

/-! ### The state the outcome meets -/

/-- The record of the transaction is removed, and the buffer of a FETCH is freed (R86, R94). -/
def txnFreed (t : Txn) (moment : Nat) (s : State) : State :=
  if t.direction = .store then txnIdle moment s else bufferFreed (txnIdle moment s) t.buffer t.slot t.point

section

variable {s : State} {t : Txn} {rest : List SlotId} (h : TxnUnderway s t rest) (moment : Nat)
include h

theorem TxnUnderway.leads_idle : Leads (txnIdle moment s) t.point t.slot rest := h.leads.of_frame rfl rfl rfl rfl

theorem TxnUnderway.freeBuffer_eq : freeBuffer t.buffer (txnIdle moment s) =
    bufferFreed (txnIdle moment s) t.buffer t.slot t.point := Machine.freeBuffer_eq h.buffer.1 h.buffer.2

theorem TxnUnderway.leads_freed : Leads (txnFreed t moment s) t.point t.slot rest := by
  unfold txnFreed
  split
  · exact h.leads_idle moment
  · exact (h.leads_idle moment).bufferFreed _

theorem TxnUnderway.beside_bufferFreed :
    Beside t.point s (bufferFreed (txnIdle moment s) t.buffer t.slot t.point) :=
  (Beside.of_eq (s := s) (t := txnIdle moment s) rfl rfl rfl rfl).trans (.bufferFreed h.buffer.1 h.leads.point)

theorem TxnUnderway.beside_freed : Beside t.point s (txnFreed t moment s) := by
  unfold txnFreed
  split
  · exact .of_eq rfl rfl rfl rfl
  · exact h.beside_bufferFreed moment

/-- With its transaction's buffer freed the point of the transaction has no staged buffer. -/
theorem TxnUnderway.unstaged :
    ((bufferFreed (txnIdle moment s) t.buffer t.slot t.point).point t.point).staged = none := by
  rw [bufferFreed_point, if_pos rfl]
  change (if (s.point t.point).staged = some t.buffer then none else (s.point t.point).staged) = none
  rw [h.staged]
  split <;> simp_all

end

section

variable (s : State) (t : Txn) (moment : Nat)

theorem txnFreed_slot : ∃ j, (txnFreed t moment s).slot t.slot = { s.slot t.slot with jobs := j } := by
  unfold txnFreed
  split
  · exact ⟨_, rfl⟩
  · exact ⟨_, (bufferFreed_slot ..).trans (if_pos rfl)⟩

theorem txnFreed_point : ∃ b, (txnFreed t moment s).point t.point = { s.point t.point with staged := b } := by
  unfold txnFreed
  split
  · exact ⟨_, rfl⟩
  · exact ⟨_, (bufferFreed_point ..).trans (if_pos rfl)⟩

theorem txnFreed_sc : (txnFreed t moment s).sc = s.sc := by
  unfold txnFreed
  split <;> rfl

theorem txnFreed_txn : (txnFreed t moment s).le.txn = none := by
  unfold txnFreed
  split <;> rfl

/-- The station's streak, set as the transaction ends. -/
theorem txnFreed_setStation (n : Nat) :
    (if t.direction = .store then txnEnded s t moment n
      else bufferFreed (txnEnded s t moment n) t.buffer t.slot t.point) =
    (txnFreed t moment s).setStation (s.point t.point).cfg.station
      { s.station (s.point t.point).cfg.station with streak := n } := by
  unfold txnFreed
  split <;> rfl

end

theorem statusBy_congr {s u : State} {p : PointId} {x : SlotId} {j : Nat} {b : Option BufId}
    (hx : u.slot x = { s.slot x with jobs := j }) (hp : u.point p = { s.point p with staged := b }) (c : Status) :
    statusBy u p x c = statusBy s p x c := by
  unfold statusBy cancelGives
  rw [hx, hp]

/-! ### The station at the end -/

theorem applyStreak_quiet {s w : State} {i : StationId} {a : Answer} (hsc : w.sc = s.sc)
    (hno : ¬ (a = .silent ∧ s.sc.params.silenceLimit ≤ streakAfter a (s.station i).streak ∧
      (s.station i).presence = .present)) :
    applyStreak i a w = w.setStation i { s.station i with streak := streakAfter a (s.station i).streak } := by
  have hx : w.station i = s.station i := by rw [State.station, hsc]; rfl
  unfold applyStreak
  dsimp only
  rw [hx, hsc, if_neg hno]

/-- A station that has fallen silent too often is LOST, and STATION_LOST is raised (R126). -/
def stationLost (cfg : HostConfig) (i : StationId) (s : State) : State :=
  { s.setStation i { s.station i with presence := .lost } with eu := s.eu.take cfg .stationLost }

theorem applyStreak_loses {s w : State} {i : StationId} (hsc : w.sc = s.sc) (hhw : w.hw = s.hw)
    (hl : s.sc.params.silenceLimit ≤ min 15 ((s.station i).streak + 1)) (hp : (s.station i).presence = .present) :
    applyStreak i .silent w = stationGone .stationLost i
      (stationLost s.hw.config i (w.setStation i { s.station i with streak := min 15 ((s.station i).streak + 1) })) := by
  have hx : w.station i = s.station i := by rw [State.station, hsc]; rfl
  unfold applyStreak
  dsimp only
  rw [hx, hsc, if_pos ⟨rfl, hl, hp⟩, ← hhw]
  rfl

/-- What follows an outcome at one point, with the streak of its station set. -/
theorem txnCloses_setStation {s w : State} {p : PointId} (i : StationId) (v : Station) (hsc : w.sc = s.sc)
    (hb : Beside p s w) (hat : LeadsAt w p) :
    TxnCloses s (w.setStation i v) (choose (settle (takeHaltRequests (carryOutWaiting (w.setStation i v))))) := by
  refine txnCloses_of_outcome ?_ ?_ fun hl => ?_
  · rw [State.setStation_sc_waiting, hsc]
  · rw [State.setStation_sc_state, hsc]
  · have hset : Beside p w (w.setStation i v) := .of_eq rfl rfl rfl rfl
    exact (hb.trans hset).activesLead (hat.of_frame rfl rfl rfl rfl) hl

/-! ### Errors -/

section

variable {s : State} {t : Txn} {rest : List SlotId} (h : TxnUnderway s t rest) {moment : Nat} {a : Answer} {st : Status}
  (happly : applyOutcome t a (txnIdle moment s) = errorOutcome t st (txnFreed t moment s))
include h happly

theorem TxnUnderway.outcome_errorTaken :
    applyOutcome t a (txnIdle moment s) = errorTaken (txnFreed t moment s) t.point t.slot rest st := by
  obtain ⟨j, hj⟩ := txnFreed_slot s t moment
  rw [happly]
  exact (h.leads_freed moment).errorOutcome_eq (by rw [hj]; exact h.active) (txnFreed_txn s t moment) st

theorem TxnUnderway.errorTaken_sc : (errorTaken (txnFreed t moment s) t.point t.slot rest st).sc = s.sc := by
  rw [← h.outcome_errorTaken happly, happly]
  exact (errorOutcome_frame t st _).1.trans (txnFreed_sc s t moment)

theorem TxnUnderway.errorTaken_hw : (errorTaken (txnFreed t moment s) t.point t.slot rest st).hw = s.hw := by
  have hf : (txnFreed t moment s).hw = s.hw := by
    unfold txnFreed
    split <;> rfl
  rw [← h.outcome_errorTaken happly, happly]
  exact (errorOutcome_frame t st _).2.2.1.trans hf

theorem TxnUnderway.error_closes
    (hno : ¬ (a = .silent ∧ s.sc.params.silenceLimit ≤ streakAfter a (s.station (s.point t.point).cfg.station).streak ∧
      (s.station (s.point t.point).cfg.station).presence = .present)) :
    TxnCloses s ((errorTaken (txnFreed t moment s) t.point t.slot rest st).setStation (s.point t.point).cfg.station
      { s.station (s.point t.point).cfg.station with
        streak := streakAfter a (s.station (s.point t.point).cfg.station).streak }) (endTxn t a moment s) := by
  have hsc := h.errorTaken_sc happly
  rw [endTxn_eq, h.outcome_errorTaken happly, applyStreak_quiet hsc hno]
  exact txnCloses_setStation _ _ hsc ((h.beside_freed moment).trans (errorTaken_beside (h.leads_freed moment) st))
    (errorTaken_leadsAt (h.leads_freed moment) st)

end

/-- The silence that makes the station LOST (R126, R127): the points bound to it follow. -/
theorem TxnUnderway.lost_closes {s : State} {t : Txn} {rest : List SlotId} (h : TxnUnderway s t rest) {moment : Nat}
    {st : Status} (happly : applyOutcome t .silent (txnIdle moment s) = errorOutcome t st (txnFreed t moment s))
    (hlimit : s.sc.params.silenceLimit ≤ min 15 ((s.station (s.point t.point).cfg.station).streak + 1))
    (hpresent : (s.station (s.point t.point).cfg.station).presence = .present)
    (hbound : ∀ p, p ≠ t.point → (s.point p).cfg.station = (s.point t.point).cfg.station → LeadsAt s p) :
    TxnCloses s (stationLeft .stationLost (s.point t.point).cfg.station
      (stationLost s.hw.config (s.point t.point).cfg.station
        ((errorTaken (txnFreed t moment s) t.point t.slot rest st).setStation (s.point t.point).cfg.station
          { s.station (s.point t.point).cfg.station with
            streak := min 15 ((s.station (s.point t.point).cfg.station).streak + 1) })))
      (endTxn t .silent moment s) := by
  have hsc := h.errorTaken_sc happly
  have hhw := h.errorTaken_hw happly
  have hb := (h.beside_freed moment).trans (errorTaken_beside (h.leads_freed moment) st)
  have hat := errorTaken_leadsAt (h.leads_freed moment) st
  rw [endTxn_eq, h.outcome_errorTaken happly, applyStreak_loses hsc hhw hlimit hpresent]
  generalize errorTaken (txnFreed t moment s) t.point t.slot rest st = w at hsc hhw hb hat
  generalize hi : (s.point t.point).cfg.station = i
  rw [hi] at hbound
  have hframe : ∀ q, LeadsAt w q → LeadsAt (stationLost s.hw.config i (w.setStation i
      { s.station i with streak := min 15 ((s.station i).streak + 1) })) q := fun q hq => hq.of_frame rfl rfl rfl rfl
  have hgone := stationGone_eq (s := stationLost s.hw.config i (w.setStation i
      { s.station i with streak := min 15 ((s.station i).streak + 1) })) .stationLost i fun q hq => by
    by_cases hqt : q = t.point
    · exact hqt ▸ hframe t.point hat
    · refine hframe q (hb.leadsAt hqt (hbound q hqt ?_))
      rw [← hb.points q hqt]
      exact hq
  rw [← hgone]
  have hwalk := stationGone_frame .stationLost i (stationLost s.hw.config i (w.setStation i
      { s.station i with streak := min 15 ((s.station i).streak + 1) }))
  refine txnCloses_of_outcome ?_ ?_ fun hl => ?_
  · rw [hwalk.1, ← hsc]
    rfl
  · rw [hwalk.1, ← hsc]
    rfl
  · rw [hgone]
    exact stationLeft_activesLead _ _ fun q => hframe q (hb.activesLead hat hl q)

/-! ### A DEFER -/

/-- The defer count of an ASYNC point after a DEFER (R22). -/
def deferred (p : PointId) (q : Point) (s : State) : State :=
  s.setPoint p { s.point p with deferCount := if q.cfg.kind = .async then q.cfg.deferInterval else q.deferCount }

theorem deferPoint_eq {s : State} {p : PointId} {q : Point} (hc : (s.point p).cfg = q.cfg)
    (hd : (s.point p).deferCount = q.deferCount) : deferPoint p s = deferred p q s := by
  unfold deferPoint deferred
  rw [← hc, ← hd]
  split
  · rfl
  · exact (State.setPoint_self s p).symm

theorem Leads.deferred {s : State} {p : PointId} {x : SlotId} {rest : List SlotId} (h : Leads s p x rest) (q : Point) :
    Leads (deferred p q s) p x rest :=
  h.of_frame rfl rfl rfl (by rw [Machine.deferred, State.point_setPoint_same])

theorem TxnUnderway.defer_closes {s : State} {t : Txn} {rest : List SlotId} (h : TxnUnderway s t rest) (moment : Nat) :
    TxnCloses s ((markTaken (deferred t.point (s.point t.point) (txnFreed t moment s)) t.point t.slot rest).setStation
      (s.point t.point).cfg.station { s.station (s.point t.point).cfg.station with streak := 0 })
      (endTxn t (.reply .defer) moment s) := by
  obtain ⟨b, hp⟩ := txnFreed_point s t moment
  obtain ⟨j, hj⟩ := txnFreed_slot s t moment
  have hfreed := h.leads_freed moment
  have happly : applyOutcome t (.reply .defer) (txnIdle moment s) =
      afterOutcome t (deferPoint t.point (txnFreed t moment s)) := by
    unfold applyOutcome txnFreed
    cases hd : t.direction with
    | store => rfl
    | fetch => exact congrArg (fun u => afterOutcome t (deferPoint t.point u)) (h.freeBuffer_eq moment)
  have hframe : WalkFrame (txnFreed t moment s) (afterOutcome t (deferPoint t.point (txnFreed t moment s))) :=
    (deferPoint_frame t.point _).trans (afterOutcome_frame t _)
  have hsc : (afterOutcome t (deferPoint t.point (txnFreed t moment s))).sc = s.sc :=
    hframe.1.trans (txnFreed_sc s t moment)
  have hmark : afterOutcome t (deferPoint t.point (txnFreed t moment s)) =
      markTaken (deferred t.point (s.point t.point) (txnFreed t moment s)) t.point t.slot rest := by
    rw [deferPoint_eq (q := s.point t.point) (by rw [hp]) (by rw [hp])]
    refine (hfreed.deferred _).advancePoint_active ?_ ?_
    · change ((txnFreed t moment s).slot t.slot).state = .active
      rw [hj]
      exact h.active
    · change inFlight (txnFreed t moment s) t.slot = false
      unfold inFlight
      rw [txnFreed_txn]
  rw [endTxn_eq, happly, applyStreak_quiet hsc (fun hc => by cases hc.1), hmark]
  rw [hmark] at hsc
  exact txnCloses_setStation _ _ hsc
    ((h.beside_freed moment).trans ((Beside.setPoint _ _ _).trans (markTaken_beside (hfreed.deferred _))))
    (markTaken_leadsAt (hfreed.deferred _))

/-! ### A REFUSE -/

theorem TxnUnderway.refuse_closes {s : State} {t : Txn} {rest : List SlotId} (h : TxnUnderway s t rest) (moment : Nat) :
    TxnCloses s ((ended (pointHalted (bufferFreed (txnIdle moment s) t.buffer t.slot t.point) t.point .refused) t.point
      t.slot rest (statusBy s t.point t.slot .refused)).setStation
      (s.point t.point).cfg.station { s.station (s.point t.point).cfg.station with streak := 0 })
      (endTxn t (.reply .refuse) moment s) := by
  have happly : applyOutcome t (.reply .refuse) (txnIdle moment s) =
      refuseOutcome t (bufferFreed (txnIdle moment s) t.buffer t.slot t.point) := by
    rw [← h.freeBuffer_eq moment]
    unfold applyOutcome
    cases t.direction with
    | store => rfl
    | fetch => rfl
  have hfreed : Leads (bufferFreed (txnIdle moment s) t.buffer t.slot t.point) t.point t.slot rest :=
    (h.leads_idle moment).bufferFreed _
  have hbeside := h.beside_bufferFreed moment
  have hunstaged := stagedFreed_of_none (x := t.slot) (h.unstaged moment)
  have hslot := (bufferFreed_slot (txnIdle moment s) t.buffer t.slot t.point t.slot).trans (if_pos rfl)
  have hpoint := (bufferFreed_point (txnIdle moment s) t.buffer t.slot t.point t.point).trans (if_pos rfl)
  have hst : statusBy (bufferFreed (txnIdle moment s) t.buffer t.slot t.point) t.point t.slot .refused =
      statusBy s t.point t.slot .refused := statusBy_congr (s := s) hslot hpoint .refused
  have hsc : (bufferFreed (txnIdle moment s) t.buffer t.slot t.point).sc = s.sc := rfl
  generalize bufferFreed (txnIdle moment s) t.buffer t.slot t.point = w at *
  have hended : refuseOutcome t w =
      ended (pointHalted w t.point .refused) t.point t.slot rest (statusBy s t.point t.slot .refused) := by
    have key := hfreed.advancePoint_halted (by rw [hslot]; exact h.active) .refused .refused
    rw [hunstaged, hst] at key
    exact key
  have hout : (refuseOutcome t w).sc = s.sc := (refuseOutcome_frame t w).1.trans hsc
  rw [endTxn_eq, happly, applyStreak_quiet hout (fun hc => by cases hc.1), hended]
  rw [hended] at hout
  have hhalted := hfreed.pointHalted t.point .refused
  exact txnCloses_setStation _ _ hout (hbeside.trans ((Beside.pointHalted _ _ _).trans (ended_beside hhalted _)))
    (ended_leadsAt hhalted _)

/-! ### The two statements -/

theorem storeAnswer_defer : storeAnswer (Packet.reply .defer).levels = .reply .defer := by decide +kernel

theorem storeAnswer_refuse : storeAnswer (Packet.reply .refuse).levels = .reply .refuse := by decide +kernel

/-- A short packet is no DATA, whatever length was asked for (R91). -/
theorem fetchAnswer_short {m : Nat} {rx : List Bool} {a : Answer} (hk : kindOf (byteAt rx 0) ≠ 6)
    (ha : shortAnswer rx = a) (hne : a ≠ .reply .accept) : fetchAnswer m rx = (a, 38) := by
  unfold fetchAnswer
  rw [if_neg hk, ha]
  split
  · exact absurd rfl hne
  · rfl

theorem fetchAnswer_defer (m : Nat) : fetchAnswer m (Packet.reply .defer).levels = (.reply .defer, 38) :=
  fetchAnswer_short (by decide +kernel) storeAnswer_defer (by decide)

theorem fetchAnswer_refuse (m : Nat) : fetchAnswer m (Packet.reply .refuse).levels = (.reply .refuse, 38) :=
  fetchAnswer_short (by decide +kernel) storeAnswer_refuse (by decide)

/-- A transaction that ends with a short REPLY ends 38 bt after its answer began (R87, R91). -/
theorem txnEnding_reply {q : SegParams} {l : LineState} {t : Txn} {levels : List Bool} {a : Nat} {c : ReplyCode}
    (hl : l = if t.direction = .store then .awaitReply else .receiving) (hb : t.answerBegan = some a)
    (hs : storeAnswer levels = .reply c) (hf : ∀ m, fetchAnswer m levels = (.reply c, 38)) :
    txnEnding q l t levels = some (a + 38, .reply c) := by
  unfold txnEnding
  cases hd : t.direction with
  | store =>
    rw [hl, hd, if_pos rfl]
    dsimp only
    rw [hb, hs]
  | fetch =>
    rw [hl, hd, if_neg (nofun)]
    dsimp only
    rw [hb, hf]

/-- Settles O52: the outcome is `Leads.advancePoint_halted`, what follows it `txnCloses_of_outcome`. -/
theorem refuseEndsTheExchangeAndHaltsThePoint : Obligations.RefuseEndsTheExchangeAndHaltsThePoint := by
  unfold Obligations.RefuseEndsTheExchangeAndHaltsThePoint
  intro t a rest s h hl hb hm
  refine ⟨_, execTransactionEnd_due h.txn (txnEnding_reply hl hb storeAnswer_refuse fetchAnswer_refuse) h.running hm, ?_⟩
  have key := h.refuse_closes (a + 38)
  rw [← ended_setStation, ← pointHalted_setStation, ← bufferFreed_setStation] at key
  exact key

section

variable {s : State} {t : Txn} {levels : List Bool} {a : Nat}

theorem txnEnding_silent
    (h : s.le.state = .awaitReply ∧ t.direction = .store ∧ t.answerBegan = none ∨
      s.le.state = .awaitAnswer ∧ t.direction = .fetch) :
    txnEnding s.sc.params s.le.state t levels =
      some (t.began + (if t.direction = .store then 114 + 10 * t.requested else 58) + s.sc.params.replyTimeout,
        .silent) := by
  unfold txnEnding windowOpens
  rcases h with ⟨hl, hd, hb⟩ | ⟨hl, hd⟩
  · rw [hl, hd]
    dsimp only
    rw [hb, if_pos rfl, Nat.add_assoc t.began]
  · rw [hl, hd]
    dsimp only
    rw [if_neg nofun]

theorem txnEnding_store (hl : s.le.state = .awaitReply) (hb : t.answerBegan = some a) :
    txnEnding s.sc.params s.le.state t levels = some (a + 38, storeAnswer levels) := by
  unfold txnEnding
  rw [hl]
  dsimp only
  rw [hb]

theorem txnEnding_fetch {ans : Answer} {length : Nat} (hl : s.le.state = .receiving) (hb : t.answerBegan = some a)
    (hf : fetchAnswer t.requested levels = (ans, length)) (hne : ∀ k q, ans ≠ .data k q) :
    txnEnding s.sc.params s.le.state t levels = some (a + length, ans) := by
  unfold txnEnding
  rw [hl]
  dsimp only
  rw [hb, hf]
  cases ans with
  | data k q => exact absurd rfl (hne k q)
  | reply c => rfl
  | silent => rfl
  | check w => rfl
  | overlength => rfl

end

section

variable {s : State} {t : Txn} {rest : List SlotId} (h : TxnUnderway s t rest) (moment : Nat)
include h

theorem TxnUnderway.apply_silent :
    applyOutcome t .silent (txnIdle moment s) = errorOutcome t .failedSilent (txnFreed t moment s) := by
  unfold applyOutcome txnFreed
  cases hd : t.direction with
  | store => rfl
  | fetch => exact congrArg (errorOutcome t .failedSilent) (h.freeBuffer_eq moment)

theorem TxnUnderway.apply_check (w : Bool) :
    applyOutcome t (.check w) (txnIdle moment s) = errorOutcome t .failedCheck (txnFreed t moment s) := by
  unfold applyOutcome txnFreed
  cases hd : t.direction with
  | store => rfl
  | fetch => exact congrArg (errorOutcome t .failedCheck) (h.freeBuffer_eq moment)

theorem TxnUnderway.apply_overlength (hd : t.direction = .fetch) :
    applyOutcome t .overlength (txnIdle moment s) = errorOutcome t .failedOverlength (txnFreed t moment s) := by
  unfold applyOutcome txnFreed
  rw [hd]
  exact congrArg (errorOutcome t .failedOverlength) (h.freeBuffer_eq moment)

end

/-- Settles O51: an error is `errorTaken`, a DEFER `deferred`; what follows is `TxnCloses`. -/
theorem silenceAndDeferOutcomes : Obligations.SilenceAndDeferOutcomes := by
  unfold Obligations.SilenceAndDeferOutcomes
  intro t rest levels s h e q i x opens silentAt streak loses freed failed closes silent
  have hfreed : ∀ moment n, freed moment n = (txnFreed t moment s).setStation i { x with streak := n } :=
    fun moment n => txnFreed_setStation s t moment n
  have hslot : ∀ moment n, ∃ j, (freed moment n).slot t.slot = { e with jobs := j } := fun moment n => by
    rw [hfreed]
    exact txnFreed_slot s t moment
  have hpoint : ∀ moment n, ∃ b, (freed moment n).point t.point = { q with staged := b } := fun moment n => by
    rw [hfreed]
    exact txnFreed_point s t moment
  have hfailed : ∀ moment n st, failed moment n st =
      (errorTaken (txnFreed t moment s) t.point t.slot rest st).setStation i { x with streak := n } := by
    intro moment n st
    obtain ⟨j, hj⟩ := hslot moment n
    obtain ⟨b, hp⟩ := hpoint moment n
    have hst := statusBy_congr (s := s) hj hp st
    rw [← errorTaken_setStation, ← hfreed]
    unfold errorTaken
    rw [hst, show ((freed moment n).slot t.slot).errors = e.errors by rw [hj],
      show ((freed moment n).point t.point).cfg = q.cfg by rw [hp]]
  have hends : ∀ {ans : Answer} {moment : Nat} {u : State}, s.fs.elapsed ≤ moment →
      txnEnding s.sc.params s.le.state t levels = some (moment, ans) → TxnCloses s u (endTxn t ans moment s) →
      closes u := fun hm he hu => ⟨_, execTransactionEnd_due h.txn he h.running hm, hu⟩
  refine ⟨fun hs hno => ?_, fun hs hlose hbound => ?_, fun a ha => ⟨fun hl hd hm w hw => ?_,
    fun length hl hd hm => ⟨fun w hw => ?_, fun ho => ?_⟩, fun hl hm hlev => ?_⟩⟩
  · rw [hfailed]
    exact hends hs.1 (txnEnding_silent hs.2) (h.error_closes (h.apply_silent _) fun hc => hno hc.2)
  · have hall : ∀ p, p ≠ t.point → (s.point p).cfg.station = i → LeadsAt s p :=
      fun p hp hi y behind hq hy => hbound p y behind hp hi hq hy
    intro w
    have hw : w = _ := hfailed silentAt streak .failedSilent
    clear_value w
    change closes (stationLeft .stationLost i (stationLost s.hw.config i w))
    rw [hw]
    exact hends hs.1 (txnEnding_silent hs.2) (h.lost_closes (h.apply_silent _) hlose.1 hlose.2 hall)
  · rw [hfailed]
    refine hends hm ((txnEnding_store hl ha).trans (by rw [hw])) ?_
    have key := h.error_closes (h.apply_check (a + 38) w) (fun hc => by cases hc.1)
    cases w <;> exact key
  · rw [hfailed]
    refine hends hm (txnEnding_fetch hl ha hw nofun) ?_
    have key := h.error_closes (h.apply_check (a + length) w) (fun hc => by cases hc.1)
    cases w <;> exact key
  · rw [hfailed]
    exact hends hm (txnEnding_fetch hl ha ho nofun)
      (h.error_closes (h.apply_overlength (a + length) hd) (fun hc => by cases hc.1))
  · subst hlev
    obtain ⟨b, hp⟩ := hpoint (a + 38) 0
    have key := h.defer_closes (a + 38)
    rw [← markTaken_setStation] at key
    refine hends hm (txnEnding_reply hl ha storeAnswer_defer fetchAnswer_defer) ?_
    rw [hfreed]
    exact key

end Sys2Proof.Machine
end

section
/-! PROOF. Silence in a census slot (R125, R127): the silent count, and at the detach count the station and its points. -/

namespace Sys2Proof.Machine

set_option Elab.async false

/-! ### What the walks leave of a point -/

theorem state_eq_of_unstaged {v w : Point} (h : { v with staged := none } = { w with staged := none }) :
    v.state = w.state := by
  have k := congrArg Point.state h
  exact k

theorem cfg_eq_of_unstaged {v w : Point} (h : { v with staged := none } = { w with staged := none }) :
    v.cfg = w.cfg := by
  have k := congrArg Point.cfg h
  exact k

/-- But for its staged buffer the point is as it was. -/
def Aside (q : PointId) (s t : State) : Prop := { t.point q with staged := none } = { s.point q with staged := none }

namespace Aside

variable {q : PointId} {s t u : State}

theorem of_pt (h : t.pt = s.pt) : Aside q s t := by
  unfold Aside
  rw [State.point, h]
  rfl

theorem trans (h : Aside q s t) (k : Aside q t u) : Aside q s u := Eq.trans k h

theorem state_eq (h : Aside q s t) : (t.point q).state = (s.point q).state := state_eq_of_unstaged h

theorem cfg_eq (h : Aside q s t) : (t.point q).cfg = (s.point q).cfg := cfg_eq_of_unstaged h

theorem freeBuffer (b : BufId) : Aside q s (freeBuffer b s) := by
  unfold Aside
  rw [freeBuffer_point]
  split <;> rfl

theorem endExchange (x : SlotId) (c : Status) : Aside q s (endExchange x c s) := by
  have hend (st : Status) : Aside q s (endWith x st s) := by
    unfold endWith freeStaged
    split
    · exact .trans (t := s.modSlot x _) (.of_pt rfl) (.freeBuffer _)
    · exact .of_pt rfl
  unfold Machine.endExchange
  split
  · exact hend _
  · exact hend _
  · exact .of_pt rfl
  · exact .of_pt rfl

theorem endPending (x : SlotId) : Aside q s (endPending x s) := by
  unfold Machine.endPending
  dsimp only
  split
  · split
    · exact .endExchange x _
    · exact .of_pt rfl
  · split
    · exact .of_pt rfl
    · split
      · exact .endExchange x _
      · split
        · exact .endExchange x _
        · exact .of_pt rfl
  · exact .of_pt rfl
  · exact .of_pt rfl

theorem retireFirst (w : Bool) (p : PointId) (x : SlotId) : Aside q s (retireFirst w p x s).1 := by
  refine .of_pt ?_
  unfold Machine.retireFirst
  split
  · split
    · split
      · exact (freeSlot_pt ..).trans (postRecord_pt ..)
      · split
        · rfl
        · exact joinHeld_pt ..
    · exact freeSlot_pt ..
  · rfl

theorem closePoint {p : PointId} (h : p = q → (s.point q).state ≠ .closing) : Aside q s (closePoint p s) := by
  unfold Machine.closePoint
  split
  · next hc =>
    have hpq : p ≠ q := fun e => h e (e ▸ hc)
    rw [reachDisabled_eq]
    exact congrArg (fun v : Point => { v with staged := none }) (State.point_setPoint_other s hpq _)
  · exact .of_pt rfl

theorem advance (w : Bool) (p : PointId) (xs : List SlotId) :
    ∀ s : State, (p = q → (s.point q).state ≠ .closing) → Aside q s (advance w p xs s) := by
  induction xs with
  | nil => exact fun s h => .closePoint h
  | cons x xs ih =>
    intro s h
    have hfirst := (Aside.endPending (q := q) (s := s) x).trans (.retireFirst w p x)
    unfold Machine.advance
    dsimp only
    split
    · exact hfirst.trans (ih _ fun e => hfirst.state_eq ▸ h e)
    · exact hfirst

theorem endActive (c : Status) {p : PointId} (h : p = q → (s.point q).state ≠ .closing) :
    Aside q s (endActive c p s) := by
  unfold Machine.endActive
  split
  · next x _ =>
    split
    · have hend := Aside.endExchange (q := q) (s := s) x c
      exact hend.trans (.advance false p _ _ fun e => hend.state_eq ▸ h e)
    · exact .of_pt rfl
  · exact .of_pt rfl

theorem haltPoint (c : HaltCause) {p : PointId} (hp : p ≠ q) : Aside q s (haltPoint c p s) := by
  unfold Aside
  rw [haltPoint_eq, (Beside.pointHalted p s c).points q (Ne.symm hp)]

theorem stationGonePoint (c : HaltCause) {p : PointId} (hp : p ≠ q) : Aside q s (stationGonePoint c p s) := by
  have hne (u : State) : p = q → (u.point q).state ≠ .closing := fun e => absurd e hp
  unfold Machine.stationGonePoint
  split
  · exact (Aside.haltPoint c hp).trans (.endActive _ (hne _))
  · exact (Aside.haltPoint c hp).trans (.endActive _ (hne _))
  · exact .endActive _ (hne _)
  · exact .of_pt rfl
  · exact .of_pt rfl

end Aside

/-- The point of a station that is gone (R15), but for its staged buffer. -/
def leftPoint (c : HaltCause) (i : StationId) (v : Point) : Point :=
  if v.cfg.station = i ∧ (v.state = .ready ∨ v.state = .paused) then { v with state := .halted, haltCause := some c }
  else v

theorem leftPoint_unstaged (c : HaltCause) (i : StationId) (v : Point) :
    { leftPoint c i v with staged := none } = leftPoint c i { v with staged := none } := by
  unfold leftPoint
  split
  · rfl
  · rfl

/-- What befalls the point itself when its station is gone (R15). -/
theorem stationGonePoint_point {c : HaltCause} {i : StationId} {p : PointId} {s : State}
    (hi : (s.point p).cfg.station = i) (hp : (s.point p).state ≠ .closing) :
    { (stationGonePoint c p s).point p with staged := none } = { leftPoint c i (s.point p) with staged := none } := by
  have hhalt (hg : (s.point p).state = .ready ∨ (s.point p).state = .paused) :
      { (endActive .stationGone p (haltPoint c p s)).point p with staged := none } =
        { leftPoint c i (s.point p) with staged := none } := by
    have hpoint : (haltPoint c p s).point p = { s.point p with state := .halted, haltCause := some c } := by
      rw [haltPoint_eq, pointHalted, if_pos hg]
      exact State.point_setPoint_same ..
    rw [leftPoint, if_pos ⟨hi, hg⟩, ← hpoint]
    exact Aside.endActive .stationGone fun _ => by rw [hpoint]; nofun
  have hstays (hg : ¬ ((s.point p).state = .ready ∨ (s.point p).state = .paused)) :
      leftPoint c i (s.point p) = s.point p := if_neg fun h => hg h.2
  unfold stationGonePoint
  cases hg : (s.point p).state with
  | ready => exact hhalt (.inl hg)
  | paused => exact hhalt (.inr hg)
  | closing => exact absurd hg hp
  | halted => rw [hstays (by rw [hg]; rintro (h | h) <;> cases h)]
  | disabled => rw [hstays (by rw [hg]; rintro (h | h) <;> cases h)]

/-- The points once a station is gone (R15, R127), but for its CLOSING ones and for the staged buffers. -/
theorem stationGone_point (c : HaltCause) (i : StationId) (q : PointId) (s : State)
    (hq : (s.point q).cfg.station = i → (s.point q).state ≠ .closing) :
    { (stationGone c i s).point q with staged := none } = { leftPoint c i (s.point q) with staged := none } := by
  have key : ∀ (l : List PointId), l.Nodup → ∀ u : State,
      ((u.point q).cfg.station = i → (u.point q).state ≠ .closing) →
      { (l.foldl (fun t p => if (t.point p).cfg.station = i then stationGonePoint c p t else t) u).point q with
        staged := none } =
        { (if q ∈ l then leftPoint c i (u.point q) else u.point q) with staged := none } := by
    intro l
    induction l with
    | nil => exact fun _ _ _ => rfl
    | cons p l ih =>
      intro hn u hu
      obtain ⟨hp, hl⟩ := List.nodup_cons.mp hn
      rw [List.foldl_cons]
      by_cases hpq : p = q
      · subst hpq
        have hstep : { (if (u.point p).cfg.station = i then stationGonePoint c p u else u).point p with
            staged := none } = { leftPoint c i (u.point p) with staged := none } := by
          split
          · next hi => exact stationGonePoint_point hi (hu hi)
          · next hi => rw [leftPoint, if_neg fun h => hi h.1]
        generalize (if (u.point p).cfg.station = i then stationGonePoint c p u else u) = w at hstep
        have hcfg : (w.point p).cfg = (leftPoint c i (u.point p)).cfg := cfg_eq_of_unstaged hstep
        have hstate : (w.point p).state = (leftPoint c i (u.point p)).state := state_eq_of_unstaged hstep
        have hw : (w.point p).cfg.station = i → (w.point p).state ≠ .closing := by
          rw [hcfg, hstate]
          unfold leftPoint
          split
          · nofun
          · exact hu
        rw [ih hl w hw, if_neg hp, if_pos List.mem_cons_self]
        exact hstep
      · have hstep : Aside q u (if (u.point p).cfg.station = i then stationGonePoint c p u else u) := by
          split
          · exact .stationGonePoint c hpq
          · exact .of_pt rfl
        generalize (if (u.point p).cfg.station = i then stationGonePoint c p u else u) = w at hstep
        have hleft : { leftPoint c i (w.point q) with staged := none } =
            { leftPoint c i (u.point q) with staged := none } := by
          rw [leftPoint_unstaged, leftPoint_unstaged, hstep]
        rw [ih hl w (by rw [hstep.cfg_eq, hstep.state_eq]; exact hu)]
        by_cases hm : q ∈ l
        · rw [if_pos hm, if_pos (List.mem_cons_of_mem _ hm)]
          exact hleft
        · rw [if_neg hm, if_neg fun h => (List.mem_cons.mp h).elim (Ne.symm hpq) hm]
          exact hstep
  have h := key (List.finRange 64) (List.nodup_finRange 64) s hq
  rwa [if_pos (List.mem_finRange q)] at h

/-! ### The happening -/

/-- A census slot read at its moment, in its turn (R101). -/
theorem execCensusSlotEnd_due {i : StationId} {levels : SlotLevels} {s : State} (hl : s.le.state = .census)
    (hr : s.fs.running = true) (hm : s.fs.elapsed ≤ s.sc.params.frameLength - 130 + 4 * (i.val + 1))
    (hn : s.le.slotsRead = i.val) : execCensusSlotEnd i levels s = .next (applyCensus (readSlot levels) i
      { s.setElapsed (s.sc.params.frameLength - 130 + 4 * (i.val + 1)) with
        le := { s.le with slotsRead := i.val + 1 } }) := by
  unfold execCensusSlotEnd stationAddress
  dsimp only
  rw [if_pos ⟨hl, by rw [timedAt, hr, Bool.true_and, decide_eq_true hm], by rw [hn]⟩]
  rfl

theorem State.setStation_setStation (s : State) (i : StationId) (v w : Station) :
    (s.setStation i v).setStation i w = s.setStation i w := by
  unfold State.setStation
  simp only [Vector.set_set]

/-- A station that is detached at the end of its slot, before its points are treated (R125). -/
def detached (i : StationId) (n : Nat) (s : State) : State :=
  { s.setStation i { s.station i with answered := false, silent := n, presence := .absent } with
    eu := s.eu.take s.hw.config .stationDetached }

theorem censusSilence_detaches {i : StationId} {s : State} (hx : (s.station i).presence ≠ .absent)
    (hc : s.sc.params.detachCount ≤ min 15 ((s.station i).silent + 1)) :
    censusSilence i s = settle (haltTaken (stationGone .stationDetached i
      (detached i (min 15 ((s.station i).silent + 1)) s))) := by
  unfold censusSilence
  dsimp only
  rw [if_pos ⟨hx, hc⟩, takeHaltRequests_eq, State.modStation, State.station_setStation_same,
    State.setStation_setStation]
  rfl

theorem haltTaken_frame (s : State) : (haltTaken s).pt = s.pt ∧ (haltTaken s).hw = s.hw ∧
    (haltTaken s).pending = s.pending ∧ (haltTaken s).sc.stations = s.sc.stations := by
  unfold haltTaken
  dsimp only
  split_ifs <;> exact ⟨rfl, rfl, rfl, rfl⟩

/-- Staging leaves the point as it was, but for its staged buffer. -/
theorem settle_point (s : State) (p : PointId) :
    { (settle s).point p with staged := none } = { s.point p with staged := none } := by
  rcases (settle_only s).points p with h | ⟨_, b, h, _⟩
  · rw [h]
  · rw [h]

/-- Settles O45: what the points become is `stationGone_point`; where their ACTIVE exchanges lead, `stationGone_eq` says all. -/
theorem censusSilenceDetachesAtTheCount : Obligations.CensusSilenceDetachesAtTheCount := by
  unfold Obligations.CensusSilenceDetachesAtTheCount
  intro i s hl hr hm hn
  have hexec := execCensusSlotEnd_due (levels := ⟨true, true, true, true⟩) hl hr hm hn
  dsimp only
  generalize s.sc.params.frameLength - 130 + 4 * (i.val + 1) = moment at hexec ⊢
  have hexec : exec (.censusSlotEnd i ⟨true, true, true, true⟩) s = .next (censusSilence i
    { s.setElapsed moment with le := { s.le with slotsRead := i.val + 1 } }) := hexec
  refine ⟨fun hx => hexec.trans (congrArg _ ?_), fun hx hc => ?_⟩
  · exact if_neg fun h => hx.elim h.1 (Nat.not_lt.mpr h.2)
  · generalize hw : ({ s.setElapsed moment with le := { s.le with slotsRead := i.val + 1 } } : State) = w at hexec
    have hstation : w.station i = s.station i := by rw [← hw]; rfl
    have hparams : w.sc.params = s.sc.params := by rw [← hw]; rfl
    rw [censusSilence_detaches (by rw [hstation]; exact hx) (by rw [hstation, hparams]; exact hc), hstation] at hexec
    subst hw
    generalize hd : detached i (min 15 ((s.station i).silent + 1))
      { s.setElapsed moment with le := { s.le with slotsRead := i.val + 1 } } = d at hexec
    have hdpoint : d.point = s.point := by rw [← hd]; rfl
    obtain ⟨hgsc, hgle, hghw, hgpending, _⟩ := stationGone_frame .stationDetached i d
    generalize hg : stationGone .stationDetached i d = g at hexec hgsc hgle hghw hgpending
    obtain ⟨hpt, hhw, hpending, hstations⟩ := haltTaken_frame g
    obtain ⟨hssc, _, hshw, hspending, _⟩ := settle_frame (haltTaken g)
    have hpoint : ∀ p, ((s.point p).cfg.station = i → (s.point p).state ≠ .closing) → { (settle (haltTaken g)).point p with staged := none } =
        { leftPoint .stationDetached i (s.point p) with staged := none } := fun p hp => by
      rw [settle_point, State.point, hpt, ← hdpoint, ← stationGone_point _ _ _ _ (by rw [hdpoint]; exact hp), hg]
      rfl
    refine ⟨_, hexec, ?_, ?_, ?_, fun p hi hp => ?_, fun p hp => ?_, fun _ hl => ?_⟩
    · rw [hssc, hstations, hgsc, ← hd]
      rfl
    · rw [hshw, hhw, hghw, ← hd]
      rfl
    · rw [hspending, hpending, hgpending, ← hd]
      rfl
    · rw [hpoint p (fun _ h => by rcases hp with k | k <;> rw [h] at k <;> cases k), leftPoint, if_pos ⟨hi, hp⟩]
    · have hno : ¬ ((s.point p).cfg.station = i ∧ ((s.point p).state = .ready ∨ (s.point p).state = .paused)) := by
        rintro ⟨hi, hs⟩
        rcases hp with h | h | h
        · exact h hi
        · rcases hs with k | k <;> cases h.symm.trans k
        · rcases hs with k | k <;> cases h.symm.trans k
      have hnot : (s.point p).cfg.station = i → (s.point p).state ≠ .closing := fun hi hs => by
        rcases hp with h | h | h
        · exact h hi
        · cases h.symm.trans hs
        · cases h.symm.trans hs
      rw [hpoint p hnot, leftPoint, if_neg hno]
    · have hleads : ∀ p, (d.point p).cfg.station = i → LeadsAt d p := fun p hi y rest hq ha => by
        rw [hdpoint] at hi
        subst hd
        exact (hl p y rest hi hq ha).of_frame rfl rfl rfl rfl
      have hleft : g = stationLeft .stationDetached i d := by rw [← hg, stationGone_eq _ _ hleads]
      have hgone : d = _ := hd.symm
      rw [hleft, hgone]
      exact settle_only _

end Sys2Proof.Machine
end

section
/-! PROOF. DISABLE POINT of a point with a queue (R18, R47, R155, R156): the flush walk, exchange by exchange. -/

namespace Sys2Proof.Machine

set_option Elab.async false

/-! ### The first exchange, of a point that may be held -/

theorem bufferFreed_retired (s : State) (b : BufId) (x : SlotId) (p : PointId) (st : Status) :
    bufferFreed (retired s x st) b x p = retired (bufferFreed s b x p) x st := by
  have hslot : ((retired s x st).setBuffer b
      { state := .free, point := none, slot := none, count := 0, addr := none, data := (s.buffer b).data }).setSlot x
      { (retired s x st).slot x with jobs := ((retired s x st).slot x).jobs - 1 } =
    retired ((s.setBuffer b
      { state := .free, point := none, slot := none, count := 0, addr := none, data := (s.buffer b).data }).setSlot x
      { s.slot x with jobs := (s.slot x).jobs - 1 }) x st := by
    rw [retired_slot]
    unfold retired
    rw [State.setSlot_setSlot, State.slot_setSlot_same]
    simp [State.setSlot, State.setBuffer]
  unfold bufferFreed
  exact congrArg (fun u : State => u.setPoint p
    { s.point p with staged := if (s.point p).staged = some b then none else (s.point p).staged }) hslot

theorem stagedFreed_retired (s : State) (x : SlotId) (p : PointId) (st : Status) :
    stagedFreed (retired s x st) x p = retired (stagedFreed s x p) x st := by
  have hpoint : (retired s x st).point = s.point := rfl
  have hbuffer : (retired s x st).buffer = s.buffer := rfl
  unfold stagedFreed
  rw [hpoint, hbuffer]
  cases (s.point p).staged with
  | none => rfl
  | some b =>
    dsimp only
    split
    · exact bufferFreed_retired s b x p st
    · rfl

section

variable {s : State} {p : PointId} {x : SlotId} (hx : (s.slot x).point = some p)
  (hb : ∀ b, (s.point p).staged = some b → (s.buffer b).point = some p ∧ (s.buffer b).slot = some x)
include hx hb

theorem endWith_retired (st : Status) : endWith x st s = retired (stagedFreed s x p) x st := by
  rw [← stagedFreed_retired]
  exact freeStaged_eq (s := retired s x st) (by rw [retired_slot]; exact hx) hb

theorem jobsBesidesStaged_stagedFreed : jobsBesidesStaged s x = ((stagedFreed s x p).slot x).jobs := by
  simp only [jobsBesidesStaged, stagedBuffer, stagedFreed, hx]
  obtain ⟨o, hs⟩ : ∃ o, (s.point p).staged = o := ⟨_, rfl⟩
  cases o with
  | none => simp [hs]
  | some b =>
    obtain ⟨_, hslot⟩ := hb b hs
    by_cases hg : (s.buffer b).state = .staged
    · simp [hs, stagedFor, hg, hslot, bufferFreed_slot]
    · simp [hs, stagedFor, hg]

end

/-! ### Records written one after the other -/

/-- Records written into the ring from a place on, round its end (R154). -/
def recordsWritten (ring : Vector Record 64) (head : Fin 64) : List Record → Vector Record 64
  | [] => ring
  | r :: rs => recordsWritten (ring.set head r) (head + 1) rs

theorem fin_add_ofNat_succ (h : Fin 64) (i : Nat) : h + Fin.ofNat 64 (i + 1) = h + 1 + Fin.ofNat 64 i := by
  apply Fin.ext
  simp only [Fin.val_add, Fin.val_ofNat]
  omega

theorem recordsWritten_other {rs : List Record} {j : Fin 64} : ∀ {ring : Vector Record 64} {head : Fin 64},
    (∀ i, i < rs.length → head + Fin.ofNat 64 i ≠ j) → (recordsWritten ring head rs)[j] = ring[j] := by
  induction rs with
  | nil => exact fun _ => rfl
  | cons r rs ih =>
    intro ring head h
    have h0 : head ≠ j := by
      have := h 0 (Nat.succ_pos _)
      rwa [show head + Fin.ofNat 64 0 = head from add_zero head] at this
    refine (ih fun i hi => ?_).trans (Vector.getElem_set_ne _ _ fun e => h0 (Fin.ext e))
    rw [← fin_add_ofNat_succ]
    exact h (i + 1) (Nat.succ_lt_succ hi)

theorem recordsWritten_at {rs : List Record} (hn : rs.length ≤ 64) : ∀ {ring : Vector Record 64} {head j : Fin 64} {i : Nat}
    {r : Record}, rs[i]? = some r → head + Fin.ofNat 64 i = j → (recordsWritten ring head rs)[j] = r := by
  induction rs with
  | nil => intro _ _ _ i r h; cases h
  | cons r0 rs ih =>
    intro ring head j i r h hj
    have hlen : rs.length < 64 := hn
    cases i with
    | zero =>
      obtain rfl := Option.some.inj h
      obtain rfl : head = j := (add_zero head).symm.trans hj
      change (recordsWritten (ring.set head r0) (head + 1) rs)[head] = r0
      refine (recordsWritten_other fun i hi e => ?_).trans (Vector.getElem_set_self _)
      rw [← fin_add_ofNat_succ] at e
      have hv := congrArg Fin.val e
      simp only [Fin.val_add, Fin.val_ofNat] at hv
      have := head.isLt
      omega
    | succ i =>
      rw [fin_add_ofNat_succ] at hj
      exact ih (Nat.le_of_lt hlen) h hj

/-! ### The flush walk -/

/-- A walk that flushes each exchange whose record can be posted where one is due, and marks the rest (R47). -/
def flushOn (p : PointId) : List SlotId → State → State
  | [], w => if (w.point p).state = .closing then pointClosed w p else w
  | y :: later, w =>
    if (w.slot y).notify = false then flushOn p later (slotGone w p y later)
    else if w.cu.held = [] ∧ w.cu.count < 64 then flushOn p later (slotGone (recordPosted w p y .flushed) p y later)
    else if p ∈ w.cu.held then markAll later (retired w y .flushed)
    else markAll later (joinHeld false p (retired w y .flushed))

theorem completionIsDue_flushed (e : Slot) : CompletionIsDue e .flushed ↔ e.notify = true := by
  simp [CompletionIsDue]

/-- An exchange that has ended FLUSHED leaves RETIRING where R41 lets it. -/
theorem retireFirst_flushed {w : State} {p : PointId} {y : SlotId} {later : List SlotId} (hq : w.queue p = y :: later)
    (hj : (w.slot y).jobs = 0) : retireFirst false p y (retired w y .flushed) =
      if (w.slot y).notify = false then (slotGone w p y later, true)
      else if w.cu.held = [] ∧ w.cu.count < 64 then (slotGone (recordPosted w p y .flushed) p y later, true)
      else if p ∈ w.cu.held then (retired w y .flushed, false)
      else (joinHeld false p (retired w y .flushed), false) := by
  have he : (w.queue p).erase y = later := by rw [hq, List.erase_cons_head]
  have hpost : canPost (retired w y .flushed) = true ↔ w.cu.held = [] ∧ w.cu.count < 64 := canPost_iff _
  have hdue : completionDue { w.slot y with state := .retiring, status := some .flushed } = true ↔
      ¬ (w.slot y).notify = false := by
    rw [completionDue_iff, completionIsDue_flushed, Bool.not_eq_false]
  have hfree : freeSlot y p (retired w y .flushed) = slotGone w p y later := by rw [retired, freeSlot_setSlot, he]
  unfold retireFirst
  rw [freeSlot_postRecord, he, hfree, retired_slot, if_pos ⟨rfl, hj⟩]
  simp only [hdue, hpost, ite_not]
  rfl

/-- The walk over an exchange that ends FLUSHED with no job outstanding. -/
theorem flushWalk_cons {v w : State} {p : PointId} {y : SlotId} {later : List SlotId}
    (hend : flushFirst y v = retired w y .flushed) (hq : w.queue p = y :: later) (hj : (w.slot y).jobs = 0)
    (ih : ∀ u : State, (u = w ∨ u = recordPosted w p y .flushed) →
      flushWalk p later (slotGone u p y later) = flushOn p later (slotGone u p y later)) :
    flushWalk p (y :: later) v = flushOn p (y :: later) w := by
  rw [flushWalk, hend, retireFirst_flushed hq hj, flushOn]
  split
  · exact ih w (.inl rfl)
  · split
    · exact ih _ (.inr rfl)
    · split
      · rfl
      · rfl

/-- The walk over exchanges that wait. -/
theorem flushWalk_waits {p : PointId} {ys : List SlotId} : ∀ {w : State}, w.queue p = ys → ys.Nodup →
    (∀ y ∈ ys, Waits w p y) → flushWalk p ys w = flushOn p ys w := by
  induction ys with
  | nil =>
    intro w _ _ _
    unfold flushWalk flushOn closePoint
    rw [reachDisabled_eq]
  | cons y later ih =>
    intro w hq hn hw
    obtain ⟨hy, hlater⟩ := List.nodup_cons.mp hn
    have hwait := hw y List.mem_cons_self
    have hend : flushFirst y w = retired w y .flushed := by
      unfold flushFirst
      dsimp only
      rw [hwait.queued]
      exact hwait.endWith_eq .flushed
    refine flushWalk_cons hend hq hwait.jobs fun u hu => ih (slotGone_queue ..) hlater fun z hz => ?_
    have hyz : y ≠ z := fun e => hy (e ▸ hz)
    have hz := hw z (List.mem_cons_of_mem _ hz)
    rcases hu with rfl | rfl
    · exact hz.slotGone hyz rfl rfl fun _ => rfl
    · exact hz.slotGone hyz rfl rfl fun _ => rfl

/-! ### What the walk leaves -/

/-- The exchanges of the list with notify, whose records are posted (R27). -/
def recorded (w : State) (l : List SlotId) : List SlotId := l.filter fun y => (w.slot y).notify

/-- The completion record of an exchange that ends FLUSHED (R154). -/
def flushRecord (w : State) (p : PointId) (y : SlotId) : Record :=
  { tag := (w.slot y).tag, slot := y, point := p, status := .flushed
    bytesDone := if (w.point p).cfg.direction = .store then (w.slot y).bytesLine else (w.slot y).bytesMemory
    errors := (w.slot y).errors, frame := w.fs.frame }

/-- The state once the exchanges of a list have ended FLUSHED and others are left behind them. -/
def flushedTo (w : State) (p : PointId) (l behind : List SlotId) : State :=
  { w with
    sp := { slots := Vector.ofFn fun y => if y ∈ l then Slot.free else w.slot y
            freeList := w.sp.freeList ++ l
            queues := w.sp.queues.set p behind }
    cu := { w.cu with
      ring := recordsWritten w.cu.ring w.cu.head ((recorded w l).map (flushRecord w p))
      head := w.cu.head + Fin.ofNat 64 (recorded w l).length
      count := w.cu.count + (recorded w l).length }
    eu := (recorded w l).foldl (fun e _ => e.take w.hw.config .completionPosted) w.eu }

/-- The records of the list fit (R155). -/
def Fits (w : State) (l : List SlotId) : Prop :=
  recorded w l = [] ∨ w.cu.held = [] ∧ w.cu.count + (recorded w l).length ≤ 64

theorem flushedTo_nil {w : State} {p : PointId} {behind : List SlotId} (hq : w.queue p = behind) :
    flushedTo w p [] behind = w := by
  have hslots : (Vector.ofFn fun y : SlotId => if y ∈ ([] : List SlotId) then Slot.free else w.slot y) = w.sp.slots := by
    apply Vector.ext
    intro i hi
    simp [State.slot]
  have hqueues : w.sp.queues.set p behind = w.sp.queues := by
    rw [← hq]
    simp [State.queue]
  have hhead : w.cu.head + Fin.ofNat 64 0 = w.cu.head := add_zero _
  unfold flushedTo
  simp only [recorded, List.filter_nil, List.length_nil, List.map_nil, recordsWritten, List.foldl_nil, List.append_nil,
    hslots, hqueues, hhead, Nat.add_zero]

section

variable {w u : State} {p : PointId} {y : SlotId} {l behind : List SlotId} (hy : y ∉ l)
include hy

theorem recorded_slotGone (hs : ∀ z, u.slot z = w.slot z) : recorded (slotGone u p y (l ++ behind)) l = recorded w l :=
  List.filter_congr fun z hz => by rw [slotGone_slot, if_neg fun (e : y = z) => hy (e ▸ hz), hs]

theorem map_flushRecord_slotGone (hs : ∀ z, u.slot z = w.slot z) (hp : u.point p = w.point p)
    (hf : u.fs.frame = w.fs.frame) :
    (recorded w l).map (flushRecord (slotGone u p y (l ++ behind)) p) = (recorded w l).map (flushRecord w p) := by
  refine List.map_congr_left fun z hz => ?_
  have hz' : z ∈ l := List.mem_of_mem_filter hz
  unfold flushRecord
  rw [slotGone_slot, if_neg fun (e : y = z) => hy (e ▸ hz'), hs]
  change { flushRecord w p z with
    bytesDone := if (u.point p).cfg.direction = .store then (w.slot z).bytesLine else (w.slot z).bytesMemory
    frame := u.fs.frame } = flushRecord w p z
  rw [hp, hf]
  rfl

omit hy in
theorem flushedTo_slots (hs : ∀ z, u.slot z = w.slot z) :
    (Vector.ofFn fun z => if z ∈ l then Slot.free else (slotGone u p y (l ++ behind)).slot z) =
      Vector.ofFn fun z => if z ∈ y :: l then Slot.free else w.slot z := by
  congr 1
  funext z
  rw [slotGone_slot, hs]
  by_cases hz : z ∈ l
  · rw [if_pos hz, if_pos (List.mem_cons_of_mem _ hz)]
  · rw [if_neg hz]
    by_cases hyz : y = z
    · rw [if_pos hyz, if_pos (hyz ▸ List.mem_cons_self)]
    · rw [if_neg hyz, if_neg fun h => (List.mem_cons.mp h).elim (Ne.symm hyz) hz]

end

theorem flushedTo_cons_quiet {w : State} {p : PointId} {y : SlotId} {l behind : List SlotId} (hy : y ∉ l)
    (hn : (w.slot y).notify = false) :
    flushedTo (slotGone w p y (l ++ behind)) p l behind = flushedTo w p (y :: l) behind := by
  have hrec : recorded w (y :: l) = recorded w l := List.filter_cons_of_neg (by rw [hn]; exact Bool.false_ne_true)
  unfold flushedTo
  rw [hrec, recorded_slotGone hy fun _ => rfl, map_flushRecord_slotGone hy (fun _ => rfl) rfl rfl,
    flushedTo_slots fun _ => rfl]
  simp [slotGone]

theorem flushedTo_cons_posted {w : State} {p : PointId} {y : SlotId} {l behind : List SlotId} (hy : y ∉ l)
    (hn : (w.slot y).notify = true) :
    flushedTo (slotGone (recordPosted w p y .flushed) p y (l ++ behind)) p l behind = flushedTo w p (y :: l) behind := by
  have hrec : recorded w (y :: l) = y :: recorded w l := List.filter_cons_of_pos hn
  unfold flushedTo
  rw [hrec, recorded_slotGone (w := w) (u := recordPosted w p y .flushed) hy fun _ => rfl,
    map_flushRecord_slotGone (w := w) (u := recordPosted w p y .flushed) hy (fun _ => rfl) rfl rfl,
    flushedTo_slots (w := w) (u := recordPosted w p y .flushed) fun _ => rfl]
  simp only [List.map_cons, recordsWritten, List.length_cons, List.foldl_cons, fin_add_ofNat_succ]
  simp [slotGone, recordPosted, flushRecord]
  omega

/-- The walk over exchanges whose records all fit. -/
theorem flushOn_append {p : PointId} {l behind : List SlotId} : ∀ {w : State}, w.queue p = l ++ behind → l.Nodup →
    Fits w l → flushOn p (l ++ behind) w = flushOn p behind (flushedTo w p l behind) := by
  induction l with
  | nil =>
    intro w hq _ _
    rw [flushedTo_nil (behind := behind) hq]
    rfl
  | cons y l ih =>
    intro w hq hn hf
    obtain ⟨hy, hl⟩ := List.nodup_cons.mp hn
    rw [List.cons_append, flushOn]
    by_cases hno : (w.slot y).notify = false
    · have hrec : recorded w (y :: l) = recorded w l :=
        List.filter_cons_of_neg (by rw [hno]; exact Bool.false_ne_true)
      rw [if_pos hno, ih (slotGone_queue ..) hl, flushedTo_cons_quiet hy hno]
      unfold Fits at hf ⊢
      rw [recorded_slotGone hy fun _ => rfl, ← hrec]
      exact hf
    · have hno' : (w.slot y).notify = true := by simpa using hno
      have hrec : recorded w (y :: l) = y :: recorded w l := List.filter_cons_of_pos hno'
      unfold Fits at hf
      rw [hrec] at hf
      obtain ⟨hheld, hcount⟩ := hf.resolve_left (List.cons_ne_nil _ _)
      rw [List.length_cons] at hcount
      rw [if_neg hno, if_pos ⟨hheld, by omega⟩, ih (slotGone_queue ..) hl, flushedTo_cons_posted hy hno']
      unfold Fits
      rw [recorded_slotGone (w := w) (u := recordPosted w p y .flushed) hy fun _ => rfl]
      refine .inr ⟨hheld, ?_⟩
      change w.cu.count + 1 + (recorded w l).length ≤ 64
      omega

/-- Marks set on a list of exchanges (R47). -/
theorem markAll_eq (xs : List SlotId) (s : State) : markAll xs s = { s with
    sp := { s.sp with slots := Vector.ofFn fun y =>
      if y ∈ xs then { s.slot y with cancelRequested := true } else s.slot y } } := by
  induction xs generalizing s with
  | nil =>
    have hslots : (Vector.ofFn fun y : SlotId => if y ∈ ([] : List SlotId) then
        { s.slot y with cancelRequested := true } else s.slot y) = s.sp.slots := by
      apply Vector.ext
      intro i hi
      simp [State.slot]
    rw [hslots]
    rfl
  | cons x xs ih =>
    have hmark : markAll (x :: xs) s = markAll xs (s.setSlot x { s.slot x with cancelRequested := true }) := rfl
    rw [hmark, ih]
    have hslots : (Vector.ofFn fun y : SlotId => if y ∈ xs then
          { (s.setSlot x { s.slot x with cancelRequested := true }).slot y with cancelRequested := true }
          else (s.setSlot x { s.slot x with cancelRequested := true }).slot y) =
        Vector.ofFn fun y => if y ∈ x :: xs then { s.slot y with cancelRequested := true } else s.slot y := by
      congr 1
      funext y
      rw [State.slot_setSlot]
      by_cases hxy : x = y
      · subst hxy
        rw [if_pos rfl, if_pos List.mem_cons_self]
        split <;> rfl
      · rw [if_neg hxy]
        simp only [List.mem_cons, Ne.symm hxy, false_or]
    rw [hslots]
    rfl

theorem markAll_with (xs : List SlotId) (v : State) (cu : CompletionUnit) (eu : EventUnit) :
    markAll xs { v with cu := cu, eu := eu } = { markAll xs v with cu := cu, eu := eu } := by
  rw [markAll_eq, markAll_eq]
  rfl

/-- The first exchange whose record cannot be posted is held, and those behind it are marked (R47, R155, R156). -/
theorem flushOn_held {w : State} {p : PointId} {y : SlotId} {later : List SlotId} (hn : (w.slot y).notify = true)
    (hfull : ¬ (w.cu.held = [] ∧ w.cu.count < 64)) (hh : p ∉ w.cu.held) : flushOn p (y :: later) w =
      { markAll later (retired w y .flushed) with
        cu := { w.cu with held := w.cu.held ++ [p] }
        eu := if w.cu.held = [] then w.eu.take w.hw.config .completionBacklog else w.eu } := by
  have hjoin : joinHeld false p (retired w y .flushed) = { retired w y .flushed with
      cu := { w.cu with held := w.cu.held ++ [p] }
      eu := if w.cu.held = [] then w.eu.take w.hw.config .completionBacklog else w.eu } := by
    rw [joinHeld_eq]
    simp only [and_true]
    rfl
  rw [flushOn, if_neg (by rw [hn]; nofun), if_neg hfull, if_neg hh, hjoin, markAll_with]

/-! ### The point closes -/

/-- The point enters CLOSING (R18). -/
def closingAt (p : PointId) (s : State) : State := s.setPoint p { s.point p with state := .closing, haltCause := none }

theorem closingAt_bufferFreed {s : State} {b : BufId} {p : PointId} (x : SlotId) (hs : (s.point p).staged = some b) :
    bufferFreed (closingAt p s) b x p = closingAt p (bufferFreed s b x p) := by
  have hfreed : (bufferFreed s b x p).point p = { s.point p with staged := none } := by
    rw [bufferFreed_point, if_pos rfl, if_pos hs]
  have hclosing : (closingAt p s).point p = { s.point p with state := .closing, haltCause := none } :=
    State.point_setPoint_same ..
  have hright : closingAt p (bufferFreed s b x p) = _ := State.setPoint_setPoint ((s.setBuffer b
    { state := .free, point := none, slot := none, count := 0, addr := none, data := (s.buffer b).data }).setSlot x
    { s.slot x with jobs := (s.slot x).jobs - 1 }) p _ _
  have hleft : bufferFreed (closingAt p s) b x p = _ := State.setPoint_setPoint ((s.setBuffer b
    { state := .free, point := none, slot := none, count := 0, addr := none, data := (s.buffer b).data }).setSlot x
    { s.slot x with jobs := (s.slot x).jobs - 1 }) p { s.point p with state := .closing, haltCause := none } _
  rw [hright, hleft, hfreed, hclosing, if_pos hs]

theorem closingAt_stagedFreed (s : State) (x : SlotId) (p : PointId) :
    stagedFreed (closingAt p s) x p = closingAt p (stagedFreed s x p) := by
  have hpoint : ((closingAt p s).point p).staged = (s.point p).staged := by
    rw [closingAt, State.point_setPoint_same]
  have hbuffer : (closingAt p s).buffer = s.buffer := rfl
  unfold stagedFreed
  rw [hpoint, hbuffer]
  cases hs : (s.point p).staged with
  | none => rfl
  | some b =>
    dsimp only
    split
    · exact closingAt_bufferFreed x hs
    · rfl

/-- DISABLE POINT of a point in a state it is taken in, by what its walk leaves. -/
theorem disable_answers {p : PointId} {s v : State} (hd : deaf s = false) (hp : (s.param 0).toNat % 256 = p.val)
    (hs : (s.point p).state = .ready ∨ (s.point p).state = .paused ∨ (s.point p).state = .halted)
    (hv : flushWalk p (s.queue p) (closingAt p s) = v) (hw : v.hw = s.hw) {n : Nat} (hn : (v.queue p).length = n) :
    ∃ t, exec .disablePoint s = .next t ∧
      ServiceOnly { v with hw := answeredWindow s.hw 0x03 (if n = 0 then 0x06 else 0x07) 0 (BitVec.ofNat 32 n) 0 } t := by
  have hclose : closeAndFlush p s = choose (settle v) := by
    rw [← hv]
    rfl
  have hlen : ((choose (settle v)).queue p).length = n := by
    rw [(choose_settle_only v).queue_eq, hn]
  have hf := disablePoint_taken hs
  rw [hclose, hlen] at hf
  have hexec := command_service 0x03 hd hp hf hw (show 0 < 256 by decide)
  have hcode : (if n = 0 then ResultCode.closed else .closing).code = if n = 0 then 0x06 else 0x07 := by
    split <;> rfl
  have hplace : place n 0 = BitVec.ofNat 32 n := by rw [place, pow_zero, Nat.mul_one]
  dsimp only at hexec
  rw [hcode, hplace] at hexec
  exact ⟨_, hexec, (choose_settle_only v).withWindow _ (by rw [answeredWindow_config, hw])⟩

/-! ### The first exchange stays -/

theorem State.setSlot_self (s : State) (x : SlotId) : s.setSlot x (s.slot x) = s := by
  simp [State.setSlot, State.slot]

theorem flushFirst_active {s : State} {x : SlotId} (ha : (s.slot x).state = .active) : flushFirst x s =
    if ((s.slot x).faultMark || (s.slot x).cancelRequested) = true then s
    else if inFlight s x = false ∧ jobsBesidesStaged s x = 0 then endWith x .flushed s
    else s.modSlot x fun e => { e with cancelRequested := true } := by
  unfold flushFirst
  dsimp only
  rw [ha]

section

variable {s : State} {p : PointId} {x : SlotId} {rest : List SlotId} (hx : (s.slot x).point = some p)
  (hb : ∀ b, (s.point p).staged = some b → (s.buffer b).point = some p ∧ (s.buffer b).slot = some x)

/-- Behind a first exchange that is not retired the exchanges are marked (R47). -/
theorem flushWalk_stays (h : retireFirst false p x (flushFirst x s) = (flushFirst x s, false)) :
    flushWalk p (x :: rest) s = markAll rest (flushFirst x s) := by
  rw [flushWalk, h]
  rfl

theorem retireFirst_of_not_retiring {w : Bool} (h : (s.slot x).state ≠ .retiring) :
    retireFirst w p x s = (s, false) := if_neg fun k => h k.1

include hx hb in
/-- An ACTIVE first exchange that does not end is marked, unless it has fault_mark (R43, R47). -/
theorem flushWalk_active (ha : (s.slot x).state = .active)
    (hno : ¬ (((stagedFreed s x p).slot x).jobs = 0 ∧ (s.slot x).faultMark = false ∧
      (s.slot x).cancelRequested = false ∧ inFlight s x = false)) :
    flushWalk p (x :: rest) s = markAll (if (s.slot x).faultMark = true then rest else x :: rest) s := by
  have hmarked : ((s.setSlot x { s.slot x with cancelRequested := true }).slot x).state ≠ .retiring := by
    rw [State.slot_setSlot_same]
    change (s.slot x).state ≠ .retiring
    rw [ha]
    nofun
  have hact : (s.slot x).state ≠ .retiring := by rw [ha]; nofun
  rw [← jobsBesidesStaged_stagedFreed hx hb] at hno
  by_cases hf : (s.slot x).faultMark = true
  · have hflush : flushFirst x s = s := by
      rw [flushFirst_active ha, if_pos (by rw [hf, Bool.true_or])]
    rw [flushWalk_stays (by rw [hflush]; exact retireFirst_of_not_retiring hact), hflush, if_pos hf]
  · rw [if_neg hf]
    have hf' : (s.slot x).faultMark = false := Bool.eq_false_iff.mpr hf
    have hcons : markAll (x :: rest) s = markAll rest (s.setSlot x { s.slot x with cancelRequested := true }) := rfl
    rw [hcons]
    have hflush : flushFirst x s = s.setSlot x { s.slot x with cancelRequested := true } := by
      rw [flushFirst_active ha]
      by_cases hc : (s.slot x).cancelRequested = true
      · have hself : { s.slot x with cancelRequested := true } = s.slot x := by rw [← hc]
        rw [if_pos (by rw [hc, Bool.or_true]), hself, State.setSlot_self]
      · rw [if_neg (by rw [hf', Bool.false_or]; exact hc),
          if_neg fun h => hno ⟨h.2, hf', Bool.eq_false_iff.mpr hc, h.1⟩]
        rfl
    rw [flushWalk_stays (by rw [hflush]; exact retireFirst_of_not_retiring hmarked), hflush]

/-- A RETIRING first exchange that waits for its jobs or for room in the ring stays (R47). -/
theorem flushWalk_retiring (hg : (s.slot x).state = .retiring)
    (h : (s.slot x).jobs ≠ 0 ∨ p ∈ s.cu.held ∧ ∃ st, (s.slot x).status = some st ∧ CompletionIsDue (s.slot x) st) :
    flushWalk p (x :: rest) s = markAll rest s := by
  have hflush : flushFirst x s = s := by
    unfold flushFirst
    dsimp only
    rw [hg]
  have hstay : retireFirst false p x s = (s, false) := by
    unfold retireFirst
    rcases h with hj | ⟨hheld, st, hst, hdue⟩
    · exact if_neg fun k => hj k.2
    · have hc : completionDue (s.slot x) = true := by
        rw [← completionDue_iff, ← hg, ← hst] at hdue
        exact hdue
      have hpost : ¬ canPost s = true := fun k => by
        rw [((canPost_iff s).mp k).1] at hheld
        cases hheld
      rw [if_pos hc, if_neg hpost, if_pos hheld, ite_self]
  rw [flushWalk_stays (by rw [hflush]; exact hstay), hflush]

/-- The walk over a queue whose first exchange ends FLUSHED with no job outstanding. -/
theorem flushWalk_ends {v : State} (hx : (v.slot x).point = some p)
    (hb : ∀ b, (v.point p).staged = some b → (v.buffer b).point = some p ∧ (v.buffer b).slot = some x)
    (hq : v.queue p = x :: rest) (hn : (x :: rest).Nodup) (hw : ∀ y ∈ rest, Waits v p y)
    (hj : ((stagedFreed v x p).slot x).jobs = 0)
    (hg : (v.slot x).state = .queued ∨ (v.slot x).state = .active ∧ (v.slot x).faultMark = false ∧
      (v.slot x).cancelRequested = false ∧ inFlight v x = false) :
    flushWalk p (x :: rest) v = flushOn p (x :: rest) (stagedFreed v x p) := by
  obtain ⟨hxr, hrest⟩ := List.nodup_cons.mp hn
  have hend : flushFirst x v = retired (stagedFreed v x p) x .flushed := by
    rw [← endWith_retired hx hb]
    rcases hg with hg | ⟨hg, hf, hc, hi⟩
    · unfold flushFirst
      dsimp only
      rw [hg]
    · refine (flushFirst_active hg).trans ?_
      rw [if_neg (by rw [hf, hc]; exact Bool.false_ne_true)]
      exact if_pos ⟨hi, (jobsBesidesStaged_stagedFreed hx hb).trans hj⟩
  refine flushWalk_cons hend (by rw [stagedFreed_queue, hq]) hj fun u hu =>
    flushWalk_waits (slotGone_queue ..) hrest fun z hz => ?_
  have hxz : x ≠ z := fun e => hxr (e ▸ hz)
  have hwait : Waits (stagedFreed v x p) p z := by
    have hz := hw z hz
    have hslot : (stagedFreed v x p).slot z = v.slot z := by rw [stagedFreed_slot, if_neg hxz]
    refine ⟨hslot ▸ hz.queued, hslot ▸ hz.point, hslot ▸ hz.jobs, hslot ▸ hz.unfaulted, fun b hb' => ?_⟩
    obtain ⟨c, hc, hcs⟩ := stagedFreed_point v x p p
    rw [hc] at hb'
    rcases hcs with rfl | rfl
    · exact stagedFreed_buffer_slot _ _ _ _ _ (hz.unstaged b hb')
    · cases hb'
  rcases hu with rfl | rfl
  · exact hwait.slotGone hxz rfl rfl fun _ => rfl
  · exact hwait.slotGone hxz rfl rfl fun _ => rfl

end

/-! ### The statement -/

theorem closingAt_with (p : PointId) (v : State) (sp : SlotPool) (cu : CompletionUnit) (eu : EventUnit) :
    closingAt p { v with sp := sp, cu := cu, eu := eu } = { closingAt p v with sp := sp, cu := cu, eu := eu } := rfl

theorem pointClosed_queue (p q : PointId) (v : State) : (pointClosed v p).queue q = v.queue q := rfl

theorem closingAt_queue (p q : PointId) (v : State) : (closingAt p v).queue q = v.queue q := rfl

theorem queue_withSlots (v : State) (slots : Vector Slot 256) (q : PointId) :
    State.queue { v with sp := { v.sp with slots := slots } } q = v.queue q := rfl

theorem markAll_queue (xs : List SlotId) (v : State) (q : PointId) : (markAll xs v).queue q = v.queue q := by
  rw [markAll_eq]
  exact queue_withSlots v _ q

theorem markAll_closingAt (xs : List SlotId) (p : PointId) (v : State) :
    markAll xs (closingAt p v) = closingAt p (markAll xs v) := by
  have hslot (y : SlotId) : (closingAt p v).slot y = v.slot y := rfl
  rw [markAll_eq, markAll_eq]
  simp only [hslot]
  exact (closingAt_with p v _ v.cu v.eu).symm

theorem markAll_hw (xs : List SlotId) (v : State) : (markAll xs v).hw = v.hw := by
  rw [markAll_eq]

section

variable (w : State) (p : PointId) (l behind : List SlotId)

theorem flushedTo_queue : (flushedTo w p l behind).queue p = behind := by
  simp [flushedTo, State.queue]

theorem flushedTo_slot (y : SlotId) : (flushedTo w p l behind).slot y = if y ∈ l then Slot.free else w.slot y := by
  simp [flushedTo, State.slot]

theorem flushedTo_point (q : PointId) : (flushedTo w p l behind).point q = w.point q := by
  have hpt : (flushedTo w p l behind).pt = w.pt := by
    unfold flushedTo
    rfl
  rw [State.point, hpt]
  rfl

theorem flushedTo_hw : (flushedTo w p l behind).hw = w.hw := by
  unfold flushedTo
  rfl

theorem flushedTo_held : (flushedTo w p l behind).cu.held = w.cu.held := by
  unfold flushedTo
  rfl

theorem flushedTo_count : (flushedTo w p l behind).cu.count = w.cu.count + (recorded w l).length := by
  unfold flushedTo
  rfl

end

section

variable (s : State) (x : SlotId) (p : PointId)

theorem stagedFreed_frame : (stagedFreed s x p).hw = s.hw ∧ (stagedFreed s x p).fs = s.fs := by
  unfold stagedFreed
  split
  · split <;> exact ⟨rfl, rfl⟩
  · exact ⟨rfl, rfl⟩

theorem stagedFreed_slot_jobs (y : SlotId) : ∃ j, (stagedFreed s x p).slot y = { s.slot y with jobs := j } := by
  rw [stagedFreed_slot]
  split
  · next hxy => subst hxy; exact ⟨_, rfl⟩
  · exact ⟨_, rfl⟩

/-- What the records of the exchanges say does not depend on the STAGED buffer of the first. -/
theorem flushRecord_stagedFreed (y : SlotId) :
    flushRecord (closingAt p (stagedFreed s x p)) p y = flushRecord s p y := by
  obtain ⟨j, hj⟩ := stagedFreed_slot_jobs s x p y
  obtain ⟨b, hb, _⟩ := stagedFreed_point s x p p
  have hslot : (closingAt p (stagedFreed s x p)).slot y = { s.slot y with jobs := j } := hj
  have hcfg : ((closingAt p (stagedFreed s x p)).point p).cfg = (s.point p).cfg := by
    rw [closingAt, State.point_setPoint_same, hb]
  have hframe : (closingAt p (stagedFreed s x p)).fs = s.fs := (stagedFreed_frame s x p).2
  unfold flushRecord
  rw [hslot, hcfg, hframe]

theorem recorded_stagedFreed (l : List SlotId) : recorded (closingAt p (stagedFreed s x p)) l = recorded s l :=
  List.filter_congr fun y _ => by
    obtain ⟨j, hj⟩ := stagedFreed_slot_jobs s x p y
    have hslot : (closingAt p (stagedFreed s x p)).slot y = { s.slot y with jobs := j } := hj
    rw [hslot]

/-- The state the walk leaves, from the one before the command. -/
theorem flushedTo_stagedFreed (l behind : List SlotId) :
    flushedTo (closingAt p (stagedFreed s x p)) p l behind = closingAt p { stagedFreed s x p with
      sp := { slots := Vector.ofFn fun y => if y ∈ l then Slot.free else (stagedFreed s x p).slot y
              freeList := (stagedFreed s x p).sp.freeList ++ l
              queues := (stagedFreed s x p).sp.queues.set p behind }
      cu := { s.cu with
        ring := recordsWritten s.cu.ring s.cu.head ((recorded s l).map (flushRecord s p))
        head := s.cu.head + Fin.ofNat 64 (recorded s l).length
        count := s.cu.count + (recorded s l).length }
      eu := (recorded s l).foldl (fun e _ => e.take s.hw.config .completionPosted) s.eu } := by
  have hrec := recorded_stagedFreed s x p l
  have hmap : (recorded s l).map (flushRecord (closingAt p (stagedFreed s x p)) p) =
      (recorded s l).map (flushRecord s p) := List.map_congr_left fun y _ => flushRecord_stagedFreed s x p y
  have hcu : (closingAt p (stagedFreed s x p)).cu = s.cu := stagedFreed_cu s x p
  have heu : (closingAt p (stagedFreed s x p)).eu = s.eu := stagedFreed_eu s x p
  have hhw : (closingAt p (stagedFreed s x p)).hw = s.hw := (stagedFreed_frame s x p).1
  have hslot (y : SlotId) : (closingAt p (stagedFreed s x p)).slot y = (stagedFreed s x p).slot y := rfl
  refine Eq.trans ?_ (closingAt_with p (stagedFreed s x p) _ _ _).symm
  unfold flushedTo
  rw [hrec, hmap, hcu, heu, hhw]
  simp only [hslot]
  rw [hhw]
  rfl

end

/-- Settles O12: the walk is `flushOn`, what it flushes `flushedTo`, what it leaves marked `markAll`. -/
theorem disablePointFlushesTheQueue : Obligations.DisablePointFlushesTheQueue := by
  unfold Obligations.DisablePointFlushesTheQueue
  intro p x rest s hd hp hs hq hn hx hw hb e u ends recorded' fit record written closing flushed marked answers
  have hwc : ∀ y ∈ rest, Waits (closingAt p s) p y := fun y hy =>
    (hw y hy).congr rfl fun b hb => ⟨by rwa [closingAt, State.point_setPoint_same] at hb, rfl⟩
  have hbc : ∀ b, ((closingAt p s).point p).staged = some b →
      ((closingAt p s).buffer b).point = some p ∧ ((closingAt p s).buffer b).slot = some x := fun b h =>
    hb b (by rwa [closingAt, State.point_setPoint_same] at h)
  have hstays : ∀ {v : State} {n : Nat}, flushWalk p (x :: rest) (closingAt p s) = v → v.hw = s.hw →
      (v.queue p).length = n + 1 → answers 0x07 (n + 1) v := fun hv hhw hlen => by
    have h := disable_answers hd hp hs (by rw [hq]; exact hv) hhw hlen
    rw [if_neg (Nat.succ_ne_zero _)] at h
    exact h
  have hcloses : ∀ {v : State}, flushWalk p (x :: rest) (closingAt p s) = v → v.hw = s.hw →
      v.queue p = [] → answers 0x06 0 v := fun hv hhw hlen => by
    have h := disable_answers hd hp hs (by rw [hq]; exact hv) hhw (n := 0) (by rw [hlen]; rfl)
    rw [if_pos rfl] at h
    exact h
  have hclosing : ∀ v, closing v = closingAt p v := fun _ => rfl
  have hmark : ∀ v l, marked v l = markAll l v := fun v l => (markAll_eq l v).symm
  have hmarked : ∀ l, closing (marked s l) = closingAt p (markAll l s) := fun l => by
    rw [hclosing, hmark]
  have hwalk : ends → flushWalk p (x :: rest) (closingAt p s) = flushOn p (x :: rest) (closingAt p u) := fun he => by
    have h := flushWalk_ends (v := closingAt p s) hx hbc hq hn hwc
    rw [closingAt_stagedFreed] at h
    exact h he.1 he.2
  have hflushed : ∀ l behind, ∃ ring, (fit l → written l ring) ∧
      flushedTo (closingAt p u) p l behind = flushed l behind ring := fun l behind => by
    refine ⟨recordsWritten s.cu.ring s.cu.head ((recorded s l).map (flushRecord s p)), fun hf => ⟨?_, ?_⟩,
      flushedTo_stagedFreed s x p l behind⟩
    · have hlen : ((recorded s l).map (flushRecord s p)).length ≤ 64 := by
        rw [List.length_map]
        rcases hf with hf | ⟨_, hf⟩
        · exact (congrArg List.length hf).trans_le (Nat.zero_le _)
        · exact (Nat.le_add_left _ _).trans hf
      exact fun i y hy => recordsWritten_at hlen ((List.getElem?_map ..).trans (congrArg (Option.map _) hy)) rfl
    · exact fun j hj => recordsWritten_other (by rw [List.length_map]; exact hj)
  have hcu : (closingAt p u).cu = s.cu := stagedFreed_cu s x p
  have hfits : ∀ l, fit l → Fits (closingAt p u) l := fun l hf => by
    unfold Fits
    rw [recorded_stagedFreed s x p l, hcu]
    exact hf
  have huq : (closingAt p u).queue p = x :: rest := by rw [closingAt_queue, stagedFreed_queue, hq]
  have hhw : ∀ l behind, (flushedTo (closingAt p u) p l behind).hw = s.hw := fun l behind =>
    (flushedTo_hw ..).trans (stagedFreed_frame s x p).1
  have hcount : ∀ l behind, (flushedTo (closingAt p u) p l behind).cu.count = s.cu.count + (recorded' l).length :=
    fun l behind => by
      rw [flushedTo_count, recorded_stagedFreed s x p l, hcu]
      rfl
  have hheld : ∀ l behind, (flushedTo (closingAt p u) p l behind).cu.held = s.cu.held := fun _ _ => by
    rw [flushedTo_held, hcu]
  have hnotify : ∀ y, ((closingAt p u).slot y).notify = (s.slot y).notify := fun y => by
    obtain ⟨j, hj⟩ := stagedFreed_slot_jobs s x p y
    have hslot : (closingAt p u).slot y = { s.slot y with jobs := j } := hj
    rw [hslot]
  have hcl : ((closingAt p u).point p).state = .closing := by rw [closingAt, State.point_setPoint_same]
  have hactive : (s.slot x).state = .active → (((stagedFreed (closingAt p s) x p).slot x).jobs = 0 ∧
      (s.slot x).faultMark = false ∧ (s.slot x).cancelRequested = false ∧ inFlight s x = false) → ends :=
    fun ha ⟨hjobs, hmarks⟩ => by
      rw [closingAt_stagedFreed] at hjobs
      exact ⟨hjobs, .inr ⟨ha, hmarks⟩⟩
  clear_value answers marked closing flushed written fit recorded' u
  refine ⟨fun he hf => ?_, fun he before y later hsplit hny hf hfull hh => ?_, fun ha hno => ?_, fun hg hr => ?_⟩
  · obtain ⟨ring, hring, hstate⟩ := hflushed (x :: rest) []
    have hon := flushOn_append (p := p) (behind := []) (by rw [huq, List.append_nil]) hn (hfits _ hf)
    have hend : flushOn p [] (flushedTo (closingAt p u) p (x :: rest) []) =
        pointClosed (flushedTo (closingAt p u) p (x :: rest) []) p := if_pos (by rw [flushedTo_point]; exact hcl)
    rw [List.append_nil, hend] at hon
    refine ⟨ring, hring hf, ?_⟩
    rw [← hstate]
    exact hcloses ((hwalk he).trans hon) (hhw (x :: rest) []) 
      ((pointClosed_queue p p _).trans (flushedTo_queue (closingAt p u) p (x :: rest) []))
  · obtain ⟨ring, hring, hstate⟩ := hflushed before (y :: later)
    rw [hsplit] at hn huq
    have hyb : y ∉ before := fun h => (List.nodup_append.mp hn).2.2 y h y List.mem_cons_self rfl
    have hon := flushOn_append (behind := y :: later) huq (List.nodup_append.mp hn).1 (hfits _ hf)
    have hny' : ((flushedTo (closingAt p u) p before (y :: later)).slot y).notify = true := by
      rw [flushedTo_slot, if_neg hyb, hnotify, hny]
    have hfull' : ¬ ((flushedTo (closingAt p u) p before (y :: later)).cu.held = [] ∧
        (flushedTo (closingAt p u) p before (y :: later)).cu.count < 64) := by
      rw [hheld, hcount]
      rintro ⟨h1, h2⟩
      rcases hfull with h | h
      · exact h h1
      · exact Nat.not_lt.mpr h h2
    have hh' : p ∉ (flushedTo (closingAt p u) p before (y :: later)).cu.held := by rw [hheld]; exact hh
    have hqueue := flushedTo_queue (closingAt p u) p before (y :: later)
    have hheld' := hheld before (y :: later)
    have hhw' := hhw before (y :: later)
    rw [hstate] at hon hny' hfull' hh' hqueue hheld' hhw'
    rw [flushOn_held hny' hfull' hh', ← hsplit] at hon
    refine ⟨ring, hring hf, ?_⟩
    dsimp only
    rw [← hheld', hmark, ← hhw']
    generalize flushed before (y :: later) ring = v at hon hqueue hhw' ⊢
    exact hstays ((hwalk he).trans hon) ((markAll_hw later (retired v y .flushed)).trans hhw') (by
      change ((markAll later (retired v y .flushed)).queue p).length = _
      rw [markAll_queue]
      exact congrArg List.length hqueue)
  · have hstay := flushWalk_active (rest := rest) (s := closingAt p s) hx hbc ha fun h => hno (hactive ha h)
    rw [markAll_closingAt] at hstay
    rw [hmarked]
    refine hstays hstay ?_ ?_
    · exact markAll_hw _ s
    · rw [closingAt_queue, markAll_queue, hq]
      rfl
  · have hstay := flushWalk_retiring (rest := rest) (s := closingAt p s) (p := p) hg hr
    rw [markAll_closingAt] at hstay
    rw [hmarked]
    refine hstays hstay ?_ ?_
    · exact markAll_hw _ s
    · rw [closingAt_queue, markAll_queue, hq]
      rfl

end Sys2Proof.Machine
end

section
/-! SUPPORT. The pool invariant in the parts its proof needs: the exchange records and the queues (`SlotsAgree`), the buffers,
the transaction and the mover's jobs (`BuffersAgree`), the held list (`HeldAgrees`), and what a point has left undone
(`Quiet`). The first three hold all through a happening, the last at its end. -/

namespace Sys2Proof.Machine
set_option Elab.async false

/-! ### The exchange records and the queues -/

/-- The free list and the queues share out the slots, and only the first of a queue is past QUEUED (R28 to R30). -/
structure SlotsAgree (s : State) : Prop where
  freeList : s.sp.freeList.Nodup ∧ ∀ x, x ∈ s.sp.freeList ↔ (s.slot x).state = .free
  freeSlots : ∀ x, (s.slot x).state = .free → s.slot x = Slot.free
  queues : ∀ p, (s.queue p).Nodup ∧ ∀ x, x ∈ s.queue p ↔ (s.slot x).state ≠ .free ∧ (s.slot x).point = some p
  owned : ∀ x, (s.slot x).state ≠ .free → (s.slot x).point.isSome = true
  limit : ∀ p, (s.queue p).length ≤ (s.point p).cfg.queueLimit
  disabled : ∀ p, (s.point p).state = .disabled → s.queue p = []
  behind : ∀ p x rest, s.queue p = x :: rest → ∀ y ∈ rest, (s.slot y).state = .queued
  queued : ∀ x, (s.slot x).state = .queued → (s.slot x).bytesLine = 0 ∧ (s.slot x).bytesMemory = 0 ∧
    (s.slot x).errors = 0 ∧ (s.slot x).jobs = 0 ∧ (s.slot x).faultMark = false
  status : ∀ x, (s.slot x).status.isSome = true ↔ (s.slot x).state = .retiring

/-- An exchange record that an exchange in a queue may take: it stays of its point, and past QUEUED only as the first. -/
structure Replaces (s : State) (x : SlotId) (e : Slot) : Prop where
  taken : (s.slot x).state ≠ .free
  kept : e.state ≠ .free
  point : e.point = (s.slot x).point
  leads : e.state = .queued ∨ ∃ p, s.first p = some x
  queued : e.state = .queued → e.bytesLine = 0 ∧ e.bytesMemory = 0 ∧ e.errors = 0 ∧ e.jobs = 0 ∧ e.faultMark = false
  status : e.status.isSome = true ↔ e.state = .retiring

theorem first_eq_some {s : State} {p : PointId} {x : SlotId} : s.first p = some x ↔ ∃ rest, s.queue p = x :: rest := by
  rw [State.first, List.head?_eq_some_iff]

namespace SlotsAgree

variable {s t : State} {p q : PointId} {x y : SlotId}

theorem mem_of_first (hx : s.first p = some x) : x ∈ s.queue p := by
  obtain ⟨rest, hq⟩ := first_eq_some.mp hx
  rw [hq]
  exact List.mem_cons_self

theorem point_of_mem (h : SlotsAgree s) (hx : x ∈ s.queue p) : (s.slot x).point = some p := (((h.queues p).2 x).mp hx).2

theorem taken_of_mem (h : SlotsAgree s) (hx : x ∈ s.queue p) : (s.slot x).state ≠ .free := (((h.queues p).2 x).mp hx).1

theorem point_of_first (h : SlotsAgree s) (hx : s.first p = some x) : (s.slot x).point = some p :=
  h.point_of_mem (mem_of_first hx)

theorem taken_of_first (h : SlotsAgree s) (hx : s.first p = some x) : (s.slot x).state ≠ .free :=
  h.taken_of_mem (mem_of_first hx)

/-- An exchange is in one queue. -/
theorem point_eq (h : SlotsAgree s) (hx : x ∈ s.queue p) (hy : x ∈ s.queue q) : p = q :=
  Option.some.inj ((h.point_of_mem hx).symm.trans (h.point_of_mem hy))

theorem first_eq (h : SlotsAgree s) (hx : s.first p = some x) (hy : s.first q = some x) : p = q :=
  h.point_eq (mem_of_first hx) (mem_of_first hy)

/-- An exchange past QUEUED is the first of its point's queue. -/
theorem first_of_state (h : SlotsAgree s) (hp : (s.slot x).point = some p) (hf : (s.slot x).state ≠ .free)
    (hq : (s.slot x).state ≠ .queued) : s.first p = some x := by
  have hx : x ∈ s.queue p := ((h.queues p).2 x).mpr ⟨hf, hp⟩
  cases hl : s.queue p with
  | nil => rw [hl] at hx; cases hx
  | cons y rest =>
    rw [hl] at hx
    rcases List.mem_cons.mp hx with rfl | hx
    · exact first_eq_some.mpr ⟨rest, hl⟩
    · exact absurd (h.behind p y rest hl x hx) hq

/-- Records are replaced and point records change, the lists stay. -/
theorem change (h : SlotsAgree s) (hf : t.sp.freeList = s.sp.freeList) (hq : ∀ p, t.queue p = s.queue p)
    (hs : ∀ y, t.slot y = s.slot y ∨ Replaces s y (t.slot y))
    (hlimit : ∀ p, (s.queue p).length ≤ (t.point p).cfg.queueLimit)
    (hdisabled : ∀ p, (t.point p).state = .disabled → s.queue p = []) : SlotsAgree t where
  freeList := by
    rw [hf]
    refine ⟨h.freeList.1, fun y => (h.freeList.2 y).trans ?_⟩
    rcases hs y with e | r
    · rw [e]
    · exact ⟨fun k => absurd k r.taken, fun k => absurd k r.kept⟩
  freeSlots y hy := by
    rcases hs y with e | r
    · rw [e] at hy ⊢
      exact h.freeSlots y hy
    · exact absurd hy r.kept
  queues p := by
    rw [hq]
    refine ⟨(h.queues p).1, fun y => ((h.queues p).2 y).trans ?_⟩
    rcases hs y with e | r
    · rw [e]
    · exact and_congr ⟨fun _ => r.kept, fun _ => r.taken⟩ (by rw [r.point])
  owned y hy := by
    rcases hs y with e | r
    · rw [e] at hy ⊢
      exact h.owned y hy
    · rw [r.point]
      exact h.owned y r.taken
  limit p := by
    rw [hq]
    exact hlimit p
  disabled p hp := by
    rw [hq]
    exact hdisabled p hp
  behind p x rest hl y hy := by
    rw [hq] at hl
    rcases hs y with e | r
    · rw [e]
      exact h.behind p x rest hl y hy
    · refine r.leads.resolve_right fun ⟨q, k⟩ => ?_
      have hpq : p = q := h.point_eq (x := y) (by rw [hl]; exact List.mem_cons_of_mem _ hy) (mem_of_first k)
      rw [← hpq, State.first, hl] at k
      have hxy : x = y := Option.some.inj k
      have hnd := (h.queues p).1
      rw [hl] at hnd
      exact (List.nodup_cons.mp hnd).1 (hxy ▸ hy)
  queued y hy := by
    rcases hs y with e | r
    · rw [e] at hy ⊢
      exact h.queued y hy
    · exact r.queued hy
  status y := by
    rcases hs y with e | r
    · rw [e]
      exact h.status y
    · exact r.status

/-- A change beside the exchange records, the point states and the queue limits. -/
theorem congr (h : SlotsAgree s) (hsp : t.sp = s.sp)
    (hp : ∀ p, (t.point p).cfg.queueLimit = (s.point p).cfg.queueLimit ∧ (t.point p).state = (s.point p).state) :
    SlotsAgree t := by
  have hslot : ∀ y, t.slot y = s.slot y := fun y => by unfold State.slot; rw [hsp]
  have hqueue : ∀ q, t.queue q = s.queue q := fun q => by unfold State.queue; rw [hsp]
  exact h.change (by rw [hsp]) hqueue (fun y => .inl (hslot y)) (fun q => by rw [(hp q).1]; exact h.limit q)
    fun q hq => h.disabled q (by rwa [(hp q).2] at hq)

theorem setSlot (h : SlotsAgree s) {e : Slot} (r : Replaces s x e) : SlotsAgree (s.setSlot x e) := by
  refine h.change rfl (fun _ => rfl) (fun y => ?_) h.limit h.disabled
  rw [State.slot_setSlot]
  split
  · next hxy => exact .inr (hxy ▸ r)
  · exact .inl rfl

theorem setPoint (h : SlotsAgree s) {v : Point} (hlimit : (s.queue p).length ≤ v.cfg.queueLimit)
    (hdisabled : v.state = .disabled → s.queue p = []) : SlotsAgree (s.setPoint p v) := by
  refine h.change rfl (fun _ => rfl) (fun _ => .inl rfl) (fun q => ?_) fun q => ?_
  · rw [State.point_setPoint]
    split
    · next hpq => exact hpq ▸ hlimit
    · exact h.limit q
  · rw [State.point_setPoint]
    split
    · next hpq => exact hpq ▸ hdisabled
    · exact h.disabled q

end SlotsAgree

/-! ### What freeing a slot and posting an exchange do to the lists (R29, R39) -/

theorem freeSlot_slot (x : SlotId) (p : PointId) (s : State) (y : SlotId) :
    (freeSlot x p s).slot y = if x = y then Slot.free else s.slot y := by
  unfold freeSlot
  exact State.slot_setSlot s x y Slot.free

theorem freeSlot_queue (x : SlotId) (p : PointId) (s : State) (q : PointId) :
    (freeSlot x p s).queue q = if p = q then (s.queue p).erase x else s.queue q := by
  unfold freeSlot
  exact State.queue_setQueue (s.setSlot x Slot.free) p q _

theorem enqueue_slot (p : PointId) (x : SlotId) (rest : List SlotId) (s : State) (y : SlotId) :
    (enqueue p x rest s).slot y = if x = y then postedSlot p s else s.slot y := by
  unfold enqueue
  exact State.slot_setSlot s x y _

theorem enqueue_queue (p : PointId) (x : SlotId) (rest : List SlotId) (s : State) (q : PointId) :
    (enqueue p x rest s).queue q = if p = q then s.queue p ++ [x] else s.queue q := by
  unfold enqueue
  exact State.queue_setQueue (s.setSlot x _) p q _

theorem freeSlot_first_other {p q : PointId} (h : p ≠ q) (x : SlotId) (s : State) : (freeSlot x p s).first q = s.first q := by
  unfold State.first
  rw [freeSlot_queue, if_neg h]

namespace SlotsAgree

variable {s t : State} {p q : PointId} {x y : SlotId}

theorem freeSlot (h : SlotsAgree s) (hx : x ∈ s.queue p) : SlotsAgree (freeSlot x p s) where
  freeList := by
    refine ⟨?_, fun y => ?_⟩
    · refine List.nodup_append.mpr ⟨h.freeList.1, List.nodup_singleton x, fun a ha b hb hab => ?_⟩
      rw [hab, List.mem_singleton.mp hb] at ha
      exact h.taken_of_mem hx ((h.freeList.2 x).mp ha)
    · rw [freeSlot_slot]
      refine List.mem_append.trans ?_
      split
      · next hxy => exact ⟨fun _ => rfl, fun _ => .inr (hxy ▸ List.mem_singleton_self x)⟩
      · next hxy =>
        rw [List.mem_singleton, or_iff_left fun (k : y = x) => hxy k.symm]
        exact h.freeList.2 y
  freeSlots y := by
    rw [freeSlot_slot]
    split
    · exact fun _ => rfl
    · exact h.freeSlots y
  queues q := by
    rw [freeSlot_queue]
    refine ⟨?_, fun y => ?_⟩
    · split
      · exact (h.queues p).1.erase x
      · exact (h.queues q).1
    · rw [freeSlot_slot]
      split
      · next hpq =>
        subst hpq
        rw [(h.queues p).1.mem_erase_iff, (h.queues p).2]
        split
        · next hxy => exact ⟨fun k => absurd hxy.symm k.1, fun k => absurd rfl k.1⟩
        · next hxy => exact ⟨And.right, fun k => ⟨fun k' => hxy k'.symm, k⟩⟩
      · next hpq =>
        rw [(h.queues q).2]
        split
        · next hxy =>
          subst hxy
          refine ⟨fun k => absurd (h.point_eq hx (((h.queues q).2 x).mpr k)) hpq, fun k => absurd rfl k.1⟩
        · exact Iff.rfl
  owned y := by
    rw [freeSlot_slot]
    split
    · exact fun k => absurd rfl k
    · exact h.owned y
  limit q := by
    rw [freeSlot_queue]
    split
    · next hpq => exact (List.length_erase_le).trans (hpq ▸ h.limit p)
    · exact h.limit q
  disabled q hq := by
    rw [freeSlot_queue]
    split
    · next hpq =>
      rw [h.disabled p (by rw [hpq]; exact hq)]
      rfl
    · exact h.disabled q hq
  behind q z rest hl y hy := by
    rw [freeSlot_queue] at hl
    have hsub : ∀ r, q = r → (s.queue r).erase x = z :: rest → (s.slot y).state = .queued := fun r _ k => by
      cases hr : s.queue r with
      | nil => rw [hr] at k; cases k
      | cons a as =>
        refine h.behind r a as hr y ?_
        rw [hr] at k
        by_cases hax : a = x
        · rw [hax, List.erase_cons_head] at k
          rw [k]
          exact List.mem_cons_of_mem _ hy
        · rw [List.erase_cons_tail (by simpa using hax)] at k
          obtain ⟨-, k⟩ := List.cons.inj k
          exact List.mem_of_mem_erase (k ▸ hy)
    have hne : x ≠ y := fun hxy => by
      have hmem : y ∈ (if p = q then (s.queue p).erase x else s.queue q) := by rw [hl]; exact List.mem_cons_of_mem _ hy
      split at hmem
      · rw [hxy] at hmem
        exact (h.queues p).1.not_mem_erase hmem
      · next hpq => exact hpq (h.point_eq hx (hxy ▸ hmem))
    rw [freeSlot_slot, if_neg hne]
    split at hl
    · next hpq => exact hsub p hpq.symm hl
    · exact h.behind q z rest hl y hy
  queued y := by
    rw [freeSlot_slot]
    split
    · nofun
    · exact h.queued y
  status y := by
    rw [freeSlot_slot]
    split
    · exact ⟨nofun, nofun⟩
    · exact h.status y

theorem enqueue (h : SlotsAgree s) {rest : List SlotId} (hf : s.sp.freeList = x :: rest)
    (hlimit : (s.queue p).length < (s.point p).cfg.queueLimit) (hp : (s.point p).state ≠ .disabled) :
    SlotsAgree (enqueue p x rest s) := by
  have hfree : (s.slot x).state = .free := (h.freeList.2 x).mp (by rw [hf]; exact List.mem_cons_self)
  have hnd := h.freeList.1
  rw [hf] at hnd
  obtain ⟨hxr, hrest⟩ := List.nodup_cons.mp hnd
  have hout : ∀ q, x ∉ s.queue q := fun q hx => h.taken_of_mem hx hfree
  exact {
    freeList := by
      refine ⟨hrest, fun y => ?_⟩
      rw [enqueue_slot]
      split
      · next hxy => exact ⟨fun k => absurd (hxy ▸ k) hxr, nofun⟩
      · next hxy =>
        rw [← h.freeList.2, hf, List.mem_cons, or_iff_right fun (k : y = x) => hxy k.symm]
        rfl
    freeSlots := fun y => by
      rw [enqueue_slot]
      split
      · nofun
      · exact h.freeSlots y
    queues := fun q => by
      rw [enqueue_queue]
      refine ⟨?_, fun y => ?_⟩
      · split
        · refine List.nodup_append.mpr ⟨(h.queues p).1, List.nodup_singleton x, fun a ha b hb hab => ?_⟩
          rw [hab, List.mem_singleton.mp hb] at ha
          exact hout p ha
        · exact (h.queues q).1
      · rw [enqueue_slot]
        split
        · next hpq =>
          subst hpq
          rw [List.mem_append, List.mem_singleton]
          split
          · next hxy => exact ⟨fun _ => ⟨nofun, rfl⟩, fun _ => .inr hxy.symm⟩
          · next hxy => rw [(h.queues p).2, or_iff_left fun (k : y = x) => hxy k.symm]
        · next hpq =>
          split
          · next hxy => exact ⟨fun k => absurd (hxy ▸ k) (hout q), fun k => absurd (Option.some.inj k.2) hpq⟩
          · exact (h.queues q).2 y
    owned := fun y => by
      rw [enqueue_slot]
      split
      · exact fun _ => rfl
      · exact h.owned y
    limit := fun q => by
      rw [enqueue_queue]
      split
      · next hpq =>
        rw [List.length_append]
        exact hpq ▸ hlimit
      · exact h.limit q
    disabled := fun q hq => by
      rw [enqueue_queue]
      split
      · next hpq => exact absurd (by rw [hpq]; exact hq) hp
      · exact h.disabled q hq
    behind := fun q z behind hl y hy => by
      rw [enqueue_queue] at hl
      rw [enqueue_slot]
      split
      · rfl
      · next hxy =>
        split at hl
        · cases hq : s.queue p with
          | nil =>
            rw [hq] at hl
            obtain ⟨-, hl⟩ := List.cons.inj hl
            rw [← hl] at hy
            cases hy
          | cons a as =>
            refine h.behind p a as hq y ?_
            rw [hq] at hl
            obtain ⟨-, hl⟩ := List.cons.inj hl
            rw [← hl] at hy
            exact (List.mem_append.mp hy).resolve_right fun k => hxy (List.mem_singleton.mp k).symm
        · exact h.behind q z behind hl y hy
    queued := fun y => by
      rw [enqueue_slot]
      split
      · exact fun _ => ⟨rfl, rfl, rfl, rfl, rfl⟩
      · exact h.queued y
    status := fun y => by
      rw [enqueue_slot]
      split
      · exact ⟨nofun, nofun⟩
      · exact h.status y }

/-- The free list and the queues hold every slot once (R29). -/
theorem total (h : SlotsAgree s) :
    s.sp.freeList.length + ((List.finRange 64).map fun p => (s.queue p).length).sum = 256 := by
  have hmem : ∀ x, x ∈ s.sp.freeList ++ (List.finRange 64).flatMap s.queue := fun x => by
    rw [List.mem_append, List.mem_flatMap]
    by_cases hx : (s.slot x).state = .free
    · exact .inl ((h.freeList.2 x).mpr hx)
    · obtain ⟨p, hp⟩ := Option.isSome_iff_exists.mp (h.owned x hx)
      exact .inr ⟨p, List.mem_finRange p, ((h.queues p).2 x).mpr ⟨hx, hp⟩⟩
  have hnd : (s.sp.freeList ++ (List.finRange 64).flatMap s.queue).Nodup := by
    refine List.nodup_append.mpr ⟨h.freeList.1, List.nodup_flatMap.mpr ⟨fun p _ => (h.queues p).1, ?_⟩, ?_⟩
    · exact (List.nodup_finRange 64).imp fun hpq x hp hq => hpq (h.point_eq hp hq)
    · intro x hx y hy hxy
      obtain ⟨p, -, hp⟩ := List.mem_flatMap.mp hy
      exact h.taken_of_mem (hxy ▸ hp) ((h.freeList.2 x).mp hx)
  have hperm : (s.sp.freeList ++ (List.finRange 64).flatMap s.queue).Perm (List.finRange 256) :=
    (List.perm_ext_iff_of_nodup hnd (List.nodup_finRange 256)).mpr fun x => iff_of_true (hmem x) (List.mem_finRange x)
  rw [← List.length_flatMap, ← List.length_append, hperm.length_eq, List.length_finRange]

end SlotsAgree

end Sys2Proof.Machine
end

section
namespace Sys2Proof.Machine
set_option Elab.async false

/-! ### The buffers, the transaction and the mover's jobs -/

/-- The jobs outstanding of an exchange as its buffers show them (R36). -/
def buffersOf (s : State) (x : SlotId) : Nat := (List.finRange 8).countP fun b => decide ((s.buffer b).slot = some x)

/-- The staging count as the buffers show it (R131). -/
def buffersStaging (s : State) : Nat :=
  (List.finRange 8).countP fun b => decide ((s.buffer b).state = .staging ∨ (s.buffer b).state = .staged)

/-- The buffer is that of an exchange of a point, the first of its queue, in the direction its state says. -/
def OwnedBy (s : State) (b : BufId) (p : PointId) (x : SlotId) : Prop :=
  (s.buffer b).point = some p ∧ (s.buffer b).slot = some x ∧ s.first p = some x ∧
    ((s.slot x).state = .active ∨ (s.slot x).state = .retiring) ∧
    ((s.point p).cfg.direction = .store ↔ (s.buffer b).state = .staging ∨ (s.buffer b).state = .staged)

/-- The buffers agree with the exchanges they belong to, with the transaction and with the mover's jobs. The buffers of
`loose` have left their transaction or their job and are about to change: they are in neither. -/
structure BuffersAgree (loose : List BufId) (s : State) : Prop where
  jobs : ∀ x, (s.slot x).jobs = buffersOf s x
  empty : FreeBuffersEmpty s
  owner : ∀ b, (s.buffer b).state ≠ .free → ∃ p x, OwnedBy s b p x
  staged : ∀ p b, (s.point p).staged = some b ↔
    (s.buffer b).point = some p ∧ ((s.buffer b).state = .staging ∨ (s.buffer b).state = .staged)
  stagedActive : ∀ b x, (s.buffer b).state = .staged → (s.buffer b).slot = some x → (s.slot x).state = .active
  six : buffersStaging s ≤ 6
  receiving : ∀ b, (s.buffer b).state = .receiving ∧ b ∉ loose ↔ ∃ t, s.le.txn = some t ∧ t.direction = .fetch ∧ t.buffer = b
  txn : ∀ t, s.le.txn = some t → s.first t.point = some t.slot ∧ (s.slot t.slot).state = .active ∧
    t.direction = (s.point t.point).cfg.direction ∧ (s.buffer t.buffer).point = some t.point ∧
    (t.direction = .store → (s.buffer t.buffer).state = .staged)
  stageJobs : s.pm.stageQueue.Nodup ∧ ∀ b, (s.buffer b).state = .staging ∧ b ∉ loose ↔
    b ∈ s.pm.stageQueue ∨ ∃ j, s.pm.job = some j ∧ j.kind = .stage ∧ j.buffer = b
  drainJobs : s.pm.drainQueue.Nodup ∧ ∀ b, (s.buffer b).state = .draining ∧ b ∉ loose ↔
    b ∈ s.pm.drainQueue ∨ ∃ j, s.pm.job = some j ∧ j.kind = .drain ∧ j.buffer = b
  job : ∀ j, s.pm.job = some j → (s.buffer j.buffer).slot = some j.slot ∧ j.buffer ∉ s.pm.stageQueue ∧
    j.buffer ∉ s.pm.drainQueue

/-- Two buffer records that differ in their bytes at most. -/
structure SameBuffer (r r' : Buffer) : Prop where
  state : r.state = r'.state
  point : r.point = r'.point
  slot : r.slot = r'.slot
  addr : r.addr = r'.addr
  count : r.count = r'.count

theorem SameBuffer.refl (r : Buffer) : SameBuffer r r := ⟨rfl, rfl, rfl, rfl, rfl⟩

/-- Two counts that differ in one element. -/
theorem countP_off {α : Type} {l : List α} (hn : l.Nodup) {P Q : α → Bool} {b : α} (hb : b ∈ l)
    (h : ∀ c, c ≠ b → P c = Q c) : l.countP P + (Q b).toNat = l.countP Q + (P b).toNat := by
  induction l with
  | nil => cases hb
  | cons a l ih =>
    obtain ⟨ha, hl⟩ := List.nodup_cons.mp hn
    rw [List.countP_cons, List.countP_cons]
    rcases List.mem_cons.mp hb with rfl | hb
    · rw [List.countP_congr (p := P) (q := Q) fun c hc => by rw [h c fun (hcb : c = b) => ha (hcb ▸ hc)]]
      cases P b <;> cases Q b <;> rfl
    · rw [h a fun (hab : a = b) => ha (hab ▸ hb)]
      have := ih hl hb
      omega

theorem buffersOf_off {s t : State} {b : BufId} (h : ∀ c, c ≠ b → t.buffer c = s.buffer c) (x : SlotId) :
    buffersOf t x + (decide ((s.buffer b).slot = some x)).toNat =
      buffersOf s x + (decide ((t.buffer b).slot = some x)).toNat :=
  countP_off (P := fun c => decide ((t.buffer c).slot = some x)) (Q := fun c => decide ((s.buffer c).slot = some x))
    (List.nodup_finRange 8) (List.mem_finRange b) fun c hc => by rw [h c hc]

theorem buffersStaging_off {s t : State} {b : BufId} (h : ∀ c, c ≠ b → t.buffer c = s.buffer c) :
    buffersStaging t + (decide ((s.buffer b).state = .staging ∨ (s.buffer b).state = .staged)).toNat =
      buffersStaging s + (decide ((t.buffer b).state = .staging ∨ (t.buffer b).state = .staged)).toNat :=
  countP_off (P := fun c => decide ((t.buffer c).state = .staging ∨ (t.buffer c).state = .staged))
    (Q := fun c => decide ((s.buffer c).state = .staging ∨ (s.buffer c).state = .staged))
    (List.nodup_finRange 8) (List.mem_finRange b) fun c hc => by rw [h c hc]

theorem buffersOf_congr {s t : State} (h : ∀ b, (t.buffer b).slot = (s.buffer b).slot) (x : SlotId) :
    buffersOf t x = buffersOf s x := by
  unfold buffersOf
  simp only [h]

theorem buffersStaging_congr {s t : State} (h : ∀ b, (t.buffer b).state = (s.buffer b).state) :
    buffersStaging t = buffersStaging s := by
  unfold buffersStaging
  simp only [h]

theorem buffersOf_eq_zero {s : State} {x : SlotId} : buffersOf s x = 0 ↔ ∀ b, (s.buffer b).slot ≠ some x := by
  unfold buffersOf
  rw [List.countP_eq_zero]
  exact ⟨fun h b hb => h b (List.mem_finRange b) (decide_eq_true hb), fun h b _ hb => h b (of_decide_eq_true hb)⟩

namespace BuffersAgree

variable {loose : List BufId} {s t : State} {b : BufId} {p : PointId} {x : SlotId}

theorem not_free_of_slot (h : BuffersAgree loose s) (hx : (s.buffer b).slot = some x) : (s.buffer b).state ≠ .free :=
  fun hf => by
    rw [(h.empty b hf).2.1] at hx
    cases hx

theorem not_free_of_point (h : BuffersAgree loose s) (hp : (s.buffer b).point = some p) : (s.buffer b).state ≠ .free :=
  fun hf => by
    rw [(h.empty b hf).1] at hp
    cases hp

/-- A buffer of an exchange is of the point whose queue it leads. -/
theorem owner_of_slot (h : BuffersAgree loose s) (hx : (s.buffer b).slot = some x) : ∃ p, OwnedBy s b p x := by
  obtain ⟨p, y, ho⟩ := h.owner b (h.not_free_of_slot hx)
  obtain rfl : y = x := Option.some.inj (ho.2.1.symm.trans hx)
  exact ⟨p, ho⟩

theorem owner_of_point (h : BuffersAgree loose s) (hp : (s.buffer b).point = some p) : ∃ x, OwnedBy s b p x := by
  obtain ⟨q, x, ho⟩ := h.owner b (h.not_free_of_point hp)
  obtain rfl : q = p := Option.some.inj (ho.1.symm.trans hp)
  exact ⟨x, ho⟩

theorem jobs_eq_zero (h : BuffersAgree loose s) : (s.slot x).jobs = 0 ↔ ∀ b, (s.buffer b).slot ≠ some x := by
  rw [h.jobs, buffersOf_eq_zero]

/-- The buffer of the transaction in flight is of its point and of its exchange. -/
theorem owner_of_txn (h : BuffersAgree loose s) {u : Txn} (hu : s.le.txn = some u) : OwnedBy s u.buffer u.point u.slot := by
  obtain ⟨hf, -, -, hp, -⟩ := h.txn u hu
  obtain ⟨x, ho⟩ := h.owner_of_point hp
  obtain rfl : x = u.slot := Option.some.inj (ho.2.2.1.symm.trans hf)
  exact ho

/-- A point with nothing queued has no staged buffer. -/
theorem staged_none (h : BuffersAgree loose s) (hf : s.first p = none) : (s.point p).staged = none := by
  cases hs : (s.point p).staged with
  | none => rfl
  | some b =>
    obtain ⟨x, ho⟩ := h.owner_of_point ((h.staged p b).mp hs).1
    exact absurd (hf.symm.trans ho.2.2.1) nofun

/-- The buffers stay as they are but for their bytes, and what is said of their owners and of the transaction stays true. -/
theorem change (h : BuffersAgree loose s) (hb : ∀ b, SameBuffer (t.buffer b) (s.buffer b))
    (hjobs : ∀ x, (t.slot x).jobs = (s.slot x).jobs) (hstaged : ∀ p, (t.point p).staged = (s.point p).staged)
    (hdir : ∀ p, s.first p ≠ none → (t.point p).cfg.direction = (s.point p).cfg.direction)
    (hfirst : ∀ b p x, OwnedBy s b p x → t.first p = some x ∧
      ((t.slot x).state = (s.slot x).state ∨ (t.slot x).state = .retiring ∧ (s.buffer b).state ≠ .staged ∧
        (s.le.txn = none ∨ inFlight s x = false)))
    (htxn : t.le.txn = s.le.txn) (hpm : t.pm = s.pm) : BuffersAgree loose t := by
  have hown : ∀ b p x, OwnedBy s b p x → OwnedBy t b p x := fun b p x ho => by
    obtain ⟨hf, hst⟩ := hfirst b p x ho
    obtain ⟨hp, hx, hl, ha, hd⟩ := ho
    refine ⟨(hb b).point.trans hp, (hb b).slot.trans hx, hf, ?_, ?_⟩
    · rcases hst with hst | ⟨hst, -⟩
      · rwa [hst]
      · exact .inr hst
    · rw [hdir p (by rw [hl]; nofun), (hb b).state]
      exact hd
  have hact : ∀ b p x, OwnedBy s b p x → (s.buffer b).state = .staged ∨ (∃ u, s.le.txn = some u ∧ u.slot = x) →
      (t.slot x).state = (s.slot x).state := fun b p x ho hc => by
    rcases (hfirst b p x ho).2 with hst | ⟨-, hns, hnt⟩
    · exact hst
    · rcases hc with hc | ⟨u, hu, rfl⟩
      · exact absurd hc hns
      · rcases hnt with hnt | hnt
        · rw [hnt] at hu
          cases hu
        · rw [inFlight, hu] at hnt
          exact absurd rfl (of_decide_eq_false hnt)
  exact {
    jobs := fun x => by rw [hjobs, h.jobs, buffersOf_congr fun b => (hb b).slot]
    empty := fun b hf => by
      rw [(hb b).point, (hb b).slot, (hb b).addr, (hb b).count]
      exact h.empty b ((hb b).state.symm.trans hf)
    owner := fun b hf => by
      rw [(hb b).state] at hf
      obtain ⟨p, x, ho⟩ := h.owner b hf
      exact ⟨p, x, hown b p x ho⟩
    staged := fun p b => by
      rw [hstaged, (hb b).point, (hb b).state]
      exact h.staged p b
    stagedActive := fun b x hs hx => by
      rw [(hb b).state] at hs
      rw [(hb b).slot] at hx
      obtain ⟨p, ho⟩ := h.owner_of_slot hx
      rw [hact b p x ho (.inl hs)]
      exact h.stagedActive b x hs hx
    six := by
      rw [buffersStaging_congr fun b => (hb b).state]
      exact h.six
    receiving := fun b => by
      rw [(hb b).state, htxn]
      exact h.receiving b
    txn := fun u hu => by
      rw [htxn] at hu
      obtain ⟨hf, ha, hd, hp, hs⟩ := h.txn u hu
      have ho := h.owner_of_txn hu
      refine ⟨(hfirst _ _ _ ho).1, ?_, ?_, (hb _).point.trans hp, fun k => (hb _).state.trans (hs k)⟩
      · rw [hact _ _ _ ho (.inr ⟨u, hu, rfl⟩)]
        exact ha
      · rw [hdir u.point (by rw [hf]; nofun)]
        exact hd
    stageJobs := by
      rw [hpm]
      exact ⟨h.stageJobs.1, fun b => by rw [(hb b).state]; exact h.stageJobs.2 b⟩
    drainJobs := by
      rw [hpm]
      exact ⟨h.drainJobs.1, fun b => by rw [(hb b).state]; exact h.drainJobs.2 b⟩
    job := fun j hj => by
      rw [hpm] at hj ⊢
      rw [(hb _).slot]
      exact h.job j hj }

end BuffersAgree

end Sys2Proof.Machine
end

section
namespace Sys2Proof.Machine
set_option Elab.async false

namespace BuffersAgree

variable {loose loose' : List BufId} {s t : State} {b : BufId} {p : PointId} {x : SlotId}

/-- One buffer changes, its exchange and its point with it. -/
theorem changeAt (h : BuffersAgree loose s) (b : BufId) (hoff : ∀ c, c ≠ b → t.buffer c = s.buffer c)
    (hjobs : ∀ y, (t.slot y).jobs + (decide ((s.buffer b).slot = some y)).toNat =
      (s.slot y).jobs + (decide ((t.buffer b).slot = some y)).toNat)
    (hempty : (t.buffer b).state = .free →
      (t.buffer b).point = none ∧ (t.buffer b).slot = none ∧ (t.buffer b).addr = none ∧ (t.buffer b).count = 0)
    (hfirst : ∀ q, t.first q = s.first q)
    (hstate : ∀ y, (t.slot y).state = (s.slot y).state ∨ (t.slot y).state = .active)
    (hdir : ∀ q, (t.point q).cfg.direction = (s.point q).cfg.direction)
    (howner : (t.buffer b).state ≠ .free → ∃ p x, OwnedBy t b p x)
    (hstaged : ∀ q c, c ≠ b → ((t.point q).staged = some c ↔ (s.point q).staged = some c))
    (hstagedb : ∀ q, (t.point q).staged = some b ↔
      (t.buffer b).point = some q ∧ ((t.buffer b).state = .staging ∨ (t.buffer b).state = .staged))
    (hactive : ∀ y, (t.buffer b).state = .staged → (t.buffer b).slot = some y → (t.slot y).state = .active)
    (hsix : (t.buffer b).state = .staging ∨ (t.buffer b).state = .staged →
      ((s.buffer b).state = .staging ∨ (s.buffer b).state = .staged) ∨ buffersStaging s < 6)
    (hreceiving : ∀ b, (t.buffer b).state = .receiving ∧ b ∉ loose' ↔
      ∃ u, t.le.txn = some u ∧ u.direction = .fetch ∧ u.buffer = b)
    (htxn : ∀ u, t.le.txn = some u → s.first u.point = some u.slot ∧ (t.slot u.slot).state = .active ∧
      u.direction = (s.point u.point).cfg.direction ∧ (t.buffer u.buffer).point = some u.point ∧
      (u.direction = .store → (t.buffer u.buffer).state = .staged))
    (hstage : t.pm.stageQueue.Nodup ∧ ∀ b, (t.buffer b).state = .staging ∧ b ∉ loose' ↔
      b ∈ t.pm.stageQueue ∨ ∃ j, t.pm.job = some j ∧ j.kind = .stage ∧ j.buffer = b)
    (hdrain : t.pm.drainQueue.Nodup ∧ ∀ b, (t.buffer b).state = .draining ∧ b ∉ loose' ↔
      b ∈ t.pm.drainQueue ∨ ∃ j, t.pm.job = some j ∧ j.kind = .drain ∧ j.buffer = b)
    (hjob : ∀ j, t.pm.job = some j → (t.buffer j.buffer).slot = some j.slot ∧ j.buffer ∉ t.pm.stageQueue ∧
      j.buffer ∉ t.pm.drainQueue) : BuffersAgree loose' t where
  jobs y := by
    have hj := hjobs y
    have ho := buffersOf_off hoff y
    rw [h.jobs y] at hj
    omega
  empty c hc := by
    by_cases hcb : c = b
    · exact hcb ▸ hempty (hcb ▸ hc)
    · rw [hoff c hcb] at hc ⊢
      exact h.empty c hc
  owner c hc := by
    by_cases hcb : c = b
    · exact hcb ▸ howner (hcb ▸ hc)
    · rw [hoff c hcb] at hc
      obtain ⟨q, y, hq, hy, hf, ha, hd⟩ := h.owner c hc
      refine ⟨q, y, ?_, ?_, (hfirst q).trans hf, ?_, ?_⟩
      · rwa [hoff c hcb]
      · rwa [hoff c hcb]
      · rcases hstate y with e | e
        · rwa [e]
        · exact .inl e
      · rwa [hoff c hcb, hdir]
  staged q c := by
    by_cases hcb : c = b
    · exact hcb ▸ hstagedb q
    · rw [hstaged q c hcb, hoff c hcb]
      exact h.staged q c
  stagedActive c y hc hy := by
    by_cases hcb : c = b
    · exact hactive y (hcb ▸ hc) (hcb ▸ hy)
    · rw [hoff c hcb] at hc hy
      rcases hstate y with e | e
      · rw [e]
        exact h.stagedActive c y hc hy
      · exact e
  six := by
    have ho := buffersStaging_off hoff
    have h6 := h.six
    by_cases ht : (t.buffer b).state = .staging ∨ (t.buffer b).state = .staged
    · rcases hsix ht with hs | hs
      · rw [decide_eq_true ht, decide_eq_true hs] at ho
        omega
      · rw [decide_eq_true ht, Bool.toNat_true] at ho
        omega
    · rw [decide_eq_false ht, Bool.toNat_false] at ho
      omega
  receiving := hreceiving
  txn u hu := by
    obtain ⟨hf, ha, hd, hp, hs⟩ := htxn u hu
    exact ⟨(hfirst _).trans hf, ha, hd.trans (hdir _).symm, hp, hs⟩
  stageJobs := hstage
  drainJobs := hdrain
  job := hjob

/-- A buffer in none of the job lists and of no transaction. -/
theorem free (h : BuffersAgree loose s) (hb : b ∈ loose ∨ (s.buffer b).state = .staged)
    (ht : ∀ u, s.le.txn = some u → u.buffer ≠ b) (ho : OwnedBy s b p x)
    (hl : ∀ c, c ∈ loose' ↔ c ∈ loose ∧ c ≠ b) : BuffersAgree loose' (freeBuffer b s) := by
  obtain ⟨hp, hx, hf, ha, hd⟩ := ho
  rw [freeBuffer_eq hp hx]
  have hbuf := bufferFreed_buffer s b x p
  have hbb : (bufferFreed s b x p).buffer b =
      { state := .free, point := none, slot := none, count := 0, addr := none, data := (s.buffer b).data } := by
    rw [hbuf, if_pos rfl]
  have hoff : ∀ c, c ≠ b → (bufferFreed s b x p).buffer c = s.buffer c := fun c hc => by
    rw [hbuf, if_neg (Ne.symm hc)]
  have hstate : ∀ y, ((bufferFreed s b x p).slot y).state = (s.slot y).state := fun y => by
    rw [bufferFreed_slot]
    split
    · next hxy => rw [← hxy]
    · rfl
  have hkept : ∀ c, c ∉ loose' ↔ c ∉ loose ∨ c = b := fun c => by rw [hl, not_and_or, not_not]
  have hlists : ∀ g (P : BufId → Prop), g ≠ .free → (∀ c, (s.buffer c).state = g ∧ c ∉ loose ↔ P c) → g ≠ .staged →
      ∀ c, ((bufferFreed s b x p).buffer c).state = g ∧ c ∉ loose' ↔ P c := fun g P hg hP hgs c => by
    by_cases hcb : c = b
    · rw [hcb, hbb, ← hP]
      refine ⟨fun k => absurd k.1.symm hg, fun k => ?_⟩
      rcases hb with hb | hb
      · exact absurd hb k.2
      · exact absurd (k.1.symm.trans hb) hgs
    · rw [hoff c hcb, hkept, or_iff_left hcb]
      exact hP c
  refine h.changeAt (loose' := loose') b hoff (fun y => ?_) (fun _ => ?_) (fun _ => rfl) (fun y => .inl (hstate y))
    (fun q => ?_) (fun k => ?_) (fun q c hc => ?_) (fun q => ?_) (fun y k => ?_) (fun k => ?_)
    ?_ (fun u hu => ?_) ⟨h.stageJobs.1, ?_⟩ ⟨h.drainJobs.1, ?_⟩ fun j hj => ?_
  · have hpos : 1 ≤ (s.slot x).jobs := Nat.one_le_iff_ne_zero.mpr fun k => h.jobs_eq_zero.mp k b hx
    rw [bufferFreed_slot, hbb, hx]
    split
    · next hxy =>
      rw [← hxy, decide_eq_true rfl, decide_eq_false nofun]
      exact Nat.sub_add_cancel hpos
    · next hxy => rw [decide_eq_false fun k => hxy (Option.some.inj k), decide_eq_false nofun]
  · rw [hbb]
    exact ⟨rfl, rfl, rfl, rfl⟩
  · rw [bufferFreed_point]
    split
    · next hpq => rw [← hpq]
    · rfl
  · rw [hbb] at k
    exact absurd rfl k
  · rw [bufferFreed_point]
    split
    · next hpq =>
      rw [← hpq]
      dsimp only
      split
      · next hs => exact ⟨nofun, fun k => absurd (Option.some.inj (k.symm.trans hs)) hc⟩
      · exact Iff.rfl
    · exact Iff.rfl
  · rw [hbb, bufferFreed_point]
    refine ⟨fun k => ?_, nofun⟩
    split at k
    · dsimp only at k
      split at k
      · cases k
      · next hs => exact absurd k hs
    · next hpq => exact absurd (Option.some.inj (hp.symm.trans ((h.staged q b).mp k).1)) hpq
  · rw [hbb] at k
    cases k
  · rw [hbb] at k
    rcases k with k | k <;> cases k
  · exact hlists .receiving _ nofun h.receiving nofun
  · obtain ⟨hfu, hau, hdu, hpu, hsu⟩ := h.txn u hu
    rw [hstate, hoff _ (ht u hu)]
    exact ⟨hfu, hau, hdu, hpu, hsu⟩
  · exact hlists .staging _ nofun h.stageJobs.2 nofun
  · exact hlists .draining _ nofun h.drainJobs.2 nofun
  · obtain ⟨hjs, hjq⟩ := h.job j hj
    have hjb : j.buffer ≠ b := fun hjb => by
      rcases hb with hb | hb
      · cases hk : j.kind with
        | stage => exact ((h.stageJobs.2 b).mpr (.inr ⟨j, hj, hk, hjb⟩)).2 hb
        | drain => exact ((h.drainJobs.2 b).mpr (.inr ⟨j, hj, hk, hjb⟩)).2 hb
      · cases hk : j.kind with
        | stage => exact absurd (hb.symm.trans ((h.stageJobs.2 b).mpr (.inr ⟨j, hj, hk, hjb⟩)).1) nofun
        | drain => exact absurd (hb.symm.trans ((h.drainJobs.2 b).mpr (.inr ⟨j, hj, hk, hjb⟩)).1) nofun
    rw [hoff _ hjb]
    exact ⟨hjs, hjq⟩

end BuffersAgree

end Sys2Proof.Machine
end

section
namespace Sys2Proof.Machine
set_option Elab.async false

/-- A grant leaves the line engine, the held list and the free list alone. -/
theorem grant_frame (p : PointId) (b : BufId) (x : SlotId) (s : State) : (grant p b x s).le = s.le ∧
    (grant p b x s).cu = s.cu ∧ (grant p b x s).sp.freeList = s.sp.freeList := by
  rw [grant_blocks]
  exact ⟨rfl, rfl, rfl⟩

namespace BuffersAgree

variable {loose loose' : List BufId} {s t : State} {b : BufId} {p : PointId} {x : SlotId}

/-- A buffer about to change is in no job list and of no FETCH transaction. -/
theorem unlisted (h : BuffersAgree loose s) (hb : b ∈ loose ∨ (s.buffer b).state = .free ∨ (s.buffer b).state = .staged) :
    (¬ ∃ u, s.le.txn = some u ∧ u.direction = .fetch ∧ u.buffer = b) ∧ b ∉ s.pm.stageQueue ∧ b ∉ s.pm.drainQueue ∧
      ∀ j, s.pm.job = some j → j.buffer ≠ b := by
  have key : ∀ {g : BufState}, (s.buffer b).state = g ∧ b ∉ loose → g ≠ .free → g ≠ .staged → False := fun k h1 h2 => by
    rcases hb with hb | hb | hb
    · exact k.2 hb
    · exact h1 (k.1.symm.trans hb)
    · exact h2 (k.1.symm.trans hb)
  refine ⟨fun k => key ((h.receiving b).mpr k) nofun nofun, fun k => key ((h.stageJobs.2 b).mpr (.inl k)) nofun nofun,
    fun k => key ((h.drainJobs.2 b).mpr (.inl k)) nofun nofun, fun j hj hjb => ?_⟩
  cases hk : j.kind with
  | stage => exact key ((h.stageJobs.2 b).mpr (.inr ⟨j, hj, hk, hjb⟩)) nofun nofun
  | drain => exact key ((h.drainJobs.2 b).mpr (.inr ⟨j, hj, hk, hjb⟩)) nofun nofun

/-- The transaction and the jobs change, the records stay. -/
theorem relist (h : BuffersAgree loose s) (hpt : t.pt = s.pt) (hsp : t.sp = s.sp) (hbp : t.bp.buffers = s.bp.buffers)
    (hreceiving : ∀ b, (s.buffer b).state = .receiving ∧ b ∉ loose' ↔
      ∃ u, t.le.txn = some u ∧ u.direction = .fetch ∧ u.buffer = b)
    (htxn : ∀ u, t.le.txn = some u → s.first u.point = some u.slot ∧ (s.slot u.slot).state = .active ∧
      u.direction = (s.point u.point).cfg.direction ∧ (s.buffer u.buffer).point = some u.point ∧
      (u.direction = .store → (s.buffer u.buffer).state = .staged))
    (hstage : t.pm.stageQueue.Nodup ∧ ∀ b, (s.buffer b).state = .staging ∧ b ∉ loose' ↔
      b ∈ t.pm.stageQueue ∨ ∃ j, t.pm.job = some j ∧ j.kind = .stage ∧ j.buffer = b)
    (hdrain : t.pm.drainQueue.Nodup ∧ ∀ b, (s.buffer b).state = .draining ∧ b ∉ loose' ↔
      b ∈ t.pm.drainQueue ∨ ∃ j, t.pm.job = some j ∧ j.kind = .drain ∧ j.buffer = b)
    (hjob : ∀ j, t.pm.job = some j → (s.buffer j.buffer).slot = some j.slot ∧ j.buffer ∉ t.pm.stageQueue ∧
      j.buffer ∉ t.pm.drainQueue) : BuffersAgree loose' t := by
  have hpoint : t.point = s.point := funext fun q => by unfold State.point; rw [hpt]
  have hslot : t.slot = s.slot := funext fun y => by unfold State.slot; rw [hsp]
  have hfirst : t.first = s.first := funext fun q => by unfold State.first State.queue; rw [hsp]
  have hbuffer : t.buffer = s.buffer := funext fun c => by unfold State.buffer; rw [hbp]
  exact {
    jobs := fun y => by
      rw [hslot, h.jobs, ← buffersOf_congr fun c => congrArg Buffer.slot (congrFun hbuffer c)]
    empty := by
      unfold FreeBuffersEmpty
      rw [hbuffer]
      exact h.empty
    owner := by
      unfold OwnedBy
      rw [hbuffer, hfirst, hslot, hpoint]
      exact h.owner
    staged := by
      rw [hbuffer, hpoint]
      exact h.staged
    stagedActive := by
      rw [hbuffer, hslot]
      exact h.stagedActive
    six := by
      rw [buffersStaging_congr fun c => congrArg Buffer.state (congrFun hbuffer c)]
      exact h.six
    receiving := by
      rw [hbuffer]
      exact hreceiving
    txn := by
      rw [hbuffer, hfirst, hslot, hpoint]
      exact htxn
    stageJobs := by
      rw [hbuffer]
      exact hstage
    drainJobs := by
      rw [hbuffer]
      exact hdrain
    job := by
      rw [hbuffer]
      exact hjob }

/-- The state of one buffer changes, with the bytes it counts, and its owner stays. -/
theorem setState (h : BuffersAgree loose s) {r : Buffer} (hb : b ∈ loose) (ho : OwnedBy s b p x)
    (hp : r.point = (s.buffer b).point) (hx : r.slot = (s.buffer b).slot) (hf : r.state ≠ .free)
    (hg : (r.state = .staging ∨ r.state = .staged) ↔ ((s.buffer b).state = .staging ∨ (s.buffer b).state = .staged))
    (ha : r.state = .staged → (s.slot x).state = .active) (hu : ∀ u, s.le.txn = some u → u.buffer ≠ b)
    (hl : ∀ c, c ∈ loose' ↔ c ∈ loose ∧ c ≠ b) (hpt : t.pt = s.pt) (hsp : t.sp = s.sp)
    (hbp : t.bp.buffers = (s.setBuffer b r).bp.buffers) (hle : t.le = s.le) (hjob : t.pm.job = s.pm.job)
    (hr : r.state ≠ .receiving)
    (hstage : t.pm.stageQueue = s.pm.stageQueue ∧ r.state ≠ .staging)
    (hdrain : t.pm.drainQueue = if r.state = .draining then s.pm.drainQueue ++ [b] else s.pm.drainQueue) :
    BuffersAgree loose' t := by
  obtain ⟨hfetch, hnstage, hndrain, hnjob⟩ := h.unlisted (.inl hb)
  have hpoint : t.point = s.point := funext fun q => by unfold State.point; rw [hpt]
  have hslot : t.slot = s.slot := funext fun y => by unfold State.slot; rw [hsp]
  have hfirst : t.first = s.first := funext fun q => by unfold State.first State.queue; rw [hsp]
  have hbuffer : ∀ c, t.buffer c = if b = c then r else s.buffer c := fun c => by
    rw [← State.buffer_setBuffer]
    unfold State.buffer
    rw [hbp]
  have hbb : t.buffer b = r := by rw [hbuffer, if_pos rfl]
  have hoff : ∀ c, c ≠ b → t.buffer c = s.buffer c := fun c hc => by rw [hbuffer, if_neg (Ne.symm hc)]
  have hkept : ∀ c, c ≠ b → (c ∉ loose' ↔ c ∉ loose) := fun c hc => by rw [hl, and_iff_left hc]
  obtain ⟨hop, hox, hof, hoa, hod⟩ := ho
  refine h.changeAt b hoff (fun y => ?_) (fun k => ?_) (fun q => by rw [hfirst]) (fun y => .inl (by rw [hslot]))
    (fun q => by rw [hpoint]) (fun _ => ⟨p, x, ?_⟩) (fun q c _ => by rw [hpoint]) (fun q => ?_) (fun y k ky => ?_)
    (fun k => ?_) (fun c => ?_) (fun u k => ?_) ⟨?_, fun c => ?_⟩ ⟨?_, fun c => ?_⟩ fun j hj => ?_
  · rw [hslot, hbb, hx]
  · rw [hbb] at k
    exact absurd k hf
  · unfold OwnedBy
    rw [hbb, hfirst, hslot, hpoint]
    exact ⟨hp.trans hop, hx.trans hox, hof, hoa, hod.trans hg.symm⟩
  · rw [hpoint, hbb, h.staged, hp, hg]
  · rw [hbb] at k ky
    rw [hslot, ← Option.some.inj (hox.symm.trans (hx.symm.trans ky))]
    exact ha k
  · rw [hbb] at k
    exact .inl (hg.mp k)
  · rw [hle]
    by_cases hcb : c = b
    · rw [hcb, hbb]
      exact ⟨fun k => absurd k.1 hr, fun k => absurd k hfetch⟩
    · rw [hoff c hcb, hkept c hcb]
      exact h.receiving c
  · rw [hle] at k
    rw [hslot, hoff _ (hu u k)]
    exact h.txn u k
  · rw [hstage.1]
    exact h.stageJobs.1
  · rw [hstage.1, hjob]
    by_cases hcb : c = b
    · rw [hcb, hbb]
      refine ⟨fun k => absurd k.1 hstage.2, fun k => ?_⟩
      rcases k with k | ⟨j, hj, -, hjb⟩
      · exact absurd k hnstage
      · exact absurd hjb (hnjob j hj)
    · rw [hoff c hcb, hkept c hcb]
      exact h.stageJobs.2 c
  · rw [hdrain]
    split
    · exact List.nodup_append.mpr ⟨h.drainJobs.1, List.nodup_singleton b, fun a ha c hc hac =>
        hndrain (List.mem_singleton.mp hc ▸ hac ▸ ha)⟩
    · exact h.drainJobs.1
  · rw [hdrain, hjob]
    by_cases hcb : c = b
    · rw [hcb, hbb]
      have hbl : b ∉ loose' := fun k => ((hl b).mp k).2 rfl
      split
      · next hrd => exact ⟨fun _ => .inl (List.mem_append_right _ (List.mem_singleton_self b)), fun _ => ⟨hrd, hbl⟩⟩
      · next hrd =>
        refine ⟨fun k => absurd k.1 hrd, fun k => ?_⟩
        rcases k with k | ⟨j, hj, -, hjb⟩
        · exact absurd k hndrain
        · exact absurd hjb (hnjob j hj)
    · rw [hoff c hcb, hkept c hcb, h.drainJobs.2 c]
      split
      · rw [List.mem_append, List.mem_singleton, or_iff_left hcb]
      · exact Iff.rfl
  · rw [hjob] at hj
    obtain ⟨hjs, hjq, hjd⟩ := h.job j hj
    rw [hoff _ (hnjob j hj), hstage.1, hdrain]
    refine ⟨hjs, hjq, ?_⟩
    split
    · rw [List.mem_append, List.mem_singleton, or_iff_left (hnjob j hj)]
      exact hjd
    · exact hjd

/-- A grant (R136): a FREE buffer becomes STAGING, or STAGED with nothing to move. -/
theorem grant (h : BuffersAgree [] s) (hb : (s.buffer b).state = .free) (hf : s.first p = some x)
    (hd : (s.point p).cfg.direction = .store)
    (hs : (s.point p).staged = none) (h6 : buffersStaging s < 6) : BuffersAgree [] (grant p b x s) := by
  obtain ⟨hfetch, hnstage, hndrain, hnjob⟩ := h.unlisted (.inr (.inl hb))
  have hbuf := grant_buffer p b x s
  obtain ⟨hle, -⟩ := grant_frame p b x s
  have hpm := grant_pm p b x s
  have hmore : ∀ c, c ∈ [b].filter (fun c => decide ((grantedBuffer s p x c).state = .staging)) ↔
      c = b ∧ (grantedBuffer s p x b).state = .staging := fun c => by
    rw [List.mem_filter, List.mem_singleton, decide_eq_true_iff]
    exact and_congr_right fun hcb => by rw [hcb]
  have hmoren : ([b].filter fun c => decide ((grantedBuffer s p x c).state = .staging)).Nodup :=
    (List.nodup_singleton b).filter _
  generalize [b].filter (fun c => decide ((grantedBuffer s p x c).state = .staging)) = more at hpm hmore hmoren
  have hbb := (hbuf b).trans (if_pos rfl)
  have hoff : ∀ c, c ≠ b → (Machine.grant p b x s).buffer c = s.buffer c := fun c hc => by
    rw [hbuf, if_neg hc]
  have hnl : ∀ c, c ∉ ([] : List BufId) := fun c => List.not_mem_nil
  have hgb : ((Machine.grant p b x s).buffer b).state = .staging ∨ ((Machine.grant p b x s).buffer b).state = .staged := by
    rw [hbb]
    exact grantedBuffer_state p b x s
  have hstate : ∀ y, ((Machine.grant p b x s).slot y).state = (s.slot y).state ∨
      ((Machine.grant p b x s).slot y).state = .active := fun y => by
    rw [grant_slot]
    split
    · exact .inr rfl
    · exact .inl rfl
  have hfirst : ∀ q, (Machine.grant p b x s).first q = s.first q := fun q => by
    unfold State.first
    rw [grant_queue]
  refine h.changeAt b hoff (fun y => ?_) (fun k => ?_) hfirst hstate
    (fun q => ?_) (fun _ => ⟨p, x, ?_⟩) (fun q c hc => ?_) (fun q => ?_) (fun y _ ky => ?_)
    (fun _ => .inr h6) (fun c => ?_) (fun u k => ?_) ⟨?_, fun c => ?_⟩ ⟨?_, fun c => ?_⟩ fun j hj => ?_
  · have hgs : (grantedBuffer s p x b).slot = some x := rfl
    rw [grant_slot, hbb, (h.empty b hb).2.1, hgs]
    split
    · next hxy =>
      rw [hxy, decide_eq_false nofun, decide_eq_true rfl]
      rfl
    · next hxy => rw [decide_eq_false nofun, decide_eq_false fun k => hxy (Option.some.inj k).symm]
  · rw [k] at hgb
    rcases hgb with hgb | hgb <;> cases hgb
  · rw [grant_point]
    split
    · next hpq => rw [hpq]
    · rfl
  · unfold OwnedBy
    rw [hfirst, grant_slot, if_pos rfl, grant_point, if_pos rfl]
    exact ⟨by rw [hbb]; rfl, by rw [hbb]; rfl, hf, .inl rfl, iff_of_true hd hgb⟩
  · rw [grant_point]
    split
    · next hpq =>
      rw [hpq, hs]
      exact ⟨fun k => absurd (Option.some.inj k).symm hc, nofun⟩
    · exact Iff.rfl
  · rw [and_iff_left hgb, grant_point, hbb]
    split
    · next hpq => exact iff_of_true rfl (hpq ▸ rfl)
    · next hpq =>
      refine ⟨fun k => ?_, fun k => absurd (Option.some.inj k).symm hpq⟩
      have := ((h.staged q b).mp k).1
      rw [(h.empty b hb).1] at this
      cases this
  · rw [hbb] at ky
    obtain rfl : x = y := Option.some.inj ky
    rw [grant_slot, if_pos rfl]
  · rw [hle]
    by_cases hcb : c = b
    · rw [hcb]
      refine ⟨fun k => ?_, fun k => absurd k hfetch⟩
      rw [k.1] at hgb
      rcases hgb with hgb | hgb <;> cases hgb
    · rw [hoff c hcb]
      exact h.receiving c
  · rw [hle] at k
    obtain ⟨hfu, hau, hdu, hpu, hsu⟩ := h.txn u k
    have hub : u.buffer ≠ b := fun hub => h.not_free_of_point hpu (hub ▸ hb)
    rw [hoff _ hub]
    refine ⟨hfu, ?_, hdu, hpu, hsu⟩
    rcases hstate u.slot with e | e
    · rw [e, hau]
    · exact e
  · rw [hpm]
    exact List.nodup_append.mpr ⟨h.stageJobs.1, hmoren, fun a ha c hc hac =>
      hnstage (((hmore c).mp hc).1 ▸ hac ▸ ha)⟩
  · rw [hpm]
    change _ ↔ c ∈ s.pm.stageQueue ++ more ∨ ∃ j, s.pm.job = some j ∧ j.kind = .stage ∧ j.buffer = c
    rw [List.mem_append, hmore]
    by_cases hcb : c = b
    · rw [hcb, hbb, and_iff_left (hnl b), or_iff_right hnstage, and_iff_right rfl]
      exact (or_iff_left fun ⟨j, hj, _, hjb⟩ => hnjob j hj hjb).symm
    · rw [hoff c hcb, h.stageJobs.2 c, or_iff_left fun (k : c = b ∧ _) => hcb k.1]
  · rw [hpm]
    exact h.drainJobs.1
  · rw [hpm]
    dsimp only
    by_cases hcb : c = b
    · rw [hcb]
      refine ⟨fun k => ?_, fun k => ?_⟩
      · rw [k.1] at hgb
        rcases hgb with hgb | hgb <;> cases hgb
      · rcases k with k | ⟨j, hj, -, hjb⟩
        · exact absurd k hndrain
        · exact absurd hjb (hnjob j hj)
    · rw [hoff c hcb]
      exact h.drainJobs.2 c
  · rw [hpm] at hj ⊢
    dsimp only at hj ⊢
    obtain ⟨hjs, hjq, hjd⟩ := h.job j hj
    rw [hoff _ (hnjob j hj)]
    refine ⟨hjs, fun k => ?_, hjd⟩
    rcases List.mem_append.mp k with k | k
    · exact hjq k
    · exact hnjob j hj ((hmore _).mp k).1

end BuffersAgree

end Sys2Proof.Machine
end

section
namespace Sys2Proof.Machine
set_option Elab.async false

namespace BuffersAgree

variable {loose loose' : List BufId} {s t : State} {b : BufId} {p : PointId} {x : SlotId}

/-! ### A transaction begins and ends (R75, R84, R86) -/

/-- With no transaction in flight no buffer is RECEIVING. -/
theorem not_receiving (h : BuffersAgree [] s) (hn : s.le.txn = none) (b : BufId) : (s.buffer b).state ≠ .receiving :=
  fun hb => by
    obtain ⟨u, hu, -⟩ := (h.receiving b).mp ⟨hb, List.not_mem_nil⟩
    rw [hn] at hu
    cases hu

theorem beginsStore (h : BuffersAgree [] s) (hn : s.le.txn = none) (hf : s.first p = some x)
    (hd : (s.point p).cfg.direction = .store) (hs : (s.point p).staged = some b) (hb : (s.buffer b).state = .staged)
    (hpt : t.pt = s.pt) (hsp : t.sp = s.sp) (hbp : t.bp = s.bp) (hpm : t.pm = s.pm) {u : Txn} (hu : t.le.txn = some u)
    (hup : u.point = p) (hux : u.slot = x) (hud : u.direction = (s.point p).cfg.direction) (hub : u.buffer = b) :
    BuffersAgree [] t := by
  refine h.relist hpt hsp (congrArg BufferPool.buffers hbp) (fun c => ?_) (fun v hv => ?_) (hpm ▸ h.stageJobs)
    (hpm ▸ h.drainJobs) (hpm ▸ h.job)
  · refine ⟨fun k => absurd k.1 (h.not_receiving hn c), fun ⟨v, hv, hvd, _⟩ => ?_⟩
    rw [hu] at hv
    obtain rfl := Option.some.inj hv
    rw [hud, hd] at hvd
    cases hvd
  · rw [hu] at hv
    obtain rfl := Option.some.inj hv
    have hbp := ((h.staged p b).mp hs).1
    obtain ⟨y, ho⟩ := h.owner_of_point hbp
    obtain rfl : y = x := Option.some.inj (ho.2.2.1.symm.trans hf)
    rw [hup, hux, hub]
    exact ⟨hf, h.stagedActive b y hb ho.2.1, hud, hbp, fun _ => hb⟩

theorem beginsFetch (h : BuffersAgree [] s) (hn : s.le.txn = none) (hf : s.first p = some x)
    (hd : (s.point p).cfg.direction = .fetch) (hb : (s.buffer b).state = .free) (hpt : t.pt = s.pt)
    (hsp : t.sp = (s.setSlot x { s.slot x with state := .active, jobs := (s.slot x).jobs + 1 }).sp)
    (hbp : t.bp = (s.setBuffer b
      { s.buffer b with state := .receiving, point := some p, slot := some x, count := 0, addr := none }).bp)
    (hpm : t.pm = s.pm) {u : Txn} (hu : t.le.txn = some u) (hup : u.point = p) (hux : u.slot = x)
    (hud : u.direction = (s.point p).cfg.direction) (hub : u.buffer = b) : BuffersAgree [] t := by
  obtain ⟨-, hnstage, hndrain, hnjob⟩ := h.unlisted (.inr (.inl hb))
  have hpoint : ∀ q, t.point q = s.point q := fun q => by unfold State.point; rw [hpt]
  have hfirst : ∀ q, t.first q = s.first q := fun q => by unfold State.first State.queue; rw [hsp]; rfl
  have hslot : ∀ y, t.slot y =
      if x = y then { s.slot x with state := .active, jobs := (s.slot x).jobs + 1 } else s.slot y := fun y =>
    (congrArg (fun sp : SlotPool => sp.slots[y]) hsp).trans (State.slot_setSlot ..)
  have hbuf : ∀ c, t.buffer c = if b = c then
      { s.buffer b with state := .receiving, point := some p, slot := some x, count := 0, addr := none }
      else s.buffer c := fun c =>
    (congrArg (fun bp : BufferPool => bp.buffers[c]) hbp).trans (State.buffer_setBuffer ..)
  have hbb := (hbuf b).trans (if_pos rfl)
  have hoff : ∀ c, c ≠ b → t.buffer c = s.buffer c := fun c hc => by rw [hbuf, if_neg (Ne.symm hc)]
  have hstate : ∀ y, (t.slot y).state = (s.slot y).state ∨ (t.slot y).state = .active := fun y => by
    rw [hslot]
    split
    · exact .inr rfl
    · exact .inl rfl
  have hother : ∀ g (P : BufId → Prop), g ≠ .receiving → (∀ c, (s.buffer c).state = g ∧ c ∉ ([] : List BufId) ↔ P c) →
      ¬ P b → ∀ c, (t.buffer c).state = g ∧ c ∉ ([] : List BufId) ↔ P c := fun g P hg hP hPb c => by
    by_cases hcb : c = b
    · rw [hcb, hbb]
      exact ⟨fun k => absurd k.1.symm hg, fun k => absurd k hPb⟩
    · rw [hoff c hcb]
      exact hP c
  refine h.changeAt b hoff (fun y => ?_) (fun k => ?_) hfirst hstate (fun q => by rw [hpoint])
    (fun _ => ⟨p, x, ?_⟩) (fun q c _ => by rw [hpoint]) (fun q => ?_) (fun y k _ => ?_) (fun k => ?_) (fun c => ?_)
    (fun v hv => ?_) ⟨hpm ▸ h.stageJobs.1, ?_⟩ ⟨hpm ▸ h.drainJobs.1, ?_⟩ fun j hj => ?_
  · rw [hslot, hbb, (h.empty b hb).2.1]
    split
    · next hxy =>
      rw [hxy, decide_eq_false nofun, decide_eq_true rfl]
      rfl
    · next hxy => rw [decide_eq_false nofun, decide_eq_false fun k => hxy (Option.some.inj k)]
  · rw [hbb] at k
    cases k
  · unfold OwnedBy
    rw [hbb, hfirst, hslot, if_pos rfl, hpoint, hd]
    refine ⟨rfl, rfl, hf, .inl rfl, iff_of_false nofun fun k => ?_⟩
    rcases k with k | k <;> cases k
  · rw [hpoint, hbb, h.staged, (h.empty b hb).1]
    refine ⟨fun k => (nomatch k.1), fun k => ?_⟩
    rcases k.2 with k | k <;> cases k
  · rw [hbb] at k
    cases k
  · rw [hbb] at k
    rcases k with k | k <;> cases k
  · rw [hu]
    by_cases hcb : c = b
    · rw [hcb, hbb]
      exact ⟨fun _ => ⟨u, rfl, hud.trans hd, hub⟩, fun _ => ⟨rfl, List.not_mem_nil⟩⟩
    · rw [hoff c hcb]
      refine ⟨fun k => absurd k.1 (h.not_receiving hn c), fun ⟨v, hv, _, hvc⟩ => ?_⟩
      rw [← Option.some.inj hv] at hvc
      exact absurd (hvc.symm.trans hub) hcb
  · rw [hu] at hv
    obtain rfl := Option.some.inj hv
    rw [hup, hux, hub, hbb, hslot, if_pos rfl]
    refine ⟨hf, rfl, hud, rfl, fun k => ?_⟩
    rw [hud, hd] at k
    cases k
  · rw [hpm]
    exact hother _ _ nofun h.stageJobs.2 (not_or.mpr ⟨hnstage, fun ⟨j, hj, _, hjb⟩ => hnjob j hj hjb⟩)
  · rw [hpm]
    exact hother _ _ nofun h.drainJobs.2 (not_or.mpr ⟨hndrain, fun ⟨j, hj, _, hjb⟩ => hnjob j hj hjb⟩)
  · rw [hpm] at hj ⊢
    rw [hoff _ (hnjob j hj)]
    exact h.job j hj

/-- The transaction is removed: the buffer of a FETCH is left RECEIVING. -/
theorem txnRemoved (h : BuffersAgree [] s) {u : Txn} (hu : s.le.txn = some u) (hpt : t.pt = s.pt) (hsp : t.sp = s.sp)
    (hbp : t.bp = s.bp) (hpm : t.pm = s.pm) (hn : t.le.txn = none) :
    BuffersAgree (if u.direction = .fetch then [u.buffer] else []) t := by
  have hloose : ∀ c g, (s.buffer c).state = g → g ≠ .receiving →
      c ∉ (if u.direction = .fetch then [u.buffer] else []) := fun c g hc hg => by
    split
    · next hf =>
      intro k
      have hr := ((h.receiving u.buffer).mpr ⟨u, hu, hf, rfl⟩).1
      rw [← List.mem_singleton.mp k] at hr
      exact hg (hc.symm.trans hr)
    · exact List.not_mem_nil
  refine h.relist hpt hsp (congrArg BufferPool.buffers hbp) (fun c => ?_) (fun v hv => ?_) ?_ ?_ (hpm ▸ h.job)
  · rw [hn]
    refine ⟨fun k => ?_, fun ⟨_, k, _⟩ => nomatch k⟩
    obtain ⟨v, hv, hvf, rfl⟩ := (h.receiving c).mp ⟨k.1, List.not_mem_nil⟩
    obtain rfl := Option.some.inj (hu.symm.trans hv)
    rw [if_pos hvf] at k
    exact absurd (List.mem_singleton_self _) k.2
  · rw [hn] at hv
    cases hv
  · rw [hpm]
    refine ⟨h.stageJobs.1, fun c => Iff.trans ?_ (h.stageJobs.2 c)⟩
    exact and_congr_right fun k => iff_of_true (hloose c _ k nofun) List.not_mem_nil
  · rw [hpm]
    refine ⟨h.drainJobs.1, fun c => Iff.trans ?_ (h.drainJobs.2 c)⟩
    exact and_congr_right fun k => iff_of_true (hloose c _ k nofun) List.not_mem_nil

/-! ### The mover's job (R139, R141, R146, R148) -/

/-- The mover changes, with its job lists. -/
theorem mover (h : BuffersAgree loose s) (hl : ∀ c ∈ loose', c ∉ loose → (s.buffer c).state ≠ .receiving)
    (hsub : ∀ c ∈ loose, c ∈ loose') (hpt : t.pt = s.pt) (hsp : t.sp = s.sp) (hbp : t.bp.buffers = s.bp.buffers)
    (hle : t.le = s.le)
    (hstage : t.pm.stageQueue.Nodup ∧ ∀ b, (s.buffer b).state = .staging ∧ b ∉ loose' ↔
      b ∈ t.pm.stageQueue ∨ ∃ j, t.pm.job = some j ∧ j.kind = .stage ∧ j.buffer = b)
    (hdrain : t.pm.drainQueue.Nodup ∧ ∀ b, (s.buffer b).state = .draining ∧ b ∉ loose' ↔
      b ∈ t.pm.drainQueue ∨ ∃ j, t.pm.job = some j ∧ j.kind = .drain ∧ j.buffer = b)
    (hjob : ∀ j, t.pm.job = some j → (s.buffer j.buffer).slot = some j.slot ∧ j.buffer ∉ t.pm.stageQueue ∧
      j.buffer ∉ t.pm.drainQueue) : BuffersAgree loose' t := by
  refine h.relist hpt hsp hbp (fun c => ?_) (hle ▸ h.txn) hstage hdrain hjob
  rw [hle, ← h.receiving c]
  exact and_congr_right fun k => ⟨fun hc hcl => hc (hsub c hcl), fun hc hcl => hl c hcl hc k⟩

theorem job_state (h : BuffersAgree loose s) {j : Job} (hj : s.pm.job = some j) :
    (s.buffer j.buffer).state = (if j.kind = .stage then .staging else .draining) ∧ j.buffer ∉ loose := by
  cases hk : j.kind with
  | stage => exact (h.stageJobs.2 _).mpr (.inr ⟨j, hj, hk, rfl⟩)
  | drain => exact (h.drainJobs.2 _).mpr (.inr ⟨j, hj, hk, rfl⟩)

/-- An IDLE mover takes a job (R139). -/
theorem takeJob (h : BuffersAgree [] s) (hidle : s.pm.state = .idle → s.pm.job = none) :
    BuffersAgree [] (takeJob s) := by
  have hnil : ∀ c ∈ ([] : List BufId), c ∉ ([] : List BufId) → (s.buffer c).state ≠ .receiving := nofun
  unfold Machine.takeJob
  split
  · next hi =>
    have hnone := hidle hi
    have hno : ∀ (c : BufId) k, ¬ ∃ j, s.pm.job = some j ∧ j.kind = k ∧ j.buffer = c := fun c k ⟨j, hj, _⟩ => by
      rw [hnone] at hj
      cases hj
    split
    · next b rest hq =>
      obtain ⟨hnd, hdr⟩ := h.drainJobs
      rw [hq] at hnd hdr
      obtain ⟨hbr, hnr⟩ := List.nodup_cons.mp hnd
      have hbs := (hdr b).mpr (.inl List.mem_cons_self)
      have hbn : b ∉ s.pm.stageQueue := fun k =>
        absurd (hbs.1.symm.trans ((h.stageJobs.2 b).mpr (.inl k)).1) nofun
      obtain ⟨p, x, ho⟩ := h.owner b (by rw [hbs.1]; nofun)
      refine h.mover hnil nofun rfl rfl rfl rfl ⟨h.stageJobs.1, fun c => ?_⟩ ⟨hnr, fun c => ?_⟩ fun j hj => ?_
      · rw [h.stageJobs.2 c, or_iff_left (hno c _)]
        exact ⟨.inl, fun k => k.resolve_right fun ⟨j, hj, hk, _⟩ => by
          rw [← Option.some.inj hj] at hk
          cases hk⟩
      · rw [hdr c, or_iff_left (hno c _), List.mem_cons]
        constructor
        · rintro (rfl | k)
          · exact .inr ⟨_, rfl, rfl, rfl⟩
          · exact .inl k
        · rintro (k | ⟨j, hj, -, rfl⟩)
          · exact .inr k
          · rw [← Option.some.inj hj]
            exact .inl rfl
      · rw [← Option.some.inj hj]
        refine ⟨?_, hbn, hbr⟩
        change (s.buffer b).slot = some ((s.buffer b).slot.getD 0)
        rw [ho.2.1]
        rfl
    · next hdq =>
      split
      · next b rest hq =>
        obtain ⟨hnd, hst⟩ := h.stageJobs
        rw [hq] at hnd hst
        obtain ⟨hbr, hnr⟩ := List.nodup_cons.mp hnd
        have hbs := (hst b).mpr (.inl List.mem_cons_self)
        obtain ⟨p, x, ho⟩ := h.owner b (by rw [hbs.1]; nofun)
        refine h.mover hnil nofun rfl rfl rfl rfl ⟨hnr, fun c => ?_⟩ ⟨h.drainJobs.1, fun c => ?_⟩ fun j hj => ?_
        · rw [hst c, or_iff_left (hno c _), List.mem_cons]
          constructor
          · rintro (rfl | k)
            · exact .inr ⟨_, rfl, rfl, rfl⟩
            · exact .inl k
          · rintro (k | ⟨j, hj, -, rfl⟩)
            · exact .inr k
            · rw [← Option.some.inj hj]
              exact .inl rfl
        · rw [h.drainJobs.2 c, or_iff_left (hno c _)]
          exact ⟨.inl, fun k => k.resolve_right fun ⟨j, hj, hk, _⟩ => by
            rw [← Option.some.inj hj] at hk
            cases hk⟩
        · rw [← Option.some.inj hj]
          refine ⟨?_, hbr, ?_⟩
          · change (s.buffer b).slot = some ((s.buffer b).slot.getD 0)
            rw [ho.2.1]
            rfl
          · change b ∉ s.pm.drainQueue
            rw [hdq]
            exact List.not_mem_nil
      · exact h
  · exact h

/-- The job changes its progress and keeps its buffer. -/
theorem sameJob (h : BuffersAgree loose s) {j j' : Job} (hj : s.pm.job = some j) (hk : j'.kind = j.kind)
    (hb : j'.buffer = j.buffer) (hx : j'.slot = j.slot) (hpt : t.pt = s.pt) (hsp : t.sp = s.sp)
    (hbp : t.bp.buffers = s.bp.buffers) (hle : t.le = s.le) (hj' : t.pm.job = some j')
    (hst : t.pm.stageQueue = s.pm.stageQueue) (hdr : t.pm.drainQueue = s.pm.drainQueue) : BuffersAgree loose t := by
  have hiff : ∀ k c, (∃ i, t.pm.job = some i ∧ i.kind = k ∧ i.buffer = c) ↔
      ∃ i, s.pm.job = some i ∧ i.kind = k ∧ i.buffer = c := fun k c => by
    rw [hj, hj']
    constructor
    · rintro ⟨i, hi, hik, hib⟩
      rw [← Option.some.inj hi] at hik hib
      exact ⟨j, rfl, hk ▸ hik, hb ▸ hib⟩
    · rintro ⟨i, hi, hik, hib⟩
      rw [← Option.some.inj hi] at hik hib
      exact ⟨j', rfl, hk.trans hik, hb.trans hib⟩
  refine h.mover (fun c k k' => absurd k k') (fun _ => id) hpt hsp hbp hle ?_ ?_ fun i hi => ?_
  · simp only [hst, hiff]
    exact h.stageJobs
  · simp only [hdr, hiff]
    exact h.drainJobs
  · rw [hj'] at hi
    rw [← Option.some.inj hi, hb, hx, hst, hdr]
    exact h.job j hj

/-- The job and the queued jobs of `out` are given up. -/
theorem jobDropped (h : BuffersAgree [] s) {j : Job} (hj : s.pm.job = some j) (hpt : t.pt = s.pt)
    (hsp : t.sp = s.sp) (hbp : t.bp.buffers = s.bp.buffers) (hle : t.le = s.le) (hj' : t.pm.job = none) {keep : BufId → Bool}
    (hst : t.pm.stageQueue = s.pm.stageQueue.filter keep) (hdr : t.pm.drainQueue = s.pm.drainQueue.filter keep)
    (hl : ∀ c, c ∈ loose' ↔ c = j.buffer ∨ ((c ∈ s.pm.drainQueue ∨ c ∈ s.pm.stageQueue) ∧ keep c = false)) :
    BuffersAgree loose' t := by
  have hjs := (h.job_state hj).1
  have hstage : ∀ c, c ∈ s.pm.stageQueue → (s.buffer c).state = .staging := fun c hc =>
    ((h.stageJobs.2 c).mpr (.inl hc)).1
  have hdrain : ∀ c, c ∈ s.pm.drainQueue → (s.buffer c).state = .draining := fun c hc =>
    ((h.drainJobs.2 c).mpr (.inl hc)).1
  obtain ⟨-, hjq, hjd⟩ := h.job j hj
  have hno : ∀ k (c : BufId), ¬ ∃ i, t.pm.job = some i ∧ i.kind = k ∧ i.buffer = c := fun k c ⟨i, hi, _⟩ => by
    rw [hj'] at hi
    cases hi
  refine h.mover (fun c hc _ hr => ?_) nofun hpt hsp hbp hle ?_ ?_ fun i hi => ?_
  · rcases (hl c).mp hc with rfl | ⟨hc | hc, -⟩
    · rw [hjs] at hr
      split at hr <;> cases hr
    · rw [hdrain c hc] at hr
      cases hr
    · rw [hstage c hc] at hr
      cases hr
  · rw [hst]
    refine ⟨h.stageJobs.1.filter keep, fun c => ?_⟩
    rw [or_iff_left (hno _ c), List.mem_filter, hl]
    constructor
    · rintro ⟨k, hc⟩
      rw [not_or] at hc
      have hc' := ((h.stageJobs.2 c).mp ⟨k, List.not_mem_nil⟩).resolve_right fun ⟨i, hi, _, hic⟩ =>
        hc.1 (Option.some.inj (hj.symm.trans hi) ▸ hic.symm)
      refine ⟨hc', ?_⟩
      cases hk : keep c with
      | true => rfl
      | false => exact absurd ⟨.inr hc', hk⟩ hc.2
    · rintro ⟨hc, hk⟩
      refine ⟨hstage c hc, ?_⟩
      rintro (rfl | ⟨-, hk'⟩)
      · exact hjq hc
      · rw [hk] at hk'
        cases hk'
  · rw [hdr]
    refine ⟨h.drainJobs.1.filter keep, fun c => ?_⟩
    rw [or_iff_left (hno _ c), List.mem_filter, hl]
    constructor
    · rintro ⟨k, hc⟩
      rw [not_or] at hc
      have hc' := ((h.drainJobs.2 c).mp ⟨k, List.not_mem_nil⟩).resolve_right fun ⟨i, hi, _, hic⟩ =>
        hc.1 (Option.some.inj (hj.symm.trans hi) ▸ hic.symm)
      refine ⟨hc', ?_⟩
      cases hk : keep c with
      | true => rfl
      | false => exact absurd ⟨.inl hc', hk⟩ hc.2
    · rintro ⟨hc, hk⟩
      refine ⟨hdrain c hc, ?_⟩
      rintro (rfl | ⟨-, hk'⟩)
      · exact hjd hc
      · rw [hk] at hk'
        cases hk'
  · rw [hj'] at hi
    cases hi

end BuffersAgree

end Sys2Proof.Machine
end

section
namespace Sys2Proof.Machine
set_option Elab.async false

/-! ### The held list -/

/-- Each held point waits for the record of its first exchange (R156). -/
structure HeldAgrees (s : State) : Prop where
  nodup : s.cu.held.Nodup
  leads : ∀ p ∈ s.cu.held, ∃ x st, s.first p = some x ∧ (s.slot x).state = .retiring ∧ (s.slot x).jobs = 0 ∧
    (s.slot x).status = some st ∧ CompletionIsDue (s.slot x) st

/-- The exchanges of the held points are as they were. -/
theorem HeldAgrees.change {s t : State} (h : HeldAgrees s) (hn : t.cu.held.Nodup) (hsub : ∀ p ∈ t.cu.held, p ∈ s.cu.held)
    (hx : ∀ p x, p ∈ t.cu.held → s.first p = some x → (s.slot x).state = .retiring → (s.slot x).jobs = 0 →
      t.first p = some x ∧ t.slot x = s.slot x) : HeldAgrees t where
  nodup := hn
  leads p hp := by
    obtain ⟨x, st, hf, hr, hj, hs, hd⟩ := h.leads p (hsub p hp)
    obtain ⟨hf', hx'⟩ := hx p x hp hf hr hj
    exact ⟨x, st, hf', by rw [hx']; exact hr, by rw [hx']; exact hj, by rw [hx']; exact hs, by rw [hx']; exact hd⟩

/-! ### What holds all through a happening -/

/-- The parts of the pool invariant that each operation of a happening keeps. -/
structure PoolCore (loose : List BufId) (s : State) : Prop where
  slots : SlotsAgree s
  buffers : BuffersAgree loose s
  held : HeldAgrees s

/-! ### What a point has left undone -/

/-- Nothing is due for the first exchange of a queue: no mark of it is pending but one it waits for (R42, R44, R46), and in
RETIRING it waits for a job or for its record (R41). -/
structure HeadQuiet (s : State) (p : PointId) (x : SlotId) : Prop where
  queued : (s.slot x).state = .queued → (s.slot x).cancelRequested = false
  active : (s.slot x).state = .active → inFlight s x = false → (s.slot x).faultMark = false ∧
    ((s.slot x).cancelRequested = true → ∃ b, (s.buffer b).slot = some x ∧ (s.buffer b).state ≠ .staged)
  retiring : (s.slot x).state = .retiring → (s.slot x).jobs ≠ 0 ∨ p ∈ s.cu.held

/-- Nothing is due at a point (R19). -/
structure Quiet (s : State) (p : PointId) : Prop where
  closing : (s.point p).state = .closing → s.queue p ≠ []
  head : ∀ x, s.first p = some x → HeadQuiet s p x

/-- The pool at the end of a happening, but for the wait list and the ring. -/
structure Calm (s : State) : Prop where
  core : PoolCore [] s
  quiet : ∀ p, Quiet s p

/-- Points are held while the ring is full only (R156). -/
def HeldFull (s : State) : Prop := s.cu.held ≠ [] → s.cu.count = 64

/-- The staging wait list is that of the points that need staging (R135). -/
def WaitsAgree (s : State) : Prop := s.bp.waitList.Nodup ∧ ∀ p, p ∈ s.bp.waitList ↔ NeedsStaging s p

theorem Quiet.of_empty {s : State} {p : PointId} (hq : s.queue p = []) (hc : (s.point p).state ≠ .closing) : Quiet s p :=
  ⟨fun h => absurd h hc, fun x hx => by rw [State.first, hq] at hx; cases hx⟩

/-- The parts make up the pool invariant. -/
theorem Calm.agrees {s : State} (h : Calm s) (hf : HeldFull s) (hw : WaitsAgree s) : PoolAgrees s := by
  obtain ⟨⟨hs, hb, hh⟩, hq⟩ := h
  have hlead : ∀ x g, (s.slot x).state = g → g ≠ .free → g ≠ .queued → ∃ p, s.first p = some x := fun x g hx h1 h2 => by
    obtain ⟨p, hp⟩ := Option.isSome_iff_exists.mp (hs.owned x (hx ▸ h1))
    exact ⟨p, hs.first_of_state hp (hx ▸ h1) (hx ▸ h2)⟩
  exact {
    freeList := hs.freeList
    freeSlots := hs.freeSlots
    queues := hs.queues
    owned := hs.owned
    total := hs.total
    limit := hs.limit
    service := fun p => ⟨fun hp => ⟨hs.disabled p hp, hb.staged_none (by rw [State.first, hs.disabled p hp]; rfl)⟩,
      (hq p).closing⟩
    behind := hs.behind
    queued := hs.queued
    firstQueued := fun p x hx hxq => ((hq p).head x hx).queued hxq
    marked := fun x hx hi => by
      obtain ⟨p, hp⟩ := hlead x _ hx nofun nofun
      exact ((hq p).head x hp).active hx hi
    retiring := fun x hx => by
      obtain ⟨p, hp⟩ := hlead x _ hx nofun nofun
      exact ⟨p, hs.point_of_first hp, ((hq p).head x hp).retiring hx⟩
    status := hs.status
    jobs := hb.jobs
    buffers := ⟨hb.empty, hb.owner⟩
    staged := hb.staged
    stagedActive := hb.stagedActive
    six := hb.six
    receiving := fun b => by rw [← hb.receiving, and_iff_left List.not_mem_nil]
    txn := hb.txn
    stageJobs := ⟨hb.stageJobs.1, fun b => by rw [← hb.stageJobs.2, and_iff_left List.not_mem_nil]⟩
    drainJobs := ⟨hb.drainJobs.1, fun b => by rw [← hb.drainJobs.2, and_iff_left List.not_mem_nil]⟩
    job := hb.job
    held := by
      refine ⟨hh.nodup, fun p => ⟨fun hp => ?_, fun ⟨x, hx, hr, hj⟩ => ?_⟩⟩
      · obtain ⟨x, -, hx, hr, hj, -⟩ := hh.leads p hp
        exact ⟨x, hx, hr, hj⟩
      · exact (((hq p).head x hx).retiring hr).resolve_left fun k => k hj
    heldDue := fun p x hp hx => by
      obtain ⟨y, st, hy, -, -, hs, hd⟩ := hh.leads p hp
      obtain rfl : x = y := Option.some.inj (hx.symm.trans hy)
      exact ⟨st, hs, hd⟩
    heldFull := hf
    waits := hw }

/-- The pool invariant in its parts. -/
theorem PoolAgrees.calm {s : State} (h : PoolAgrees s) : Calm s where
  core := {
    slots := ⟨h.freeList, h.freeSlots, h.queues, h.owned, h.limit, fun p hp => ((h.service p).1 hp).1, h.behind, h.queued,
      h.status⟩
    buffers := {
      jobs := h.jobs
      empty := h.buffers.1
      owner := h.buffers.2
      staged := h.staged
      stagedActive := h.stagedActive
      six := h.six
      receiving := fun b => by rw [← h.receiving, and_iff_left List.not_mem_nil]
      txn := h.txn
      stageJobs := ⟨h.stageJobs.1, fun b => by rw [← h.stageJobs.2, and_iff_left List.not_mem_nil]⟩
      drainJobs := ⟨h.drainJobs.1, fun b => by rw [← h.drainJobs.2, and_iff_left List.not_mem_nil]⟩
      job := h.job }
    held := ⟨h.held.1, fun p hp => by
      obtain ⟨x, hx, hr, hj⟩ := (h.held.2 p).mp hp
      obtain ⟨st, hs, hd⟩ := h.heldDue p x hp hx
      exact ⟨x, st, hx, hr, hj, hs, hd⟩⟩ }
  quiet p := by
    refine ⟨(h.service p).2, fun x hx => ⟨h.firstQueued p x hx, h.marked x, fun hr => ?_⟩⟩
    obtain ⟨q, hq, hd⟩ := h.retiring x hr
    obtain ⟨rest, hl⟩ := first_eq_some.mp hx
    have hp : (s.slot x).point = some p := (((h.queues p).2 x).mp (by rw [hl]; exact List.mem_cons_self)).2
    rw [Option.some.inj (hp.symm.trans hq)]
    exact hd

/-! ### What a change at one point spares -/

/-- `t` differs from `s` at the point `p` alone: in its record, its queue, its exchanges, its buffers and its place on the
held list. -/
structure Spares (p : PointId) (s t : State) : Prop where
  points : ∀ q, q ≠ p → (t.point q).state = (s.point q).state
  queues : ∀ q, q ≠ p → t.queue q = s.queue q
  slots : ∀ y, (s.slot y).point ≠ some p → t.slot y = s.slot y
  buffers : ∀ b, (s.buffer b).state ≠ .free → (s.buffer b).point ≠ some p → t.buffer b = s.buffer b
  held : ∀ q, q ≠ p → q ∈ s.cu.held → q ∈ t.cu.held
  txn : ∀ x, inFlight t x = false → inFlight s x = false

theorem inFlight_congr {s t : State} (h : t.le.txn = s.le.txn) (x : SlotId) : inFlight t x = inFlight s x := by
  unfold inFlight
  rw [h]

namespace Spares

variable {p : PointId} {s t u : State}

theorem refl (p : PointId) (s : State) : Spares p s s :=
  ⟨fun _ _ => rfl, fun _ _ => rfl, fun _ _ => rfl, fun _ _ _ => rfl, fun _ _ => id, fun _ => id⟩

theorem trans (h : Spares p s t) (k : Spares p t u) : Spares p s u where
  points q hq := (k.points q hq).trans (h.points q hq)
  queues q hq := (k.queues q hq).trans (h.queues q hq)
  slots y hy := (k.slots y (by rw [h.slots y hy]; exact hy)).trans (h.slots y hy)
  buffers b hf hb := by
    have e := h.buffers b hf hb
    exact (k.buffers b (by rw [e]; exact hf) (by rw [e]; exact hb)).trans e
  held q hq hc := k.held q hq (h.held q hq hc)
  txn x hx := h.txn x (k.txn x hx)

theorem of_beside (h : Beside p s t) (hh : ∀ q, q ≠ p → q ∈ s.cu.held → q ∈ t.cu.held) (ht : t.le.txn = s.le.txn) :
    Spares p s t :=
  ⟨fun q hq => by rw [h.points q hq], h.queues, h.slots, fun b _ => h.buffers b, hh,
    fun x hx => (inFlight_congr ht x).symm.trans hx⟩

/-- A change of the blocks that hold no pool. -/
theorem of_eq (hpt : t.pt = s.pt) (hsp : t.sp = s.sp) (hbp : t.bp.buffers = s.bp.buffers) (hcu : t.cu.held = s.cu.held)
    (hle : t.le.txn = s.le.txn) : Spares p s t := by
  refine ⟨fun q _ => ?_, fun q _ => ?_, fun y _ => ?_, fun b _ _ => ?_, fun q _ => ?_,
    fun x hx => (inFlight_congr hle x).symm.trans hx⟩
  · unfold State.point
    rw [hpt]
  · unfold State.queue
    rw [hsp]
  · unfold State.slot
    rw [hsp]
  · unfold State.buffer
    rw [hbp]
  · rw [hcu]
    exact id

/-- What is quiet elsewhere stays quiet. -/
theorem quiet (h : Spares p s t) (hs : SlotsAgree s) {loose : List BufId} (hb : BuffersAgree loose s) {q : PointId}
    (hq : q ≠ p) (k : Quiet s q) : Quiet t q where
  closing hc := by
    rw [h.queues q hq]
    exact k.closing ((h.points q hq).symm.trans hc)
  head x hx := by
    rw [State.first, h.queues q hq] at hx
    have hxq := hs.point_of_first hx
    have hslot := h.slots x fun hp => hq (Option.some.inj (hxq.symm.trans hp))
    obtain ⟨h1, h2, h3⟩ := k.head x hx
    refine ⟨fun hg => ?_, fun hg hi => ?_, fun hg => ?_⟩
    · rw [hslot] at hg ⊢
      exact h1 hg
    · rw [hslot] at hg ⊢
      obtain ⟨hf, hc⟩ := h2 hg (h.txn x hi)
      refine ⟨hf, fun hcr => ?_⟩
      obtain ⟨b, hbx, hbs⟩ := hc hcr
      obtain ⟨r, ho⟩ := hb.owner_of_slot hbx
      have hr : r = q := hs.first_eq ho.2.2.1 hx
      have hbuf := h.buffers b (hb.not_free_of_slot hbx) fun hp => hq (hr ▸ Option.some.inj (ho.1.symm.trans hp))
      exact ⟨b, by rw [hbuf]; exact hbx, by rw [hbuf]; exact hbs⟩
    · rw [hslot] at hg ⊢
      exact (h3 hg).imp_right (h.held q hq)

end Spares

/-- A core with every point quiet but one, and that one made quiet. -/
theorem Calm.of_spares {s t : State} {p : PointId} {loose : List BufId} (hs : SlotsAgree s) (hb : BuffersAgree loose s)
    (hq : ∀ q, q ≠ p → Quiet s q) (hc : PoolCore [] t) (h : Spares p s t) (hp : Quiet t p) : Calm t :=
  ⟨hc, fun q => if k : q = p then k ▸ hp else h.quiet hs hb k (hq q k)⟩

end Sys2Proof.Machine
end

section
namespace Sys2Proof.Machine
set_option Elab.async false

/-! ### Changes beside the pool -/

/-- The states hold the same pool: they differ outside it, in other fields of the points, or in the buffers' bytes. -/
structure SamePool (s t : State) : Prop where
  points : ∀ p, (t.point p).cfg = (s.point p).cfg ∧ (t.point p).state = (s.point p).state ∧
    (t.point p).staged = (s.point p).staged
  slots : t.sp = s.sp
  buffers : ∀ b, SameBuffer (t.buffer b) (s.buffer b)
  txn : t.le.txn = s.le.txn
  mover : t.pm = s.pm
  held : t.cu.held = s.cu.held

namespace SamePool

variable {s t u : State}

theorem of_eq (hpt : t.pt = s.pt) (hsp : t.sp = s.sp) (hbp : t.bp.buffers = s.bp.buffers) (hle : t.le.txn = s.le.txn)
    (hpm : t.pm = s.pm) (hcu : t.cu.held = s.cu.held) : SamePool s t := by
  refine ⟨fun p => ?_, hsp, fun b => ?_, hle, hpm, hcu⟩
  · unfold State.point
    rw [hpt]
    exact ⟨rfl, rfl, rfl⟩
  · unfold State.buffer
    rw [hbp]
    exact .refl _

theorem slot (h : SamePool s t) (x : SlotId) : t.slot x = s.slot x := by
  unfold State.slot
  rw [h.slots]

theorem queue (h : SamePool s t) (p : PointId) : t.queue p = s.queue p := by
  unfold State.queue
  rw [h.slots]

theorem first (h : SamePool s t) (p : PointId) : t.first p = s.first p := by
  unfold State.first
  rw [h.queue]

theorem core (h : SamePool s t) {loose : List BufId} (k : PoolCore loose s) : PoolCore loose t where
  slots := k.slots.congr h.slots fun p => ⟨by rw [(h.points p).1], (h.points p).2.1⟩
  buffers := k.buffers.change h.buffers (fun x => by rw [h.slot]) (fun p => (h.points p).2.2)
    (fun p _ => by rw [(h.points p).1]) (fun b p x ho => ⟨(h.first p).trans ho.2.2.1, .inl (by rw [h.slot])⟩) h.txn h.mover
  held := k.held.change (h.held ▸ k.held.nodup) (fun p hp => h.held ▸ hp) fun p x _ hf _ _ =>
    ⟨(h.first p).trans hf, h.slot x⟩

theorem quiet (h : SamePool s t) {p : PointId} (k : Quiet s p) : Quiet t p where
  closing hc := by
    rw [h.queue]
    exact k.closing ((h.points p).2.1.symm.trans hc)
  head x hx := by
    rw [h.first] at hx
    obtain ⟨h1, h2, h3⟩ := k.head x hx
    rw [← h.slot x] at h1 h2 h3
    refine ⟨h1, fun ha hi => ?_, fun hr => by rw [h.held]; exact h3 hr⟩
    obtain ⟨hf, hc⟩ := h2 ha ((inFlight_congr h.txn x).symm.trans hi)
    refine ⟨hf, fun hcr => ?_⟩
    obtain ⟨b, hb, hs⟩ := hc hcr
    exact ⟨b, (h.buffers b).slot.trans hb, by rw [(h.buffers b).state]; exact hs⟩

theorem calm (h : SamePool s t) (k : Calm s) : Calm t := ⟨h.core k.core, fun p => h.quiet (k.quiet p)⟩

theorem waitsAgree (h : SamePool s t) (hw : t.bp.waitList = s.bp.waitList) (k : WaitsAgree s) : WaitsAgree t := by
  have hn : ∀ p, NeedsStaging t p ↔ NeedsStaging s p := fun p => by
    unfold NeedsStaging
    rw [(h.points p).1, (h.points p).2.1, (h.points p).2.2, h.first]
    simp only [h.slot]
  unfold WaitsAgree
  rw [hw]
  exact ⟨k.1, fun p => (k.2 p).trans (hn p).symm⟩

end SamePool

theorem raise_same (c : Cause) (s : State) : SamePool s (raise c s) := .of_eq rfl rfl rfl rfl rfl rfl

/-- The pool invariant does not see what lies beside the pool. -/
theorem PoolAgrees.same {s t : State} (k : PoolAgrees s) (h : SamePool s t) (hw : t.bp.waitList = s.bp.waitList)
    (hc : t.cu.count = s.cu.count) : PoolAgrees t :=
  (h.calm k.calm).agrees (by unfold HeldFull; rw [h.held, hc]; exact k.heldFull) (h.waitsAgree hw k.waits)

/-! ### The core through the operations of SP and BP -/

namespace PoolCore

variable {loose loose' : List BufId} {s t : State} {b : BufId} {p q : PointId} {x : SlotId} {rest : List SlotId}

/-- The exchange of a buffer is not that of a held point. -/
theorem not_held_of_jobs (h : PoolCore loose s) (hf : s.first p = some x) (hj : (s.slot x).jobs ≠ 0) : p ∉ s.cu.held :=
  fun hp => by
    obtain ⟨y, -, hy, -, hj', -⟩ := h.held.leads p hp
    obtain rfl : x = y := Option.some.inj (hf.symm.trans hy)
    exact hj hj'

theorem not_held_of_state (h : PoolCore loose s) (hf : s.first p = some x) (hg : (s.slot x).state ≠ .retiring) :
    p ∉ s.cu.held := fun hp => by
  obtain ⟨y, -, hy, hr, -⟩ := h.held.leads p hp
  obtain rfl : x = y := Option.some.inj (hf.symm.trans hy)
  exact hg hr

/-- The first exchange of a queue that has not ended leads it. -/
theorem leads (h : PoolCore loose s) (hq : s.queue p = x :: rest) (hg : (s.slot x).state ≠ .retiring) : Leads s p x rest where
  queue := hq
  point := h.slots.point_of_first (first_eq_some.mpr ⟨rest, hq⟩)
  staged b hb := by
    have hp := ((h.buffers.staged p b).mp hb).1
    obtain ⟨y, ho⟩ := h.buffers.owner_of_point hp
    obtain rfl : y = x := Option.some.inj (ho.2.2.1.symm.trans (first_eq_some.mpr ⟨rest, hq⟩))
    exact ⟨hp, ho.2.1⟩
  notHeld := h.not_held_of_state (first_eq_some.mpr ⟨rest, hq⟩) hg
  behind y hy := by
    have hnd := (h.slots.queues p).1
    rw [hq] at hnd
    have hyq := h.slots.behind p x rest hq y hy
    have hmem : y ∈ s.queue p := by rw [hq]; exact List.mem_cons_of_mem _ hy
    obtain ⟨-, -, -, hj, hf⟩ := h.slots.queued y hyq
    exact ⟨fun k => (List.nodup_cons.mp hnd).1 (k ▸ hy), hyq, h.slots.point_of_mem hmem, hj, hf,
      fun b _ => h.buffers.jobs_eq_zero.mp hj b⟩

theorem free (h : PoolCore loose s) (hb : b ∈ loose ∨ (s.buffer b).state = .staged)
    (ht : ∀ u, s.le.txn = some u → u.buffer ≠ b) (ho : OwnedBy s b p x)
    (hl : ∀ c, c ∈ loose' ↔ c ∈ loose ∧ c ≠ b) : PoolCore loose' (freeBuffer b s) := by
  have hbuf := h.buffers.free hb ht ho hl
  obtain ⟨hp, hx, hf, ha, -⟩ := ho
  have hjobs : (s.slot x).jobs ≠ 0 := fun k => h.buffers.jobs_eq_zero.mp k b hx
  have hnq : (s.slot x).state ≠ .queued := by rcases ha with ha | ha <;> rw [ha] <;> nofun
  refine ⟨h.slots.change (freeBuffer_freeList b s) (fun q => freeBuffer_queue b q s) (fun y => ?_) (fun q => ?_)
    fun q => ?_, hbuf, ?_⟩
  · rw [freeBuffer_slot]
    split
    · next hxy =>
      obtain rfl := Option.some.inj (hx.symm.trans hxy)
      exact .inr ⟨h.slots.taken_of_first hf, h.slots.taken_of_first hf, rfl, .inr ⟨p, hf⟩, fun k => absurd k hnq,
        h.slots.status x⟩
    · exact .inl rfl
  · rw [freeBuffer_point]
    split
    · exact h.slots.limit q
    · exact h.slots.limit q
  · rw [freeBuffer_point]
    split
    · exact h.slots.disabled q
    · exact h.slots.disabled q
  · have hcu : (freeBuffer b s).cu = s.cu := by
      rw [freeBuffer_eq hp hx]
      rfl
    refine h.held.change (hcu ▸ h.held.nodup) (fun q hq => hcu ▸ hq) fun q y _ hy _ hj =>
      ⟨(freeBuffer_first b q s).trans hy, ?_⟩
    rw [freeBuffer_slot, if_neg fun k => ?_]
    rw [← Option.some.inj (hx.symm.trans k)] at hj
    exact hjobs hj

/-- The first exchange of a queue takes another record: it stays past QUEUED, and RETIRING only with no transaction of it
in flight and no STAGED buffer. -/
theorem setHead (h : PoolCore loose s) {e : Slot} (hf : s.first p = some x) (hp : e.point = (s.slot x).point)
    (hj : e.jobs = (s.slot x).jobs)
    (hg : e.state = (s.slot x).state ∨ e.state = .retiring ∧ inFlight s x = false ∧
      ∀ b, (s.buffer b).slot = some x → (s.buffer b).state ≠ .staged)
    (hq : e.state = .queued → e.bytesLine = 0 ∧ e.bytesMemory = 0 ∧ e.errors = 0 ∧ e.faultMark = false)
    (hst : e.status.isSome = true ↔ e.state = .retiring)
    (hh : p ∈ s.cu.held → e = s.slot x) : PoolCore loose (s.setSlot x e) := by
  have hfree : e.state ≠ .free := by
    rcases hg with hg | ⟨hg, -⟩
    · rw [hg]
      exact h.slots.taken_of_first hf
    · rw [hg]
      nofun
  refine ⟨h.slots.setSlot ⟨h.slots.taken_of_first hf, hfree, hp, .inr ⟨p, hf⟩, fun k => ?_, hst⟩,
    h.buffers.change (fun b => .refl _) (fun y => ?_) (fun _ => rfl) (fun _ _ => rfl) (fun b q y ho => ⟨ho.2.2.1, ?_⟩)
      rfl rfl, h.held.change h.held.nodup (fun _ => id) fun q y hqh hy _ _ => ⟨hy, ?_⟩⟩
  · obtain ⟨h1, h2, h3, h4⟩ := hq k
    have hxq : (s.slot x).state = .queued := by
      rcases hg with hg | ⟨hg, -⟩
      · rw [← hg, k]
      · rw [hg] at k
        cases k
    exact ⟨h1, h2, h3, by rw [hj, (h.slots.queued x hxq).2.2.2.1], h4⟩
  · rw [State.slot_setSlot]
    split
    · next hxy => rw [← hxy, hj]
    · rfl
  · rw [State.slot_setSlot]
    split
    · next hxy =>
      subst hxy
      exact hg.imp_right fun ⟨h1, h2, h3⟩ => ⟨h1, h3 b ho.2.1, .inr h2⟩
    · exact .inl rfl
  · rw [State.slot_setSlot]
    split
    · next hxy =>
      subst hxy
      exact hh (h.slots.first_eq hy hf ▸ hqh)
    · rfl

/-- A QUEUED exchange takes cancel_requested. -/
theorem markQueued (h : PoolCore loose s) (hx : x ∈ s.queue p) (hg : (s.slot x).state = .queued) :
    PoolCore loose (s.setSlot x { s.slot x with cancelRequested := true }) := by
  refine ⟨h.slots.setSlot ⟨h.slots.taken_of_mem hx, h.slots.taken_of_mem hx, rfl, .inl hg, h.slots.queued x,
    h.slots.status x⟩, h.buffers.change (fun b => .refl _) (fun y => ?_) (fun _ => rfl) (fun _ _ => rfl)
      (fun b q y ho => ⟨ho.2.2.1, .inl ?_⟩) rfl rfl, h.held.change h.held.nodup (fun _ => id) fun q y _ hy hr _ => ⟨hy, ?_⟩⟩
  · rw [State.slot_setSlot]
    split
    · next hxy => rw [← hxy]
    · rfl
  · rw [State.slot_setSlot]
    split
    · next hxy => rw [← hxy]
    · rfl
  · rw [State.slot_setSlot, if_neg fun hxy => ?_]
    rw [← hxy, hg] at hr
    cases hr

/-- A slot with no job leaves its queue: the record of a held exchange is written first (R41, R43). -/
theorem freeSlot (h : PoolCore loose s) (hx : x ∈ s.queue p) (hj : (s.slot x).jobs = 0)
    (hh : p ∈ s.cu.held → s.first p ≠ some x) : PoolCore loose (freeSlot x p s) := by
  have hfirst : ∀ q y, s.first q = some y → x ≠ y → (Machine.freeSlot x p s).first q = some y := fun q y hy hxy => by
    by_cases hpq : p = q
    · subst hpq
      obtain ⟨rest, hq⟩ := first_eq_some.mp hy
      exact first_eq_some.mpr ⟨rest.erase x, by
        rw [freeSlot_queue, if_pos rfl, hq, List.erase_cons_tail (by simpa using Ne.symm hxy)]⟩
    · rw [freeSlot_first_other hpq]
      exact hy
  refine ⟨h.slots.freeSlot hx, h.buffers.change (fun b => .refl _) (fun y => ?_) (fun _ => rfl) (fun _ _ => rfl)
    (fun b q y ho => ?_) rfl rfl, h.held.change h.held.nodup (fun _ => id) fun q y hq hy _ _ => ?_⟩
  · rw [freeSlot_slot]
    split
    · next hxy => rw [← hxy, hj]; rfl
    · rfl
  · have hxy : x ≠ y := fun hxy => h.buffers.jobs_eq_zero.mp hj b (hxy ▸ ho.2.1)
    exact ⟨hfirst q y ho.2.2.1 hxy, .inl (by rw [freeSlot_slot, if_neg hxy])⟩
  · have hxy : x ≠ y := fun hxy => by
      subst hxy
      have hpq : p = q := h.slots.point_eq hx (SlotsAgree.mem_of_first hy)
      exact hh (hpq ▸ hq) (hpq ▸ hy)
    exact ⟨hfirst q y hy hxy, by rw [freeSlot_slot, if_neg hxy]⟩

/-- A point whose first exchange has ended with its record due joins the held list (R156). -/
theorem joinHeld (h : PoolCore loose s) (w : Bool) {st : Status} (hf : s.first p = some x)
    (hr : (s.slot x).state = .retiring) (hj : (s.slot x).jobs = 0) (hs : (s.slot x).status = some st)
    (hd : CompletionIsDue (s.slot x) st) (hp : p ∉ s.cu.held) : PoolCore loose (joinHeld w p s) := by
  rw [joinHeld_eq]
  refine ⟨h.slots.congr rfl fun _ => ⟨rfl, rfl⟩, h.buffers.change (fun b => .refl _) (fun _ => rfl) (fun _ => rfl)
    (fun _ _ => rfl) (fun b q y ho => ⟨ho.2.2.1, .inl rfl⟩) rfl rfl, ⟨?_, fun q hq => ?_⟩⟩
  · exact List.nodup_append.mpr ⟨h.held.nodup, List.nodup_singleton p, fun a ha c hc hac =>
      hp (List.mem_singleton.mp hc ▸ hac ▸ ha)⟩
  · rcases List.mem_append.mp hq with hq | hq
    · exact h.held.leads q hq
    · rw [List.mem_singleton.mp hq]
      exact ⟨x, st, hf, hr, hj, hs, hd⟩

theorem setPoint (h : PoolCore loose s) {v : Point} (hs : v.staged = (s.point p).staged)
    (hd : s.first p ≠ none → v.cfg.direction = (s.point p).cfg.direction)
    (hlimit : (s.queue p).length ≤ v.cfg.queueLimit) (hdis : v.state = .disabled → s.queue p = []) :
    PoolCore loose (s.setPoint p v) := by
  refine ⟨h.slots.setPoint hlimit hdis, h.buffers.change (fun b => .refl _) (fun _ => rfl) (fun q => ?_) (fun q hq => ?_)
    (fun b q y ho => ⟨ho.2.2.1, .inl rfl⟩) rfl rfl, h.held.change h.held.nodup (fun _ => id) fun q y _ hy _ _ => ⟨hy, rfl⟩⟩
  · rw [State.point_setPoint]
    split
    · next hpq => rw [← hpq, hs]
    · rfl
  · rw [State.point_setPoint]
    split
    · next hpq =>
      subst hpq
      exact hd hq
    · rfl

end PoolCore

end Sys2Proof.Machine
end

section
namespace Sys2Proof.Machine
set_option Elab.async false

/-! ### What a walk does beside the records (R153, R156) -/

/-- Records are added to the ring while it has room, and points are held once it is full; the wait list and the mover
stand. -/
structure WalkMoves (s t : State) : Prop where
  room : s.cu.count ≤ 64 → t.cu.count ≤ 64
  grows : s.cu.count ≤ t.cu.count
  full : s.cu.count ≤ 64 → HeldFull s → HeldFull t
  waits : t.bp.waitList = s.bp.waitList
  mover : (s.pm.state = .idle → s.pm.job = none) → t.pm.state = .idle → t.pm.job = none
  line : t.le = s.le

namespace WalkMoves

variable {s t u : State}

theorem trans (h : WalkMoves s t) (k : WalkMoves t u) : WalkMoves s u :=
  ⟨fun r => k.room (h.room r), h.grows.trans k.grows, fun r f => k.full (h.room r) (h.full r f), k.waits.trans h.waits,
    fun i => k.mover (h.mover i), k.line.trans h.line⟩

theorem of_eq (h : t.cu = s.cu) (hw : t.bp.waitList = s.bp.waitList) (hm : t.pm = s.pm) (hl : t.le = s.le) :
    WalkMoves s t :=
  ⟨fun r => h ▸ r, h ▸ Nat.le_refl _, fun _ f => by unfold HeldFull; rw [h]; exact f, hw, fun k => hm ▸ k, hl⟩

theorem refl (s : State) : WalkMoves s s := .of_eq rfl rfl rfl rfl

end WalkMoves

/-! ### Ending the first exchange of a queue (R40, R41) -/

theorem completionDue_eq {e : Slot} {st : Status} (h : e.status = some st) :
    completionDue e = true ↔ CompletionIsDue e st := by
  cases st <;> simp [completionDue, h, Status.alwaysPosted, CompletionIsDue]

/-- The point `p` alone has changed, and its exchange `x` still leads `rest`. -/
structure HeadChanged (loose : List BufId) (p : PointId) (x : SlotId) (rest : List SlotId) (s t : State) : Prop where
  core : PoolCore loose t
  spares : Spares p s t
  queue : t.queue p = x :: rest
  moves : WalkMoves s t

theorem HeadChanged.trans {loose loose' : List BufId} {p : PointId} {x : SlotId} {rest : List SlotId} {s t u : State}
    (h : HeadChanged loose p x rest s t) (k : HeadChanged loose' p x rest t u) : HeadChanged loose' p x rest s u :=
  ⟨k.core, h.spares.trans k.spares, k.queue, h.moves.trans k.moves⟩

theorem stagedFreed_moves (s : State) (x : SlotId) (p : PointId) : WalkMoves s (stagedFreed s x p) := by
  unfold stagedFreed
  split
  · split
    · exact .of_eq rfl rfl rfl rfl
    · exact .refl s
  · exact .refl s

namespace PoolCore

variable {s t : State} {p q : PointId} {x : SlotId} {rest : List SlotId}

theorem headChanged_refl {loose : List BufId} (h : PoolCore loose s) (hq : s.queue p = x :: rest) :
    HeadChanged loose p x rest s s :=
  ⟨h, .refl p s, hq, .refl s⟩

/-- A buffer of an exchange that is not STAGED stays when the STAGED one is freed. -/
theorem stagedFreed_buffers (h : PoolCore [] s) (hf : s.first p = some x) (hi : inFlight s x = false) :
    PoolCore [] (stagedFreed s x p) ∧ ∀ b, ((stagedFreed s x p).buffer b).slot = some x →
      (s.buffer b).slot = some x ∧ (stagedFreed s x p).buffer b = s.buffer b ∧ (s.buffer b).state ≠ .staged := by
  have hown : ∀ b, (s.buffer b).state = .staged → (s.buffer b).slot = some x → (s.point p).staged = some b :=
    fun b hb hx => by
      obtain ⟨q, ho⟩ := h.buffers.owner_of_slot hx
      rw [h.slots.first_eq hf ho.2.2.1]
      exact (h.buffers.staged q b).mpr ⟨ho.1, .inr hb⟩
  unfold stagedFreed
  split
  · next b hs =>
    split
    · next hb =>
      obtain ⟨hb, hx⟩ := hb
      have hp := ((h.buffers.staged p b).mp hs).1
      obtain ⟨y, ho⟩ := h.buffers.owner_of_point hp
      obtain rfl : y = x := Option.some.inj (ho.2.1.symm.trans hx)
      have hcore : PoolCore [] (freeBuffer b s) := h.free (.inr hb) (fun u hu hub => ?_) ho (by simp)
      · rw [freeBuffer_eq hp hx] at hcore
        refine ⟨hcore, fun c hc => ?_⟩
        rw [bufferFreed_buffer] at hc ⊢
        split at hc
        · cases hc
        · next hbc =>
          rw [if_neg hbc]
          exact ⟨hc, rfl, fun hcs => hbc (Option.some.inj (hs.symm.trans (hown c hcs hc)))⟩
      · have ho' := h.buffers.owner_of_txn hu
        rw [hub] at ho'
        have hux : u.slot = y := Option.some.inj (ho'.2.1.symm.trans hx)
        unfold inFlight at hi
        rw [hu] at hi
        exact of_decide_eq_false hi hux
    · next hb =>
      exact ⟨h, fun c hc => ⟨hc, rfl, fun hcs =>
        hb ⟨Option.some.inj (hs.symm.trans (hown c hcs hc)) ▸ hcs, Option.some.inj (hs.symm.trans (hown c hcs hc)) ▸ hc⟩⟩⟩
  · next hs => exact ⟨h, fun c hc => ⟨hc, rfl, fun hcs => absurd (hs.symm.trans (hown c hcs hc)) nofun⟩⟩

/-- A job besides the STAGED buffer is another buffer's. -/
theorem job_besides (h : PoolCore [] s) (hq : s.queue p = x :: rest) (hg : (s.slot x).state ≠ .retiring)
    (hi : inFlight s x = false) (hj : jobsBesidesStaged s x ≠ 0) :
    ∃ b, (s.buffer b).slot = some x ∧ (s.buffer b).state ≠ .staged := by
  obtain ⟨hc, hb⟩ := h.stagedFreed_buffers (first_eq_some.mpr ⟨rest, hq⟩) hi
  rw [(h.leads hq hg).jobsBesidesStaged_eq, Ne, hc.buffers.jobs_eq_zero] at hj
  obtain ⟨b, hbx⟩ := not_forall.mp hj
  obtain ⟨h1, -, h3⟩ := hb b (not_not.mp hbx)
  exact ⟨b, h1, h3⟩

/-- An exchange with no transaction in flight ends (R40). -/
theorem endWith (h : PoolCore [] s) (hq : s.queue p = x :: rest) (hg : (s.slot x).state ≠ .retiring)
    (hi : inFlight s x = false) (st : Status) : HeadChanged [] p x rest s (endWith x st s) := by
  have hl := h.leads hq hg
  have hf : s.first p = some x := first_eq_some.mpr ⟨rest, hq⟩
  obtain ⟨hc, hb⟩ := h.stagedFreed_buffers hf hi
  have hslot := stagedFreed_slot s x p x
  rw [if_pos rfl] at hslot
  have hstate : ((stagedFreed s x p).slot x).state = (s.slot x).state := by rw [hslot]
  have hq' : (stagedFreed s x p).queue p = x :: rest := by rw [stagedFreed_queue, hq]
  rw [hl.endWith_eq]
  refine ⟨hc.setHead (p := p) (first_eq_some.mpr ⟨rest, hq'⟩) rfl rfl (.inr ⟨rfl, ?_, fun b hbx => ?_⟩) nofun
    (iff_of_true rfl rfl) (fun k => absurd k (hc.not_held_of_state (first_eq_some.mpr ⟨rest, hq'⟩) (by rw [hstate]; exact hg))), .of_beside ?_ (fun q _ k => ?_) ?_, hq', ?_⟩
  · unfold inFlight at hi ⊢
    rw [(stagedFreed_moves s x p).line]
    exact hi
  · obtain ⟨-, h2, h3⟩ := hb b hbx
    rw [h2]
    exact h3
  · exact (Beside.stagedFreed hl.point fun b k => (hl.staged b k).1).trans (.setSlot (by rw [hslot]; exact hl.point) nofun)
  · exact (stagedFreed_cu s x p).symm ▸ k
  · exact congrArg LineEngine.txn (stagedFreed_moves s x p).line
  · exact (stagedFreed_moves s x p).trans (.of_eq rfl rfl rfl rfl)

theorem endExchange (h : PoolCore [] s) (hq : s.queue p = x :: rest) (hi : inFlight s x = false) (c : Status) :
    HeadChanged [] p x rest s (endExchange x c s) := by
  unfold Machine.endExchange
  split
  · next hg => exact h.endWith hq (by rw [hg]; nofun) hi _
  · next hg => exact h.endWith hq (by rw [hg]; nofun) hi _
  · exact h.headChanged_refl hq
  · exact h.headChanged_refl hq

theorem endWith_retiring (h : PoolCore [] s) (hq : s.queue p = x :: rest) (hg : (s.slot x).state ≠ .retiring)
    (st : Status) : ((Machine.endWith x st s).slot x).state = .retiring := by
  rw [(h.leads hq hg).endWith_eq, retired_slot]

/-- The transaction in flight is of an ACTIVE exchange. -/
theorem inFlight_of_state (h : PoolCore [] s) (hg : (s.slot x).state ≠ .active) : inFlight s x = false := by
  unfold inFlight
  split
  · next u hu => exact decide_eq_false fun hux => hg (hux ▸ (h.buffers.txn u hu).2.1)
  · rfl

/-- What a pending mark makes due is done: the exchange is RETIRING, or quiet. -/
theorem endPending (h : PoolCore [] s) (hq : s.queue p = x :: rest) : HeadChanged [] p x rest s (endPending x s) ∧
    (((endPending x s).slot x).state ≠ .retiring → HeadQuiet (endPending x s) p x) := by
  have hend : ∀ c, inFlight s x = false → (s.slot x).state = .queued ∨ (s.slot x).state = .active →
      HeadChanged [] p x rest s (Machine.endExchange x c s) ∧
        (((Machine.endExchange x c s).slot x).state ≠ .retiring → HeadQuiet (Machine.endExchange x c s) p x) :=
    fun c hi hg => by
      have hr : ((Machine.endExchange x c s).slot x).state = .retiring := by
        unfold Machine.endExchange
        rcases hg with hg | hg <;> rw [hg] <;> exact h.endWith_retiring hq (by rw [hg]; nofun) _
      exact ⟨h.endExchange hq hi c, fun k => absurd hr k⟩
  unfold Machine.endPending
  dsimp only
  split
  · next hg =>
    have hi := h.inFlight_of_state (x := x) (by rw [hg]; nofun)
    split
    · exact hend _ hi (.inl hg)
    · next hc =>
      refine ⟨h.headChanged_refl hq, fun _ => ⟨fun _ => by simpa using hc, fun k => ?_, fun k => ?_⟩⟩
      · rw [hg] at k
        cases k
      · rw [hg] at k
        cases k
  · next hg =>
    have hquiet : (inFlight s x = false → (s.slot x).faultMark = false ∧ ((s.slot x).cancelRequested = true →
        ∃ b, (s.buffer b).slot = some x ∧ (s.buffer b).state ≠ .staged)) → HeadQuiet s p x := fun k =>
      ⟨fun e => absurd (hg.symm.trans e) nofun, fun _ => k, fun e => absurd (hg.symm.trans e) nofun⟩
    split
    · next hi => exact ⟨h.headChanged_refl hq, fun _ => hquiet fun k => absurd (hi.symm.trans k) nofun⟩
    · next hi =>
      have hi' : inFlight s x = false := by simpa using hi
      split
      · exact hend _ hi' (.inr hg)
      · next hm =>
        split
        · exact hend _ hi' (.inr hg)
        · next hc =>
          refine ⟨h.headChanged_refl hq, fun _ => hquiet fun _ => ⟨by simpa using hm, fun hcr => ?_⟩⟩
          exact h.job_besides hq (by rw [hg]; nofun) hi' fun hj => hc ⟨hcr, hj⟩
  · next hg => exact ⟨h.headChanged_refl hq, fun k => absurd hg k⟩
  · next hg => exact absurd hg (h.slots.taken_of_first (first_eq_some.mpr ⟨rest, hq⟩))

end PoolCore

/-! ### Leaving RETIRING and following a queue (R19, R41, R42) -/

/-- The cases of a first exchange that may leave RETIRING. -/
theorem retireFirst_cases (w : Bool) (p : PointId) (x : SlotId) (s : State) :
    (¬ ((s.slot x).state = .retiring ∧ (s.slot x).jobs = 0) ∧ retireFirst w p x s = (s, false)) ∨
      ((s.slot x).state = .retiring ∧ (s.slot x).jobs = 0 ∧
        (completionDue (s.slot x) = true ∧ canPost s = true ∧
            retireFirst w p x s = (freeSlot x p (postRecord x p s), true) ∨
          completionDue (s.slot x) = false ∧ retireFirst w p x s = (freeSlot x p s, true) ∨
          completionDue (s.slot x) = true ∧ canPost s = false ∧ p ∈ s.cu.held ∧ retireFirst w p x s = (s, false) ∨
          completionDue (s.slot x) = true ∧ canPost s = false ∧ p ∉ s.cu.held ∧
            retireFirst w p x s = (joinHeld w p s, false))) := by
  unfold retireFirst
  by_cases hr : (s.slot x).state = .retiring ∧ (s.slot x).jobs = 0
  · refine .inr ⟨hr.1, hr.2, ?_⟩
    rw [if_pos hr]
    cases completionDue (s.slot x) <;> cases canPost s <;> by_cases hp : p ∈ s.cu.held <;> simp [hp]
  · exact .inl ⟨hr, if_neg hr⟩

/-- The point `p` alone has changed, and its queue is `rest`. -/
structure HeadGone (p : PointId) (rest : List SlotId) (s t : State) : Prop where
  core : PoolCore [] t
  spares : Spares p s t
  queue : t.queue p = rest
  moves : WalkMoves s t

theorem freeSlot_spares {p : PointId} {x : SlotId} {s : State} (hx : (s.slot x).point = some p) :
    Spares p s (freeSlot x p s) where
  points _ _ := rfl
  queues q hq := by rw [freeSlot_queue, if_neg (Ne.symm hq)]
  slots y hy := by rw [freeSlot_slot, if_neg fun (hxy : x = y) => hy (hxy ▸ hx)]
  buffers _ _ _ := rfl
  held _ _ := id
  txn _ := id

theorem joinHeld_spares (w : Bool) (p : PointId) (s : State) : Spares p s (joinHeld w p s) := by
  rw [joinHeld_eq]
  exact ⟨fun _ _ => rfl, fun _ _ => rfl, fun _ _ => rfl, fun _ _ _ => rfl, fun q _ hq => List.mem_append_left _ hq,
    fun _ => id⟩

theorem postRecord_same (x : SlotId) (p : PointId) (s : State) : SamePool s (postRecord x p s) :=
  .of_eq rfl rfl rfl rfl rfl rfl

theorem postRecord_moves {x : SlotId} {p : PointId} {s : State} (h : s.cu.held = [] ∧ s.cu.count < 64) :
    WalkMoves s (postRecord x p s) :=
  ⟨fun _ => h.2, Nat.le_succ _, fun _ _ k => absurd h.1 k, rfl, id, rfl⟩

theorem joinHeld_moves {w : Bool} {p : PointId} {s : State} (h : canPost s = false) : WalkMoves s (joinHeld w p s) := by
  rw [joinHeld_eq]
  refine ⟨id, Nat.le_refl _, fun hc hf _ => ?_, rfl, id, rfl⟩
  have hc' : ¬ (s.cu.held = [] ∧ s.cu.count < 64) := fun k => by
    rw [(canPost_iff s).mpr k] at h
    cases h
  by_cases hh : s.cu.held = []
  · exact Nat.le_antisymm hc (Nat.not_lt.mp fun k => hc' ⟨hh, k⟩)
  · exact hf hh

theorem reachDisabled_moves (p : PointId) (s : State) : WalkMoves s (reachDisabled p s) := .of_eq rfl rfl rfl rfl

namespace PoolCore

variable {s t : State} {p q : PointId} {x : SlotId} {rest : List SlotId}

/-- The first exchange leaves RETIRING where R41 lets it, or is quiet. -/
theorem retireFirst (h : PoolCore [] s) (w : Bool) (hq : s.queue p = x :: rest)
    (hh : (s.slot x).state ≠ .retiring → HeadQuiet s p x) :
    ((retireFirst w p x s).2 = true ∧ HeadGone p rest s (retireFirst w p x s).1) ∨
      ((retireFirst w p x s).2 = false ∧ HeadChanged [] p x rest s (retireFirst w p x s).1 ∧
        HeadQuiet (retireFirst w p x s).1 p x) := by
  have hf : s.first p = some x := first_eq_some.mpr ⟨rest, hq⟩
  have hx : x ∈ s.queue p := SlotsAgree.mem_of_first hf
  have hp := h.slots.point_of_first hf
  have herase : (s.queue p).erase x = rest := by rw [hq, List.erase_cons_head]
  have hretiring : ∀ {u : State}, (u.slot x).state = .retiring → (u.slot x).jobs ≠ 0 ∨ p ∈ u.cu.held → HeadQuiet u p x :=
    fun hr k => ⟨fun e => absurd (hr.symm.trans e) nofun, fun e => absurd (hr.symm.trans e) nofun, fun _ => k⟩
  rcases retireFirst_cases w p x s with ⟨hn, e⟩ | ⟨hr, hj, hcase⟩
  · rw [e]
    refine .inr ⟨rfl, h.headChanged_refl hq, ?_⟩
    by_cases hr : (s.slot x).state = .retiring
    · exact hretiring hr (.inl fun hj => hn ⟨hr, hj⟩)
    · exact hh hr
  · obtain ⟨st, hst⟩ := Option.isSome_iff_exists.mp ((h.slots.status x).mpr hr)
    rcases hcase with ⟨-, hc, e⟩ | ⟨hd, e⟩ | ⟨-, -, hheld, e⟩ | ⟨hd, hc, hheld, e⟩
    · rw [e]
      obtain ⟨hh, hn⟩ := (canPost_iff s).mp hc
      have hcore := (postRecord_same x p s).core h
      refine .inl ⟨rfl, hcore.freeSlot hx hj fun k => ?_, ?_, ?_, ?_⟩
      · have : p ∈ s.cu.held := k
        rw [hh] at this
        cases this
      · exact Spares.trans (t := postRecord x p s) (.of_eq rfl rfl rfl rfl rfl) (freeSlot_spares hp)
      · exact (freeSlot_queue x p _ p).trans ((if_pos rfl).trans herase)
      · exact (postRecord_moves ⟨hh, hn⟩).trans (.of_eq rfl rfl rfl rfl)
    · rw [e]
      refine .inl ⟨rfl, h.freeSlot hx hj fun k => ?_, freeSlot_spares hp, ?_, .of_eq rfl rfl rfl rfl⟩
      · obtain ⟨y, st', hy, -, -, hs, hdue⟩ := h.held.leads p k
        obtain rfl : x = y := Option.some.inj (hf.symm.trans hy)
        rw [(completionDue_eq hs).mpr hdue] at hd
        cases hd
      · exact (freeSlot_queue x p _ p).trans ((if_pos rfl).trans herase)
    · rw [e]
      exact .inr ⟨rfl, h.headChanged_refl hq, hretiring hr (.inr hheld)⟩
    · rw [e]
      refine .inr ⟨rfl, ⟨h.joinHeld w hf hr hj hst ((completionDue_eq hst).mp hd) hheld, joinHeld_spares w p s, ?_,
        joinHeld_moves hc⟩, ?_⟩
      · rw [joinHeld_eq]
        exact hq
      · rw [joinHeld_eq]
        exact hretiring hr (.inr (List.mem_append_right _ (List.mem_singleton_self p)))

/-- A point with nothing queued reaches DISABLED if it is CLOSING. -/
theorem closePoint (h : PoolCore [] s) (hq : s.queue p = []) : PoolCore [] (closePoint p s) ∧
    Spares p s (closePoint p s) ∧ Quiet (closePoint p s) p ∧ WalkMoves s (closePoint p s) := by
  unfold Machine.closePoint
  split
  · have hs : (s.point p).staged = none := h.buffers.staged_none (by rw [State.first, hq]; rfl)
    have hcore : PoolCore [] (s.setPoint p
        { s.point p with state := .disabled, deferCount := 0, haltCause := none, staged := none }) :=
      h.setPoint hs.symm (fun k => absurd (by rw [State.first, hq]; rfl) k) (h.slots.limit p) fun _ => hq
    have hsame : SamePool (s.setPoint p
        { s.point p with state := .disabled, deferCount := 0, haltCause := none, staged := none }) (reachDisabled p s) :=
      .of_eq rfl rfl rfl rfl rfl rfl
    refine ⟨hsame.core hcore, ?_, ?_, reachDisabled_moves p s⟩
    · rw [reachDisabled_eq]
      exact .of_beside (.pointClosed p s) (fun _ _ => id) rfl
    · refine .of_empty hq fun k => ?_
      have hp : ((reachDisabled p s).point p).state = .disabled := congrArg Point.state (State.point_setPoint_same ..)
      rw [hp] at k
      cases k
  · next hc => exact ⟨h, .refl p s, .of_empty hq hc, .refl s⟩

/-- Following the queue of a point leaves nothing due at it. -/
theorem advance (w : Bool) (p : PointId) (xs : List SlotId) : ∀ {s : State}, PoolCore [] s → s.queue p = xs →
    PoolCore [] (advance w p xs s) ∧ Spares p s (advance w p xs s) ∧ Quiet (advance w p xs s) p ∧
      WalkMoves s (advance w p xs s) := by
  induction xs with
  | nil => exact fun h hq => h.closePoint hq
  | cons x rest ih =>
    intro s h hq
    obtain ⟨he, hh⟩ := h.endPending hq
    rw [Machine.advance]
    rcases he.core.retireFirst w he.queue hh with ⟨hr, hg⟩ | ⟨hr, hg, hquiet⟩
    · rw [if_pos hr]
      obtain ⟨h1, h2, h3, h4⟩ := ih hg.core hg.queue
      exact ⟨h1, (he.spares.trans hg.spares).trans h2, h3, (he.moves.trans hg.moves).trans h4⟩
    · rw [if_neg (by rw [hr]; nofun)]
      refine ⟨hg.core, he.spares.trans hg.spares, ⟨fun _ => by rw [hg.queue]; nofun, fun y hy => ?_⟩, he.moves.trans hg.moves⟩
      rw [State.first, hg.queue] at hy
      rw [← Option.some.inj hy]
      exact hquiet

end PoolCore

/-- Following a queue makes the pool calm where its point alone had something due. -/
theorem calm_advance {w : Bool} {p : PointId} {s : State} (h : PoolCore [] s) (hq : ∀ q, q ≠ p → Quiet s q) :
    Calm (advance w p (s.queue p) s) ∧ WalkMoves s (advance w p (s.queue p) s) := by
  obtain ⟨h1, h2, h3, h4⟩ := PoolCore.advance w p (s.queue p) h rfl
  exact ⟨.of_spares h.slots h.buffers hq h1 h2 h3, h4⟩

end Sys2Proof.Machine
end

section
namespace Sys2Proof.Machine
set_option Elab.async false

/-! ### A point record changes -/

/-- A point that is not left CLOSING with nothing queued stays quiet. -/
theorem Calm.setPoint {s : State} (h : Calm s) {p : PointId} {v : Point} (hs : v.staged = (s.point p).staged)
    (hd : s.first p ≠ none → v.cfg.direction = (s.point p).cfg.direction)
    (hlimit : (s.queue p).length ≤ v.cfg.queueLimit) (hdis : v.state = .disabled → s.queue p = [])
    (hc : v.state = .closing → s.queue p ≠ []) : Calm (s.setPoint p v) where
  core := h.core.setPoint hs hd hlimit hdis
  quiet q := by
    refine ⟨fun hq => ?_, fun x hx => ?_⟩
    · rw [State.point_setPoint] at hq
      split at hq
      · next hpq => exact hpq ▸ hc hq
      · exact (h.quiet q).closing hq
    · exact ⟨((h.quiet q).head x hx).queued, ((h.quiet q).head x hx).active, ((h.quiet q).head x hx).retiring⟩

/-- A point takes another state, and its configuration stays. -/
theorem Calm.setState {s : State} (h : Calm s) {p : PointId} {v : Point} (hv : v.cfg = (s.point p).cfg)
    (hs : v.staged = (s.point p).staged) (hdis : v.state ≠ .disabled) (hc : v.state ≠ .closing) : Calm (s.setPoint p v) :=
  h.setPoint hs (fun _ => by rw [hv]) (by rw [hv]; exact h.core.slots.limit p) (fun k => absurd k hdis)
    fun k => absurd k hc

/-! ### Endings at a point, at a station, everywhere (R14, R15, R48, R49) -/

/-- From `s` a walk has come to a calm pool. -/
structure Reaches (s t : State) : Prop where
  calm : Calm t
  moves : WalkMoves s t

theorem Reaches.trans {s t u : State} (h : Reaches s t) (k : Reaches t u) : Reaches s u := ⟨k.calm, h.moves.trans k.moves⟩

theorem Calm.reaches {s : State} (h : Calm s) : Reaches s s := ⟨h, .refl s⟩

theorem inFlight_of_none {s : State} (h : s.le.txn = none) (x : SlotId) : inFlight s x = false := by
  unfold inFlight
  rw [h]

/-- The first exchange of a point has changed, and its queue is followed. -/
theorem HeadChanged.advancePoint {s t : State} {p : PointId} {x : SlotId} {rest : List SlotId} (k : HeadChanged [] p x rest s t)
    (hs : SlotsAgree s) {loose : List BufId} (hb : BuffersAgree loose s) (hq : ∀ q, q ≠ p → Quiet s q) :
    Reaches s (advancePoint p t) := by
  obtain ⟨h1, h2⟩ := calm_advance (w := false) k.core fun q hqp => k.spares.quiet hs hb hqp (hq q hqp)
  exact ⟨h1, k.moves.trans h2⟩

theorem endActive_reaches (c : Status) (p : PointId) {s : State} (h : Calm s) (hn : s.le.txn = none) :
    Reaches s (endActive c p s) := by
  unfold endActive
  split
  · next x hx =>
    split
    · obtain ⟨rest, hq⟩ := first_eq_some.mp hx
      exact (h.core.endExchange hq (inFlight_of_none hn x) c).advancePoint h.core.slots h.core.buffers fun q _ => h.quiet q
    · exact h.reaches
  · exact h.reaches

theorem haltPoint_reaches (c : HaltCause) (p : PointId) {s : State} (h : Calm s) : Reaches s (haltPoint c p s) := by
  have hhalt : Reaches s (raise .pointHalted (s.setPoint p { s.point p with state := .halted, haltCause := some c })) :=
    ⟨(raise_same _ _).calm
      (h.setState (p := p) (v := { s.point p with state := .halted, haltCause := some c }) rfl rfl nofun nofun),
      .of_eq rfl rfl rfl rfl⟩
  unfold haltPoint
  split
  · exact hhalt
  · exact hhalt
  · exact h.reaches
  · exact h.reaches
  · exact h.reaches

/-- A fold whose rounds reach a calm pool reaches one. -/
theorem foldl_reaches {α : Type} {f : State → α → State}
    (hf : ∀ t a, Calm t → t.le.txn = none → Reaches t (f t a)) (l : List α) {s : State} (h : Calm s) (hn : s.le.txn = none) :
    Reaches s (l.foldl f s) :=
  foldl_keeps (P := Reaches s) f (fun _ a k => k.trans (hf _ a k.calm (k.moves.line ▸ hn))) l s h.reaches

theorem endAllActive_reaches {s : State} (h : Calm s) (hn : s.le.txn = none) : Reaches s (endAllActive s) :=
  foldl_reaches (fun _ p k kn => endActive_reaches .lineReset p k kn) _ h hn

theorem stationGonePoint_reaches (c : HaltCause) (p : PointId) {s : State} (h : Calm s) (hn : s.le.txn = none) :
    Reaches s (stationGonePoint c p s) := by
  have hhalt : Reaches s (endActive .stationGone p (haltPoint c p s)) := by
    have k := haltPoint_reaches c p h
    exact k.trans (endActive_reaches _ p k.calm (k.moves.line ▸ hn))
  unfold stationGonePoint
  split
  · exact hhalt
  · exact hhalt
  · exact endActive_reaches _ p h hn
  · exact h.reaches
  · exact h.reaches

theorem stationGone_reaches (c : HaltCause) (i : StationId) {s : State} (h : Calm s) (hn : s.le.txn = none) :
    Reaches s (stationGone c i s) := by
  refine foldl_reaches (fun t p k kn => ?_) _ h hn
  split
  · exact stationGonePoint_reaches c p k kn
  · exact k.reaches

/-! ### Staging at the end of a happening (R134 to R136, R139) -/

theorem stagingCount_buffers (s : State) : stagingCount s = buffersStaging s := stagingCount_eq s

/-- A grant to a point that needs staging. -/
theorem Calm.grant {s : State} (h : Calm s) {p : PointId} {b : BufId} {x : SlotId} (hn : NeedsStaging s p)
    (hx : s.first p = some x) (hb : (s.buffer b).state = .free) (h6 : buffersStaging s < 6) : Calm (grant p b x s) := by
  obtain ⟨hready, hdir, hstaged, y, hy, hg, hcr, -⟩ := hn
  obtain rfl : y = x := Option.some.inj (hy.symm.trans hx)
  obtain ⟨hle, hcu, hfl⟩ := grant_frame p b y s
  have hslot := grant_slot p b y s
  have hnr : (s.slot y).state ≠ .retiring := by rcases hg with hg | hg <;> rw [hg] <;> nofun
  have hpoint : ∀ q, ((Machine.grant p b y s).point q).cfg = (s.point q).cfg ∧
      ((Machine.grant p b y s).point q).state = (s.point q).state := fun q => by
    rw [grant_point]
    split
    · next hqp => rw [hqp]; exact ⟨rfl, rfl⟩
    · exact ⟨rfl, rfl⟩
  have hcore : PoolCore [] (Machine.grant p b y s) := by
    refine ⟨h.core.slots.change hfl (grant_queue p b y s) (fun z => ?_) (fun q => ?_) (fun q hq => ?_),
      h.core.buffers.grant hb hx hdir hstaged h6, h.core.held.change (hcu ▸ h.core.held.nodup) (fun q hq => hcu ▸ hq)
        fun q z _ hz hr _ => ⟨(grant_first p b y s q).trans hz, ?_⟩⟩
    · rw [hslot]
      split
      · next hzy =>
        subst hzy
        exact .inr ⟨h.core.slots.taken_of_first hx, nofun, rfl, .inr ⟨p, hx⟩, nofun,
          iff_of_false (fun k => hnr ((h.core.slots.status z).mp k)) nofun⟩
      · exact .inl rfl
    · rw [(hpoint q).1]
      exact h.core.slots.limit q
    · rw [(hpoint q).2] at hq
      exact h.core.slots.disabled q hq
    · rw [hslot, if_neg fun (hzy : z = y) => hnr (hzy ▸ hr)]
  have hpy := h.core.slots.point_of_first hx
  refine .of_spares h.core.slots h.core.buffers (fun q _ => h.quiet q) hcore (p := p)
    ⟨fun q _ => (hpoint q).2, fun q _ => grant_queue p b y s q, fun z hz => ?_, fun c hc _ => ?_, fun q _ => hcu ▸ id,
      fun z hz => ?_⟩ ⟨fun hc => ?_, fun z hz => ?_⟩
  · rw [hslot, if_neg fun (hzy : z = y) => hz (hzy ▸ hpy)]
  · rw [grant_buffer, if_neg fun (hcb : c = b) => hc (hcb ▸ hb)]
  · exact (inFlight_congr (congrArg LineEngine.txn hle) z).symm.trans hz
  · rw [(hpoint p).2, hready] at hc
    cases hc
  · rw [grant_first] at hz
    obtain rfl : y = z := Option.some.inj (hx.symm.trans hz)
    have hyy := (hslot y).trans (if_pos rfl)
    refine ⟨fun k => ?_, fun _ hi => ⟨?_, fun k => ?_⟩, fun k => ?_⟩
    · rw [hyy] at k
      cases k
    · rw [hyy]
      rcases hg with hg | hg
      · exact (h.core.slots.queued y hg).2.2.2.2
      · exact (((h.quiet p).head y hx).active hg ((inFlight_congr (congrArg LineEngine.txn hle) y).symm.trans hi)).1
    · rw [hyy] at k
      exact absurd (hcr.symm.trans k) nofun
    · rw [hyy] at k
      cases k

/-- What a grant to a point leaves of the needs of the points: its own is met. -/
theorem needsStaging_grant {s : State} (hs : SlotsAgree s) {p q : PointId} {b : BufId} {x : SlotId} (hx : s.first p = some x) :
    NeedsStaging (grant p b x s) q ↔ NeedsStaging s q ∧ q ≠ p := by
  unfold NeedsStaging
  by_cases hqp : q = p
  · subst hqp
    rw [grant_point, if_pos rfl]
    exact iff_of_false (fun ⟨_, _, k, _⟩ => (nomatch k)) fun k => k.2 rfl
  · rw [grant_point, if_neg hqp, grant_first, and_iff_left hqp]
    refine and_congr_right fun _ => and_congr_right fun _ => and_congr_right fun _ => exists_congr fun y =>
      and_congr_right fun hy => ?_
    have hyx : y ≠ x := fun hyx => hqp (hs.first_eq (hyx ▸ hy) hx)
    rw [grant_slot, if_neg hyx]

/-- The grants keep the pool calm and the wait list that of the points that need staging. -/
theorem grants_calm (ps : List PointId) : ∀ {s : State}, Calm s → WaitsAgree s → ps.Nodup → (∀ p ∈ ps, NeedsStaging s p) →
    Calm (grants ps s) ∧ WaitsAgree (grants ps s) := by
  induction ps with
  | nil => exact fun h hw _ _ => ⟨h, hw⟩
  | cons p ps ih =>
    intro s h hw hn hps
    unfold grants
    split
    · next h6 =>
      split
      · next b x hb hx =>
        have hbf : (s.buffer b).state = .free := (lowestFree_lowest hb).1
        obtain ⟨hp, hn'⟩ := List.nodup_cons.mp hn
        have hneeds : ∀ q, NeedsStaging (grant p b x s) q ↔ NeedsStaging s q ∧ q ≠ p := fun q =>
          needsStaging_grant h.core.slots hx
        refine ih (h.grant (hps p List.mem_cons_self) hx hbf (stagingCount_buffers s ▸ h6)) ?_ hn' fun q hq => ?_
        · unfold WaitsAgree
          rw [grant_waitList]
          refine ⟨hw.1.erase p, fun q => ?_⟩
          rw [hw.1.mem_erase_iff, hneeds, hw.2, and_comm]
        · exact (hneeds q).mpr ⟨hps q (List.mem_cons_of_mem _ hq), fun hqp => hp (hqp ▸ hq)⟩
      · exact ⟨h, hw⟩
    · exact ⟨h, hw⟩

/-- A mover that takes a job keeps the pool. -/
theorem Calm.takeJob {s : State} (h : Calm s) (hidle : s.pm.state = .idle → s.pm.job = none) : Calm (takeJob s) := by
  have hb := h.core.buffers.takeJob hidle
  rw [takeJob_blocks] at hb ⊢
  exact ⟨⟨h.core.slots.congr rfl fun _ => ⟨rfl, rfl⟩, hb, h.core.held.change h.core.held.nodup (fun _ => id)
    fun _ _ _ hf _ _ => ⟨hf, rfl⟩⟩, fun p => ⟨(h.quiet p).closing, fun x hx =>
      ⟨((h.quiet p).head x hx).queued, ((h.quiet p).head x hx).active, ((h.quiet p).head x hx).retiring⟩⟩⟩

theorem mem_waitOrder_iff {s : State} {p : PointId} : p ∈ waitOrder s ↔ NeedsStaging s p := by
  refine ⟨mem_waitOrder, fun h => ?_⟩
  simp only [waitOrder, List.mem_append, List.mem_filter, Bool.and_eq_true, decide_eq_true_iff]
  by_cases hp : p ∈ s.bp.waitList
  · exact .inl ⟨hp, h⟩
  · exact .inr ⟨List.mem_finRange p, h, hp⟩

/-- What a happening leaves for its end: the pool is calm, and the wait list has yet to be brought up to date. -/
structure Unserved (s : State) : Prop where
  calm : Calm s
  ring : s.cu.count ≤ 64
  full : HeldFull s
  waits : s.bp.waitList.Nodup
  mover : s.pm.state = .idle → s.pm.job = none

/-- A walk goes on from it. -/
theorem Unserved.walks {s t : State} (h : Unserved s) (k : Reaches s t) : Unserved t :=
  ⟨k.calm, k.moves.room h.ring, k.moves.full h.ring h.full, k.moves.waits ▸ h.waits, k.moves.mover h.mover⟩

/-- It does not see what lies beside the pool. -/
theorem Unserved.same {s t : State} (h : Unserved s) (k : SamePool s t) (hw : t.bp.waitList = s.bp.waitList)
    (hc : t.cu.count = s.cu.count) : Unserved t :=
  ⟨k.calm h.calm, hc ▸ h.ring, by unfold HeldFull; rw [k.held, hc]; exact h.full, hw ▸ h.waits, k.mover ▸ h.mover⟩

/-- The staging at the end of a happening makes the pool agree. -/
theorem Unserved.settle {s : State} (h : Unserved s) : PoolAgrees (settle s) := by
  have hsame : SamePool s { s with bp := { s.bp with waitList := waitOrder s } } := .of_eq rfl rfl rfl rfl rfl rfl
  have hw : WaitsAgree { s with bp := { s.bp with waitList := waitOrder s } } :=
    ⟨waitOrder_nodup h.waits, fun p => mem_waitOrder_iff⟩
  obtain ⟨hc, hg⟩ := grants_calm (waitOrder s) (hsame.calm h.calm) hw hw.1 fun p hp =>
    (mem_waitOrder hp : NeedsStaging s p)
  have hcu : ∀ (ps : List PointId) (t : State), (grants ps t).cu = t.cu ∧ ((grants ps t).pm.state = t.pm.state ∧
      (grants ps t).pm.job = t.pm.job) := by
    intro ps
    induction ps with
    | nil => exact fun _ => ⟨rfl, rfl, rfl⟩
    | cons p ps ih =>
      intro t
      unfold grants
      split
      · split
        · obtain ⟨h1, h2, h3⟩ := ih (Machine.grant p _ _ t)
          rw [h1, h2, h3, grant_pm, (grant_frame ..).2.1]
          exact ⟨rfl, rfl, rfl⟩
        · exact ⟨rfl, rfl, rfl⟩
      · exact ⟨rfl, rfl, rfl⟩
  unfold Machine.settle
  dsimp only
  rw [updatedWaitList_eq]
  obtain ⟨hcu1, hpm, hjob⟩ := hcu (waitOrder s) { s with bp := { s.bp with waitList := waitOrder s } }
  have ht := hc.takeJob fun k => hjob.trans (h.mover (hpm ▸ k))
  rw [takeJob_blocks] at ht ⊢
  refine ht.agrees ?_ ?_
  · unfold HeldFull
    rw [hcu1]
    exact h.full
  · exact hg

/-! ### The choice (R74, R75) -/

/-- What the beginning of a transaction of `x` at `p` leaves of the records. -/
structure BeginsAt (p : PointId) (x : SlotId) (s t : State) : Prop where
  slots : SlotsAgree t
  buffers : BuffersAgree [] t
  queue : ∀ q, t.queue q = s.queue q
  others : ∀ y, y ≠ x → t.slot y = s.slot y
  active : (t.slot x).state = .active
  kept : ∀ c, (s.buffer c).state ≠ .free → t.buffer c = s.buffer c
  waits : t.bp.waitList = s.bp.waitList
  needs : NeedsStaging t p ↔ NeedsStaging s p

theorem Calm.beginsAt {s t : State} (h : Calm s) (hn : s.le.txn = none) {p : PointId} {x : SlotId} {b : BufId} {n : Nat}
    (hmay : MayBegin s p) (hx : s.first p = some x)
    (hst : (s.point p).cfg.direction = .store →
      (s.point p).staged = some b ∧ n = (s.buffer b).count ∧ t.sp = s.sp ∧ t.bp = s.bp)
    (hfe : (s.point p).cfg.direction = .fetch →
      n = min (s.point p).cfg.maxPayload.bytes ((s.slot x).length - (s.slot x).bytesLine) ∧
      (s.buffer b).state = .free ∧ (∀ c, c < b → (s.buffer c).state ≠ .free) ∧
      t.sp = (s.setSlot x { s.slot x with state := .active, jobs := (s.slot x).jobs + 1 }).sp ∧
      t.bp = (s.setBuffer b
        { s.buffer b with state := .receiving, point := some p, slot := some x, count := 0, addr := none }).bp)
    (hpt : t.pt = s.pt) (hpm : t.pm = s.pm) {u : Txn} (hu : t.le.txn = some u) (hup : u.point = p) (hux : u.slot = x)
    (hud : u.direction = (s.point p).cfg.direction) (hub : u.buffer = b) : BeginsAt p x s t := by
  obtain ⟨-, -, ⟨x', hx', hg, -⟩, -, hstore, -, -⟩ := hmay
  obtain rfl : x' = x := Option.some.inj (hx'.symm.trans hx)
  have hpoint : ∀ q, t.point q = s.point q := fun q => by unfold State.point; rw [hpt]
  cases hd : (s.point p).cfg.direction with
  | store =>
    obtain ⟨hsb, -, hsp, hbp⟩ := hst hd
    obtain ⟨b', hsb', hbs⟩ := hstore hd
    obtain rfl : b = b' := Option.some.inj (hsb.symm.trans hsb')
    have hslot : ∀ y, t.slot y = s.slot y := fun y => by unfold State.slot; rw [hsp]
    have hqueue : ∀ q, t.queue q = s.queue q := fun q => by unfold State.queue; rw [hsp]
    have hbuffer : ∀ c, t.buffer c = s.buffer c := fun c => by unfold State.buffer; rw [hbp]
    have hbuf := h.core.buffers.beginsStore hn hx hd hsb hbs hpt hsp hbp hpm hu hup hux hud hub
    refine ⟨h.core.slots.congr hsp fun q => by rw [hpoint]; exact ⟨rfl, rfl⟩, hbuf, hqueue, fun y _ => hslot y, ?_,
      fun c _ => hbuffer c, by rw [hbp], ?_⟩
    · have ha := (hbuf.txn u hu).2.1
      rwa [hux] at ha
    · unfold NeedsStaging State.first
      simp only [hpoint, hqueue, hslot]
  | fetch =>
    obtain ⟨-, hbf, -, hsp, hbp⟩ := hfe hd
    have hslot : ∀ y, t.slot y =
        if x' = y then { s.slot x' with state := .active, jobs := (s.slot x').jobs + 1 } else s.slot y := fun y =>
      (congrArg (fun sp : SlotPool => sp.slots[y]) hsp).trans (State.slot_setSlot ..)
    have hqueue : ∀ q, t.queue q = s.queue q := fun q => by unfold State.queue; rw [hsp]; rfl
    have hnr : (s.slot x').state ≠ .retiring := by rcases hg with hg | hg <;> rw [hg] <;> nofun
    refine ⟨h.core.slots.change (by rw [hsp]; rfl) hqueue (fun y => ?_) (fun q => ?_) (fun q hq => ?_),
      h.core.buffers.beginsFetch hn hx hd hbf hpt hsp hbp hpm hu hup hux hud hub, hqueue,
      fun y hy => by rw [hslot, if_neg (Ne.symm hy)], by rw [hslot, if_pos rfl], fun c hc => ?_, by rw [hbp]; rfl, ?_⟩
    · rw [hslot]
      split
      · next hxy =>
        subst hxy
        exact .inr ⟨h.core.slots.taken_of_first hx, nofun, rfl, .inr ⟨p, hx⟩, nofun,
          iff_of_false (fun k => hnr ((h.core.slots.status x').mp k)) nofun⟩
      · exact .inl rfl
    · rw [hpoint]
      exact h.core.slots.limit q
    · exact h.core.slots.disabled q (hpoint q ▸ hq)
    · refine (congrArg (fun bp : BufferPool => bp.buffers[c]) hbp).trans ((State.buffer_setBuffer ..).trans (if_neg ?_))
      exact fun hbc => hc (hbc ▸ hbf)
    · refine iff_of_false (fun k => ?_) fun k => ?_
      · exact absurd ((hpoint p ▸ hd).symm.trans k.2.1) nofun
      · exact absurd (hd.symm.trans k.2.1) nofun

/-- A transaction that begins keeps the pool. -/
theorem PoolAgrees.begins {s t : State} (h : PoolAgrees s) (hn : s.le.txn = none) {p : PointId} {f : FrameScheduler}
    (hmay : MayBegin s p) (hb : Begins s p f t) : PoolAgrees t := by
  have hcalm := h.calm
  have hready := hmay.1
  obtain ⟨x, b, n, hx, heq, hst, hfe⟩ := hb
  have hpt : t.pt = s.pt := by rw [heq]
  have hpm : t.pm = s.pm := by rw [heq]
  have hcu : t.cu = s.cu := by rw [heq]
  obtain ⟨u, hu, hup, hux, hud, hub⟩ : ∃ u, t.le.txn = some u ∧ u.point = p ∧ u.slot = x ∧
      u.direction = (s.point p).cfg.direction ∧ u.buffer = b := ⟨_, by rw [heq], rfl, rfl, rfl, rfl⟩
  have ha := hcalm.beginsAt hn hmay hx hst hfe hpt hpm hu hup hux hud hub
  have hpoint : ∀ q, t.point q = s.point q := fun q => by unfold State.point; rw [hpt]
  have hfirst : ∀ q, t.first q = s.first q := fun q => by unfold State.first; rw [ha.queue]
  have hxp := hcalm.core.slots.point_of_first hx
  have hne : ∀ {q y}, s.first q = some y → q ≠ p → y ≠ x := fun hy hq hyx =>
    hq (hcalm.core.slots.first_eq (hyx ▸ hy) hx)
  have hcore : PoolCore [] t := by
    refine ⟨ha.slots, ha.buffers, hcalm.core.held.change (hcu ▸ hcalm.core.held.nodup) (fun q hq => hcu ▸ hq)
      fun q y hq hy hr _ => ⟨(hfirst q).trans hy, ha.others y fun hyx => ?_⟩⟩
    obtain ⟨-, -, ⟨z, hz, hg, -⟩, -⟩ := hmay
    obtain rfl : z = y := (Option.some.inj (hz.symm.trans hx)).trans hyx.symm
    rcases hg with hg | hg <;> exact absurd (hr.symm.trans hg) nofun
  have hspares : Spares p s t := ⟨fun q _ => by rw [hpoint], fun q _ => ha.queue q,
    fun y hy => ha.others y fun hyx => hy (hyx ▸ hxp), fun c hc _ => ha.kept c hc, fun q _ => hcu ▸ id,
    fun y _ => inFlight_of_none hn y⟩
  refine (Calm.of_spares hcalm.core.slots hcalm.core.buffers (fun q _ => hcalm.quiet q) hcore hspares
    ⟨fun hc => ?_, fun y hy => ?_⟩).agrees ?_ ?_
  · rw [hpoint, hready] at hc
    cases hc
  · rw [hfirst] at hy
    obtain rfl : x = y := Option.some.inj (hx.symm.trans hy)
    refine ⟨fun k => absurd (ha.active.symm.trans k) nofun, fun _ hi => ?_, fun k => absurd (ha.active.symm.trans k) nofun⟩
    unfold inFlight at hi
    rw [hu] at hi
    exact absurd hux (of_decide_eq_false hi)
  · unfold HeldFull
    rw [hcu]
    exact h.heldFull
  · unfold WaitsAgree
    rw [ha.waits]
    refine ⟨h.waits.1, fun q => (h.waits.2 q).trans ?_⟩
    by_cases hq : q = p
    · rw [hq]
      exact ha.needs.symm
    · unfold NeedsStaging
      rw [hpoint, hfirst]
      refine and_congr_right fun _ => and_congr_right fun _ => and_congr_right fun _ => exists_congr fun y =>
        and_congr_right fun hy => ?_
      rw [ha.others y (hne hy hq)]

/-- The choice keeps the pool. -/
theorem PoolAgrees.choose {s : State} (h : PoolAgrees s) (hn : s.le.state = .idle → s.le.txn = none) :
    PoolAgrees (choose s) := by
  rcases (choose_only s).choice with e | ⟨hm, p, before, after, hmay, -, hb⟩
  · rw [e]
    exact h
  · have hidle : s.le.state = .idle := by
      simp only [mayChoose, Bool.and_eq_true, decide_eq_true_iff] at hm
      exact hm.1.1
    rcases hb with ⟨-, hb⟩ | ⟨-, -, -, -, -, -, -, -, -, hb, -⟩
    · exact h.begins (hn hidle) hmay hb
    · exact h.begins (hn hidle) hmay hb

/-- Staging and then a choice, at the end of a happening. -/
theorem Unserved.serve {s : State} (h : Unserved s) (hn : s.le.state = .idle → s.le.txn = none) :
    PoolAgrees (Machine.choose (Machine.settle s)) :=
  h.settle.choose (by rw [(settle_frame s).2.1]; exact hn)

end Sys2Proof.Machine
end

section
/-! SUPPORT. Every step keeps the agreement of the segment state, the line engine and the transaction record (R83, R84, R104,
R105). -/

namespace Sys2Proof.Machine
set_option Elab.async false

/-! ### What the segment's agreement reads -/

/-- The segment state, the waiting transition, the line engine state, the transaction record and the timer's running are as
they were. -/
structure SegSame (s t : State) : Prop where
  state : t.sc.state = s.sc.state
  waiting : t.sc.waiting = s.sc.waiting
  line : t.le.state = s.le.state
  txn : t.le.txn.isSome = s.le.txn.isSome
  running : t.fs.running = s.fs.running

theorem SegSame.agrees {s t : State} (h : SegSame s t) (k : SegmentAgrees s) : SegmentAgrees t := by
  unfold SegmentAgrees
  rw [h.state, h.waiting, h.line, h.txn, h.running]
  exact k

theorem SegSame.trans {s t u : State} (h : SegSame s t) (k : SegSame t u) : SegSame s u :=
  ⟨k.state.trans h.state, k.waiting.trans h.waiting, k.line.trans h.line, k.txn.trans h.txn, k.running.trans h.running⟩

theorem SegSame.refl (s : State) : SegSame s s := ⟨rfl, rfl, rfl, rfl, rfl⟩

theorem WalkFrame.segSame {s t : State} (h : WalkFrame s t) : SegSame s t := by
  obtain ⟨hsc, hle, -, -, hr, -⟩ := h
  exact ⟨by rw [hsc], by rw [hsc], by rw [hle], by rw [hle], hr⟩

namespace SegmentAgrees

variable {s t : State}

theorem allows (h : SegmentAgrees s) : segmentAllows s.sc.state s.le.state s.fs.running = true := h.1

theorem txn_eq (h : SegmentAgrees s) : s.le.txn.isSome = s.le.state.inTransaction := h.2.1

/-- With the line engine in no transaction state there is no transaction, and no transition waits for one. -/
theorem txn_none (h : SegmentAgrees s) (hl : s.le.state.inTransaction = false) : s.le.txn = none :=
  Option.not_isSome_iff_eq_none.mp fun k => by
    rw [h.txn_eq, hl] at k
    cases k

theorem waiting_none (h : SegmentAgrees s) (hn : s.le.txn = none) : s.sc.waiting = .none := by
  by_contra k
  have := h.2.2 k
  rw [hn] at this
  cases this

/-- With no transaction, agreement is the table of R105 and that nothing waits. -/
theorem of_idle (hn : t.le.txn = none) (hw : t.sc.waiting = .none) (hl : t.le.state.inTransaction = false)
    (ha : segmentAllows t.sc.state t.le.state t.fs.running = true) : SegmentAgrees t :=
  ⟨ha, by rw [hn, hl]; rfl, fun k => absurd hw k⟩

/-- With a transaction, agreement is the table of R105. -/
theorem of_txn (hs : t.le.txn.isSome = true) (hl : t.le.state.inTransaction = true)
    (ha : segmentAllows t.sc.state t.le.state t.fs.running = true) : SegmentAgrees t :=
  ⟨ha, by rw [hs, hl], fun _ => hs⟩

end SegmentAgrees

/-! ### The table of R105 -/

theorem segmentAllows_transaction {g : SegState} {l l' : LineState} {r : Bool} (h : segmentAllows g l r = true)
    (hl : l.inTransaction = true) (hl' : l'.inTransaction = true) : segmentAllows g l' r = true := by
  revert h hl hl'
  cases g <;> cases l <;> cases l' <;> cases r <;> decide

theorem segmentAllows_halting {g : SegState} {l : LineState} {r : Bool} (h : segmentAllows g l r = true)
    (hl : l.inTransaction = true) : segmentAllows .halting l r = true := by
  revert h hl
  cases g <;> cases l <;> cases r <;> decide

theorem segmentAllows_halted {g : SegState} {l : LineState} {r : Bool} (h : segmentAllows g l r = true)
    (hg : g = .running ∨ g = .suspending) (hl : l.inTransaction = false) : segmentAllows .halted l r = true := by
  revert h hl
  rcases hg with rfl | rfl <;> cases l <;> cases r <;> decide

theorem segmentAllows_suspending {l : LineState} {r : Bool} : segmentAllows .running l r = segmentAllows .suspending l r :=
  rfl

/-! ### The transitions of the segment -/

theorem segmentAgrees_enterHalting {s : State} (h : SegmentAgrees s) (hg : s.sc.state = .running ∨ s.sc.state = .suspending) :
    SegmentAgrees (enterHalting s) := by
  unfold enterHalting
  dsimp only
  split
  · next ht =>
    have hs : s.le.txn.isSome = true := ht
    exact .of_txn hs (h.txn_eq ▸ hs) (segmentAllows_halting h.allows (h.txn_eq ▸ hs))
  · next ht =>
    have hs : s.le.txn = none := Option.not_isSome_iff_eq_none.mp ht
    have hl : s.le.state.inTransaction = false := by rw [← h.txn_eq, hs]; rfl
    exact .of_idle hs (h.waiting_none hs) hl (segmentAllows_halted h.allows hg hl)

theorem segmentAgrees_takeHaltRequests {s : State} (h : SegmentAgrees s) : SegmentAgrees (takeHaltRequests s) := by
  have hsame : ∀ b, SegSame s { s with sc := { s.sc with haltPending := b }, eu := { s.eu with haltRequest := false } } :=
    fun _ => ⟨rfl, rfl, rfl, rfl, rfl⟩
  have hclear : SegmentAgrees { s with eu := { s.eu with haltRequest := false } } := (SegSame.refl s).agrees h
  unfold takeHaltRequests
  split
  · unfold haltRequest
    split
    · next hg => exact segmentAgrees_enterHalting hclear (.inl hg)
    · next hg => exact segmentAgrees_enterHalting hclear (.inr hg)
    · exact (hsame true).agrees h
    · exact (hsame true).agrees h
    · exact (hsame true).agrees h
    · exact hclear
    · exact hclear
    · exact hclear
  · exact h

theorem segmentAgrees_choose {s : State} (h : SegmentAgrees s) : SegmentAgrees (choose s) := by
  rcases (choose_only s).choice with e | ⟨hm, p, before, after, -, -, hb⟩
  · rw [e]
    exact h
  · simp only [mayChoose, segServes, inRegion, Bool.and_eq_true, Bool.or_eq_true, decide_eq_true_iff] at hm
    obtain ⟨⟨hl, hg⟩, ⟨hr, -⟩, -⟩ := hm
    have key : ∀ f : FrameScheduler, Begins s p f (choose s) → f.running = s.fs.running → SegmentAgrees (choose s) :=
      fun f ⟨x, b, n, _, e, _⟩ hf => by
        rw [e]
        refine .of_txn rfl rfl ?_
        change segmentAllows s.sc.state .requesting f.running = true
        rcases hg with hg | hg <;> rw [hg, hf, hr] <;> rfl
    rcases hb with ⟨-, hb⟩ | ⟨-, -, -, -, -, -, -, -, -, hb, -⟩
    · exact key _ hb rfl
    · exact key _ hb rfl

theorem segmentAgrees_served {s : State} (h : SegmentAgrees s) : SegmentAgrees (choose (settle s)) :=
  segmentAgrees_choose ((settle_frame s).segSame.agrees h)

theorem enterDown_walk (s : State) : enterDown s = raise .segmentChanged (endAllActive (downEntered s)) := by
  unfold enterDown downEntered
  rfl

theorem enterDown_segment (s : State) : (enterDown s).sc.state = .down ∧ (enterDown s).sc.waiting = .none ∧
    (enterDown s).le.state = .off ∧ (enterDown s).le.txn = s.le.txn ∧ (enterDown s).fs.running = false := by
  obtain ⟨hsc, hle, -, -, hr, -⟩ := endAllActive_frame (downEntered s)
  rw [enterDown_walk, raise_sc, raise_le, raise_fs, hsc, hle, hr]
  exact ⟨rfl, rfl, rfl, rfl, rfl⟩

theorem segmentAgrees_enterDown {s : State} (hn : s.le.txn = none) : SegmentAgrees (enterDown s) := by
  obtain ⟨hg, hw, hl, ht, hr⟩ := enterDown_segment s
  exact .of_idle (ht.trans hn) hw (by rw [hl]; rfl) (by rw [hg, hl, hr]; rfl)

theorem segmentAgrees_enterResettingCore {s : State} (hn : s.le.txn = none) : SegmentAgrees (enterResettingCore s) :=
  .of_idle hn rfl rfl rfl

theorem segmentAgrees_enterResettingByReset {s : State} (hn : s.le.txn = none) : SegmentAgrees (enterResettingByReset s) := by
  unfold enterResettingByReset
  exact (endAllActive_frame (enterResettingCore s)).segSame.agrees (segmentAgrees_enterResettingCore hn)

theorem segmentAgrees_beginFrame {s : State} (f : BitVec 12) (hn : s.le.txn = none) (hw : s.sc.waiting = .none)
    (hg : s.sc.state = .running ∨ s.sc.state = .halted) : SegmentAgrees (beginFrame f s) := by
  refine .of_idle hn hw rfl ?_
  change segmentAllows s.sc.state .marking true = true
  rcases hg with hg | hg <;> rw [hg] <;> rfl

theorem segmentAgrees_openAfterSignalling {s : State} (f : BitVec 12) (h : SegmentAgrees s) (hl : s.le.state = .signalling) :
    SegmentAgrees (openAfterSignalling f s) := by
  have hn := h.txn_none (by rw [hl]; rfl)
  have hw := h.waiting_none hn
  have key : ∀ u : State, u.le = s.le → u.sc.waiting = s.sc.waiting → u.sc.state = .running ∨ u.sc.state = .halted →
      SegmentAgrees (raise .frameTick (raise .segmentChanged (beginFrame f u))) := fun u hle hsc hg =>
    SegSame.agrees (s := beginFrame f u) ⟨rfl, rfl, rfl, rfl, rfl⟩
      (segmentAgrees_beginFrame f (by rw [hle, hn]) (hsc.trans hw) hg)
  unfold openAfterSignalling
  dsimp only
  split
  · exact key _ rfl rfl (.inr rfl)
  · exact key _ rfl rfl (.inl rfl)

theorem segmentAgrees_completeReset (s : State) : SegmentAgrees (completeReset s) := .of_idle rfl rfl rfl rfl

theorem segmentAgrees_beginReset (s : State) : SegmentAgrees (beginReset s) := by
  unfold beginReset
  dsimp only
  split
  · exact .of_idle rfl rfl rfl rfl
  · exact segmentAgrees_completeReset _

/-! ### The census and the wake pattern -/

theorem settleDue_segSame (s : State) : SegSame s (settleDue s) := by
  rw [settleDue_blocks]
  exact ⟨rfl, rfl, rfl, rfl, rfl⟩

theorem censusAnswered_segSame (i : StationId) (s : State) : SegSame s (censusAnswered i s) := by
  unfold censusAnswered
  dsimp only
  split <;> exact ⟨rfl, rfl, rfl, rfl, rfl⟩

theorem censusAlert_segSame (i : StationId) (s : State) : SegSame s (censusAlert i s) := by
  unfold censusAlert
  split <;> exact ⟨rfl, rfl, rfl, rfl, rfl⟩

theorem censusClash_segSame (i : StationId) (s : State) : SegSame s (censusClash i s) := by
  unfold censusClash
  split <;> exact ⟨rfl, rfl, rfl, rfl, rfl⟩

theorem segmentAgrees_applyCensus (a : CensusAnswer) (i : StationId) {s : State} (h : SegmentAgrees s) :
    SegmentAgrees (applyCensus a i s) := by
  cases a with
  | silence =>
    unfold applyCensus censusSilence
    dsimp only
    split
    · refine (settle_frame _).segSame.agrees (segmentAgrees_takeHaltRequests ((stationGone_frame _ _ _).segSame.agrees ?_))
      exact SegSame.agrees (s := s) ⟨rfl, rfl, rfl, rfl, rfl⟩ h
    · exact SegSame.agrees (s := s) ⟨rfl, rfl, rfl, rfl, rfl⟩ h
  | present => exact segmentAgrees_takeHaltRequests ((censusAnswered_segSame i s).agrees h)
  | alert =>
    exact segmentAgrees_takeHaltRequests (((censusAnswered_segSame i s).trans (censusAlert_segSame i _)).agrees h)
  | garbled =>
    exact segmentAgrees_takeHaltRequests (((censusAnswered_segSame i s).trans (censusClash_segSame i _)).agrees h)

theorem segmentAgrees_watchBit {s : State} (level : Bool) (h : SegmentAgrees s) : SegmentAgrees (watchBit s level) := by
  unfold watchBit
  split
  · next hw =>
    simp only [watchesLine, Bool.and_eq_true, decide_eq_true_iff] at hw
    have hn := h.txn_none (by rw [hw.2]; rfl)
    have hr : s.fs.running = false := by
      have := h.allows
      rw [hw.1, hw.2] at this
      revert this
      cases s.fs.running <;> decide
    dsimp only
    split
    · unfold reportWake
      dsimp only
      split
      · refine .of_idle hn (h.waiting_none hn) rfl ?_
        change segmentAllows .waking .signalling s.fs.running = true
        rw [hr]
        rfl
      · exact SegSame.agrees (s := s) ⟨rfl, rfl, rfl, rfl, rfl⟩ h
    · exact SegSame.agrees (s := s) ⟨rfl, rfl, rfl, rfl, rfl⟩ h
  · exact h

/-! ### The outcome and the end of a transaction -/

theorem storeAccept_frame (t : Txn) (s : State) : WalkFrame s (storeAccept t s) := by
  have hc := walkFrame_closed s
  have h0 : WalkFrame s (toggleSeq t.point
    (s.modSlot t.slot fun e => { e with bytesLine := e.bytesLine + t.requested, errors := 0 })) := .refl s
  have h := hc.free t.buffer _ h0
  unfold storeAccept
  dsimp only
  split
  · exact hc.advancePoint _ _ h
  · exact hc.advancePoint _ _ (hc.endExchange _ _ _ h)

theorem fetchDiscarded_frame (t : Txn) (b : Bool) (s : State) : WalkFrame s (fetchDiscarded t b s) := by
  have hc := walkFrame_closed s
  unfold fetchDiscarded
  dsimp only
  refine hc.advancePoint _ _ (hc.free _ _ ?_)
  split <;> exact WalkFrame.refl s

/-- The payload of a FETCH is counted, and its buffer drained or freed (R92). -/
def fetchFilled (t : Txn) (k : Nat) (s : State) : State :=
  let s1 := toggleSeq t.point (s.modSlot t.slot fun e => { e with bytesLine := e.bytesLine + k, errors := 0 })
  if k = 0 then freeBuffer t.buffer s1
  else
    let s2 := s1.modBuffer t.buffer fun r => { r with
      state := .draining, count := k, addr := some ((s.slot t.slot).hostAddr + BitVec.ofNat 32 (s.slot t.slot).bytesLine) }
    { s2 with pm := { s2.pm with drainQueue := s2.pm.drainQueue ++ [t.buffer] } }

theorem fetchTaken_eq (t : Txn) (k : Nat) (s : State) : fetchTaken t k s = afterOutcome t
    (if (s.slot t.slot).length ≤ (s.slot t.slot).bytesLine + k then endExchange t.slot .done (fetchFilled t k s)
    else if k < t.requested then
      endExchange t.slot (if (s.slot t.slot).shortOk then .done else .short) (fetchFilled t k s)
    else fetchFilled t k s) := rfl

theorem fetchTaken_frame (t : Txn) (k : Nat) (s : State) : WalkFrame s (fetchTaken t k s) := by
  have hc := walkFrame_closed s
  have h : WalkFrame s (fetchFilled t k s) := by
    unfold fetchFilled
    dsimp only
    split
    · exact hc.free _ _ (WalkFrame.refl s)
    · exact WalkFrame.refl s
  rw [fetchTaken_eq]
  refine hc.advancePoint _ _ ?_
  split
  · exact hc.endExchange _ _ _ h
  · split
    · exact hc.endExchange _ _ _ h
    · exact h

theorem applyOutcome_frame (t : Txn) (a : Answer) (s : State) : WalkFrame s (applyOutcome t a s) := by
  have hfree := freeBuffer_frame t.buffer s
  unfold applyOutcome
  split
  · unfold storeOutcome
    split
    · exact storeAccept_frame t s
    · exact (deferPoint_frame _ _).trans (afterOutcome_frame t _)
    · exact hfree.trans (refuseOutcome_frame t _)
    · exact errorOutcome_frame t _ s
    · exact errorOutcome_frame t _ s
    · exact errorOutcome_frame t _ s
    · exact errorOutcome_frame t _ s
  · unfold fetchOutcome
    split
    · unfold fetchData
      split
      · split
        · exact fetchDiscarded_frame t _ s
        · exact fetchTaken_frame t _ s
      · exact fetchDiscarded_frame t _ s
    · exact hfree.trans ((deferPoint_frame _ _).trans (afterOutcome_frame t _))
    · exact hfree.trans (refuseOutcome_frame t _)
    · exact hfree.trans (errorOutcome_frame t _ _)
    · exact hfree.trans (errorOutcome_frame t _ _)
    · exact hfree.trans (errorOutcome_frame t _ _)
    · exact hfree.trans (errorOutcome_frame t _ _)

theorem applyStreak_segSame (i : StationId) (a : Answer) (s : State) : SegSame s (applyStreak i a s) ∧
    (applyStreak i a s).le = s.le := by
  unfold applyStreak
  dsimp only
  split
  · have hf := stationGone_frame .stationLost i (raise .stationLost
      ((s.setStation i { s.station i with streak := streakAfter a (s.station i).streak }).modStation i
        fun y => { y with presence := .lost }))
    exact ⟨SegSame.trans (t := raise .stationLost
      ((s.setStation i { s.station i with streak := streakAfter a (s.station i).streak }).modStation i
        fun y => { y with presence := .lost })) ⟨rfl, rfl, rfl, rfl, rfl⟩ hf.segSame, hf.2.1⟩
  · exact ⟨⟨rfl, rfl, rfl, rfl, rfl⟩, rfl⟩

/-- The state after the outcome and the streak of a transaction that ends. -/
def txnOutcome (t : Txn) (a : Answer) (moment : Nat) (s : State) : State :=
  applyStreak (s.point t.point).cfg.station a (applyOutcome t a (txnIdle moment s))

theorem txnOutcome_segSame (t : Txn) (a : Answer) (moment : Nat) (s : State) :
    SegSame (txnIdle moment s) (txnOutcome t a moment s) ∧ (txnOutcome t a moment s).le.txn = none := by
  obtain ⟨h1, h2⟩ := applyStreak_segSame (s.point t.point).cfg.station a (applyOutcome t a (txnIdle moment s))
  have hf := applyOutcome_frame t a (txnIdle moment s)
  exact ⟨hf.segSame.trans h1, by rw [txnOutcome, h2, hf.2.1]; rfl⟩

theorem segmentAgrees_carryOutWaiting {s u : State} (h : SegmentAgrees s) (ht : s.le.txn.isSome = true)
    (hg : u.sc.state = s.sc.state) (hl : u.le.state = .idle) (hn : u.le.txn = none) (hr : u.fs.running = s.fs.running) :
    SegmentAgrees (carryOutWaiting u) := by
  have hallows := h.allows
  have hin : s.le.state.inTransaction = true := by rw [← h.txn_eq, ht]
  unfold carryOutWaiting
  split
  · exact segmentAgrees_enterDown hn
  · exact segmentAgrees_enterResettingByReset hn
  · next hw =>
    split
    · next hh =>
      refine .of_idle hn hw (by rw [show (enterHalted u).le = u.le from rfl, hl]; rfl) ?_
      change segmentAllows .halted u.le.state u.fs.running = true
      rw [hl, hr]
      rw [hg] at hh
      rw [hh] at hallows
      revert hallows hin
      cases s.le.state <;> cases s.fs.running <;> decide
    · next hh =>
      refine .of_idle hn hw (by rw [hl]; rfl) ?_
      rw [hg] at hh ⊢
      rw [hl, hr]
      revert hallows hin hh
      cases s.sc.state <;> cases s.le.state <;> cases s.fs.running <;> decide

theorem segmentAgrees_endTxn {s : State} {t : Txn} (h : SegmentAgrees s) (ht : s.le.txn = some t) (a : Answer)
    (moment : Nat) : SegmentAgrees (endTxn t a moment s) := by
  obtain ⟨hsame, hn⟩ := txnOutcome_segSame t a moment s
  rw [endTxn_eq]
  refine segmentAgrees_served (segmentAgrees_takeHaltRequests ?_)
  exact segmentAgrees_carryOutWaiting h (by rw [ht]; rfl) hsame.state hsame.line hn hsame.running

end Sys2Proof.Machine
end

section
namespace Sys2Proof.Machine
set_option Elab.async false

/-! ### Every command and happening keeps the segment's agreement -/

theorem writeResult_segSame (code : BitVec 8) (r : Reply) (s : State) : SegSame s (writeResult code r s) := by
  rw [writeResult_blocks]
  exact ⟨rfl, rfl, rfl, rfl, rfl⟩

theorem segmentAgrees_windowWrite {s t : State} {f : State → State} (h : SegmentAgrees s) (e : windowWrite s f = .next t)
    (hf : SegmentAgrees (f s)) : SegmentAgrees t := by
  rcases windowWrite_next e with rfl | ⟨-, rfl⟩
  · exact h
  · exact hf

theorem segmentAgrees_command {s t : State} {code : BitVec 8} {f : State → State × Reply} (h : SegmentAgrees s)
    (e : command code f s = .next t) (hf : SegmentAgrees (f s).1) : SegmentAgrees t := by
  rcases command_next e with rfl | ⟨-, rfl⟩
  · exact h
  · exact (writeResult_segSame _ _ _).agrees hf

theorem segmentAgrees_onPoint {s : State} {f : PointId → State → State × Reply} (h : SegmentAgrees s)
    (hf : ∀ p, SegmentAgrees (f p s).1) : SegmentAgrees (onPoint f s).1 := by
  rcases onPoint_eq f s with e | ⟨p, -, e⟩
  · rw [e]
    exact h
  · rw [e]
    exact hf p

/-- A change beside the segment's fields, then staging and a choice. -/
theorem segmentAgrees_serve {s u : State} (h : SegmentAgrees s) (k : SegSame s u) : SegmentAgrees (choose (settle u)) :=
  segmentAgrees_served (k.agrees h)

theorem joinScheduler_running (q : SegParams) (n : Nat) (p : PointId) (c : PointConfig) (f : FrameScheduler) :
    (joinScheduler q n p c f).running = f.running := by
  unfold joinScheduler
  split <;> rfl

theorem postRecord_frame (x : SlotId) (p : PointId) (s : State) : WalkFrame s (postRecord x p s) :=
  ⟨rfl, rfl, rfl, rfl, rfl, rfl, rfl⟩

theorem markAll_frame (xs : List SlotId) (s : State) : WalkFrame s (markAll xs s) :=
  foldl_keeps (P := WalkFrame s) (fun t x => t.modSlot x fun e => { e with cancelRequested := true })
    (fun _ _ ht => ht) xs s (.refl s)

theorem flushFirst_frame (x : SlotId) (s : State) : WalkFrame s (flushFirst x s) := by
  have hc := walkFrame_closed s
  unfold flushFirst
  dsimp only
  split
  · exact hc.endWith _ _ _ (.refl s)
  · split
    · exact .refl s
    · split
      · exact hc.endWith _ _ _ (.refl s)
      · exact .refl s
  · exact .refl s
  · exact .refl s

theorem flushWalk_frame (p : PointId) (xs : List SlotId) (s : State) : WalkFrame s (flushWalk p xs s) := by
  induction xs generalizing s with
  | nil => exact (walkFrame_closed s).closePoint _ _ (.refl s)
  | cons x xs ih =>
    have h := (walkFrame_closed s).retireFirst false p x _ (flushFirst_frame x s)
    rw [flushWalk]
    split
    · exact h.trans (ih _)
    · exact h.trans (markAll_frame xs _)

section

variable {s : State} (h : SegmentAgrees s)
include h

theorem segmentAgrees_configurePoint (p : PointId) : SegmentAgrees (configurePoint p s).1 := by
  unfold configurePoint
  split
  · split
    · exact SegSame.agrees (s := s) ⟨rfl, rfl, rfl, rfl, rfl⟩ h
    · exact h
  · exact h

theorem segmentAgrees_enablePoint (p : PointId) : SegmentAgrees (enablePoint p s).1 := by
  have hadmit : SegSame s (admitPoint (field (s.param 1) 0 8) p s) :=
    ⟨rfl, rfl, rfl, rfl, joinScheduler_running _ _ _ _ _⟩
  have hserve := segmentAgrees_serve h hadmit
  unfold enablePoint
  dsimp only
  split
  · split
    · split
      · exact hserve
      · split
        · exact hserve
        · exact h
    · exact h
  · exact h

theorem segmentAgrees_pausePoint (p : PointId) : SegmentAgrees (pausePoint p s).1 := by
  unfold pausePoint
  split
  · exact (settle_frame _).segSame.agrees (SegSame.agrees (s := s) ⟨rfl, rfl, rfl, rfl, rfl⟩ h)
  · exact h

theorem segmentAgrees_continuePoint (p : PointId) : SegmentAgrees (continuePoint p s).1 := by
  unfold continuePoint
  split
  · exact segmentAgrees_serve h ⟨rfl, rfl, rfl, rfl, rfl⟩
  · exact h

theorem segmentAgrees_clearPoint (p : PointId) : SegmentAgrees (clearPoint p s).1 := by
  unfold clearPoint
  split
  · exact segmentAgrees_serve h ⟨rfl, rfl, rfl, rfl, rfl⟩
  · exact h

theorem segmentAgrees_disablePoint (p : PointId) : SegmentAgrees (disablePoint p s).1 := by
  have hwalk : SegmentAgrees (closeAndFlush p s) := by
    unfold closeAndFlush
    have hclosing : SegSame s (s.modPoint p fun q => { q with state := .closing, haltCause := none }) :=
      ⟨rfl, rfl, rfl, rfl, rfl⟩
    exact segmentAgrees_serve h (hclosing.trans (flushWalk_frame p (s.queue p) _).segSame)
  unfold disablePoint
  split
  · exact h
  · exact h
  · exact hwalk
  · exact hwalk
  · exact hwalk

theorem segmentAgrees_postExchange (p : PointId) : SegmentAgrees (postExchange p s).1 := by
  unfold postExchange
  split
  · exact h
  · split
    · exact h
    · exact segmentAgrees_serve h ⟨rfl, rfl, rfl, rfl, rfl⟩

theorem segmentAgrees_marked (x : SlotId) :
    SegmentAgrees (settle (s.modSlot x fun e => { e with cancelRequested := true })) :=
  (settle_frame _).segSame.agrees (SegSame.agrees (s := s) ⟨rfl, rfl, rfl, rfl, rfl⟩ h)

theorem segmentAgrees_followed (p : PointId) {u : State} (hu : WalkFrame s u) :
    SegmentAgrees (choose (settle (advancePoint p u))) :=
  segmentAgrees_serve h ((walkFrame_closed s).advancePoint p u hu).segSame

theorem segmentAgrees_cancelQueued (x : SlotId) (p : PointId) : SegmentAgrees (cancelQueued x p s).1 := by
  have hc := walkFrame_closed s
  have hend : WalkFrame s (endWith x (cancelStatus s x) s) := hc.endWith x _ s (.refl s)
  unfold cancelQueued
  generalize endWith x (cancelStatus s x) s = u at hend
  dsimp only
  split
  · dsimp only
    exact segmentAgrees_followed h p (hc.freeSlot x p u hend)
  · split
    · dsimp only
      exact segmentAgrees_followed h p (hc.freeSlot x p _ (hend.trans (postRecord_frame x p u)))
    · split
      · dsimp only
        exact segmentAgrees_followed h p hend
      · dsimp only
        exact segmentAgrees_marked h x

theorem segmentAgrees_cancelActive (x : SlotId) (p : PointId) : SegmentAgrees (cancelActive x p s).1 := by
  unfold cancelActive
  split
  · dsimp only
    exact segmentAgrees_followed h p ((walkFrame_closed s).endWith x _ s (.refl s))
  · dsimp only
    exact segmentAgrees_marked h x

theorem segmentAgrees_cancelExchange : SegmentAgrees (cancelExchange s).1 := by
  unfold cancelExchange
  split
  · exact h
  · next x _ =>
    dsimp only
    unfold cancelDecision
    dsimp only
    split
    · exact h
    · exact h
    · split
      · exact h
      · exact segmentAgrees_cancelQueued h _ _
    · split
      · exact h
      · split
        · exact h
        · exact segmentAgrees_cancelActive h _ _
    · exact h

end

end Sys2Proof.Machine
end

section
namespace Sys2Proof.Machine
set_option Elab.async false

/-! ### The segment and station commands -/

namespace SegmentAgrees

variable {s : State} (h : SegmentAgrees s)
include h

/-- In DOWN the line engine is off. -/
theorem line_of_down (hg : s.sc.state = .down) : s.le.state = .off ∧ s.fs.running = false := by
  have := h.allows
  rw [hg] at this
  revert this
  cases s.le.state <;> cases s.fs.running <;> decide

/-- In HALTED no transaction is in flight, and the timer runs. -/
theorem line_of_halted (hg : s.sc.state = .halted) :
    (s.le.state = .marking ∨ s.le.state = .idle ∨ s.le.state = .census) ∧ s.fs.running = true := by
  have := h.allows
  rw [hg] at this
  revert this
  cases s.le.state <;> cases s.fs.running <;> decide

/-- In SUSPENDED no transaction is in flight, and the timer stands. -/
theorem line_of_suspended (hg : s.sc.state = .suspended) :
    (s.le.state = .marking ∨ s.le.state = .idle) ∧ s.fs.running = false := by
  have := h.allows
  rw [hg] at this
  revert this
  cases s.le.state <;> cases s.fs.running <;> decide

end SegmentAgrees

section

variable {s : State} (h : SegmentAgrees s)
include h

theorem segmentAgrees_setSegmentParameters : SegmentAgrees (setSegmentParameters s).1 := by
  unfold setSegmentParameters
  dsimp only
  split
  · split
    · split
      · exact SegSame.agrees (s := s) ⟨rfl, rfl, rfl, rfl, rfl⟩ h
      · exact h
    · exact h
  · exact h

theorem segmentAgrees_startSegment : SegmentAgrees (startSegment s).1 := by
  unfold startSegment
  split
  · next hg =>
    have hn : s.le.txn = none := h.txn_none (by rw [(h.line_of_down hg).1]; rfl)
    exact SegSame.agrees (s := enterResettingCore s) ⟨rfl, rfl, rfl, rfl, rfl⟩ (segmentAgrees_enterResettingCore hn)
  · exact h

/-- A transition that waits for the transaction in flight (R104, R115). -/
theorem segmentAgrees_waits (w : Waiting) (ht : txnInFlight s = true) :
    SegmentAgrees { s with sc := { s.sc with waiting := w } } := ⟨h.allows, h.txn_eq, fun _ => ht⟩

theorem segmentAgrees_stopSegment : SegmentAgrees (stopSegment s).1 := by
  unfold stopSegment
  split
  · exact h
  · split
    · next ht => exact segmentAgrees_waits h .stop ht
    · next ht =>
      dsimp only
      exact (settle_frame _).segSame.agrees (segmentAgrees_enterDown (Option.not_isSome_iff_eq_none.mp ht))

theorem segmentAgrees_resetSegment : SegmentAgrees (resetSegment s).1 := by
  unfold resetSegment
  split
  · split
    · next ht => exact segmentAgrees_waits h .reset ht
    · next ht =>
      dsimp only
      exact (settle_frame _).segSame.agrees (segmentAgrees_enterResettingByReset (Option.not_isSome_iff_eq_none.mp ht))
  · exact h

theorem segmentAgrees_haltSegment : SegmentAgrees (haltSegment s).1 := by
  unfold haltSegment
  split
  · next hg =>
    simp only [segServes, Bool.or_eq_true, decide_eq_true_iff] at hg
    exact segmentAgrees_enterHalting h hg
  · exact h

theorem segmentAgrees_resumeSegment : SegmentAgrees (resumeSegment s).1 := by
  have hrun : s.sc.state = .halted → SegmentAgrees (raise .segmentChanged (s.setSeg .running)) := fun hg => by
    obtain ⟨hl, hr⟩ := h.line_of_halted hg
    refine ⟨?_, h.txn_eq, h.2.2⟩
    change segmentAllows .running s.le.state s.fs.running = true
    rw [hr]
    rcases hl with hl | hl | hl <;> rw [hl] <;> rfl
  unfold resumeSegment
  split
  · next hg =>
    split
    · exact h
    · exact segmentAgrees_choose (hrun hg)
  · exact h

theorem segmentAgrees_suspendSegment : SegmentAgrees (suspendSegment s).1 := by
  unfold suspendSegment
  split
  · next hg =>
    refine ⟨?_, h.txn_eq, h.2.2⟩
    have := h.allows
    rwa [hg, segmentAllows_suspending] at this
  · exact h

theorem segmentAgrees_wakeSegment : SegmentAgrees (wakeSegment s).1 := by
  unfold wakeSegment
  split
  · next hg =>
    obtain ⟨hl, hr⟩ := h.line_of_suspended hg
    have hn : s.le.txn = none := h.txn_none (by rcases hl with hl | hl <;> rw [hl] <;> rfl)
    refine .of_idle hn (h.waiting_none hn) rfl ?_
    change segmentAllows .waking .signalling s.fs.running = true
    rw [hr]
    rfl
  · exact h

theorem segmentAgrees_clearStation : SegmentAgrees (clearStation s).1 := by
  unfold clearStation
  split
  · exact h
  · exact segmentAgrees_choose (SegSame.agrees (s := s) ⟨rfl, rfl, rfl, rfl, rfl⟩ h)

theorem segmentAgrees_resumeMover : SegmentAgrees (resumeMover s).1 := by
  unfold resumeMover
  split
  · dsimp only
    rw [takeJob_blocks]
    exact SegSame.agrees (s := s) ⟨rfl, rfl, rfl, rfl, rfl⟩ h
  · exact h

/-! ### The window -/

omit h in
theorem postingWalk_frame (n : Nat) (s : State) : WalkFrame s (postingWalk n s) := by
  induction n generalizing s with
  | zero => exact .refl s
  | succ n ih =>
    rw [postingWalk]
    split
    · exact .refl s
    · next p rest _ =>
      have hpop : WalkFrame s { s with cu := { s.cu with held := rest } } := .refl s
      generalize { s with cu := { s.cu with held := rest } } = t at hpop
      dsimp only
      split
      · split
        · next x _ =>
          have hgone : WalkFrame s (freeSlot x p (postRecord x p t)) := hpop
          generalize freeSlot x p (postRecord x p t) = u at hgone
          exact hgone.trans ((advance_frame true p _ u).trans (ih _))
        · exact hpop.trans (ih _)
      · exact .refl s

theorem segmentAgrees_release (w : Word) : SegmentAgrees (release w s) := by
  have hwalk : ∀ u, SegSame s u → SegmentAgrees (if u.cu.held = [] then u else choose (settle (postingWalk 64 u))) :=
    fun u hu => by
      split
      · exact hu.agrees h
      · exact segmentAgrees_serve h (hu.trans (postingWalk_frame 64 u).segSame)
  have hreleased : SegSame s (releaseRecords w.toNat s) := ⟨rfl, rfl, rfl, rfl, rfl⟩
  unfold release
  generalize releaseRecords w.toNat s = u at hreleased
  refine hwalk _ ?_
  split
  · exact hreleased.trans ⟨rfl, rfl, rfl, rfl, rfl⟩
  · exact hreleased

theorem segmentAgrees_acknowledge (w : Word) : SegmentAgrees (acknowledge w s) := by
  unfold acknowledge
  split
  · exact SegSame.agrees (s := s) ⟨rfl, rfl, rfl, rfl, rfl⟩ h
  · exact SegSame.agrees (s := s) ⟨rfl, rfl, rfl, rfl, rfl⟩ h

theorem segmentAgrees_writeHostConfig (w : Word) : SegmentAgrees (writeHostConfig w s) := by
  unfold writeHostConfig
  dsimp only
  split
  · exact SegSame.agrees (s := s) ⟨rfl, rfl, rfl, rfl, rfl⟩ h
  · exact SegSame.agrees (s := s) ⟨rfl, rfl, rfl, rfl, rfl⟩ h

/-! ### Frames and transactions -/

/-- A transaction's stage goes on to another. -/
theorem segmentAgrees_stage {t : State} (ht : s.le.txn.isSome = true) (hsc : t.sc.state = s.sc.state)
    (hr : t.fs.running = s.fs.running) (hn : t.le.txn.isSome = true) (hl : t.le.state.inTransaction = true) :
    SegmentAgrees t :=
  .of_txn hn hl (by rw [hsc, hr]; exact segmentAllows_transaction h.allows (h.txn_eq ▸ ht) hl)

/-- With no transaction the line engine goes on between its other states in a frame. -/
theorem segmentAgrees_inFrame {t : State} (hl : s.le.state = .marking ∨ s.le.state = .idle ∨ s.le.state = .census)
    (hr : s.fs.running = true) (hsc : t.sc.state = s.sc.state) (hw : t.sc.waiting = s.sc.waiting)
    (hl' : t.le.state = .marking ∨ t.le.state = .idle ∨ t.le.state = .census) (hn : t.le.txn = s.le.txn)
    (hr' : t.fs.running = true) : SegmentAgrees t := by
  have hnone : s.le.txn = none := h.txn_none (by rcases hl with hl | hl | hl <;> rw [hl] <;> rfl)
  have hallows := h.allows
  refine .of_idle (hn.trans hnone) (hw.trans (h.waiting_none hnone))
    (by rcases hl' with hl' | hl' | hl' <;> rw [hl'] <;> rfl) ?_
  rw [hsc, hr']
  rw [hr] at hallows
  revert hallows
  rcases hl with hl | hl | hl <;> rcases hl' with hl' | hl' | hl' <;> rw [hl, hl'] <;> cases s.sc.state <;> decide

theorem segmentAgrees_censusStart (moment : Nat) (hl : s.le.state = .idle) (hr : s.fs.running = true) :
    SegmentAgrees (takeHaltRequests { settleDue (s.setElapsed moment) with
      le := { s.le with state := .census, slotsRead := 0 } }) := by
  have hsame : SegSame (s.setElapsed moment) (settleDue (s.setElapsed moment)) := settleDue_segSame _
  exact segmentAgrees_takeHaltRequests
    (segmentAgrees_inFrame h (.inr (.inl hl)) hr hsame.state hsame.waiting (.inr (.inr rfl)) rfl (hsame.running.trans hr))

/-! ### The mover -/

omit h in
theorem advanceOwner_frame (x : SlotId) (s : State) : WalkFrame s (advanceOwner x s) := by
  unfold advanceOwner
  split
  · exact advancePoint_frame _ s
  · exact .refl s

theorem segmentAgrees_endJob (j : Job) : SegmentAgrees (endJob j s) := by
  have hcount : ∀ n, WalkFrame s (countMemory j.slot n (clearJob s)) := fun n => .refl s
  have hfreed : ∀ n, WalkFrame s (advanceOwner j.slot (freeBuffer j.buffer (countMemory j.slot n (clearJob s)))) :=
    fun n => ((hcount n).trans (freeBuffer_frame _ _)).trans (advanceOwner_frame _ _)
  unfold endJob
  dsimp only
  refine segmentAgrees_serve h (WalkFrame.segSame (s := s) ?_)
  split
  · unfold stageJobEnd
    dsimp only
    split
    · exact .refl s
    · exact hfreed _
  · exact hfreed _

omit h in
theorem faultExchange_frame (x : SlotId) (s : State) : WalkFrame s (faultExchange x s) := by
  have hc := walkFrame_closed s
  unfold faultExchange
  split
  · split
    · exact .refl s
    · exact hc.endWith _ _ _ (.refl s)
  · exact hc.endWith _ _ _ (.refl s)
  · exact .refl s
  · exact .refl s

theorem segmentAgrees_faultJob (j : Job) (u : Burst) (c : FaultCause) : SegmentAgrees (faultJob j u c s) := by
  unfold faultJob
  dsimp only
  refine segmentAgrees_served (segmentAgrees_takeHaltRequests ((WalkFrame.segSame (s := s) ?_).agrees h))
  refine WalkFrame.trans ?_ (advanceOwner_frame _ _)
  refine WalkFrame.trans (WalkFrame.trans ?_ (faultExchange_frame j.slot _)) (.refl _)
  refine foldl_keeps (P := WalkFrame s) _ (fun t b ht => ht.trans (freeBuffer_frame b t)) _ _ ?_
  exact freeBuffer_frame j.buffer _

omit h in
theorem countMoved_segSame (j : Job) (n : Nat) (w : Vector Word 16) (s : State) : SegSame s (countMoved j n w s) := by
  unfold countMoved
  dsimp only
  split <;> exact ⟨rfl, rfl, rfl, rfl, rfl⟩

omit h in
theorem nextBurst_segSame (s : State) : SegSame s (nextBurst s) := by
  unfold nextBurst
  split <;> exact ⟨rfl, rfl, rfl, rfl, rfl⟩

theorem segmentAgrees_answerCompleted (w : Vector Word 16) (j : Job) (u : Burst) :
    SegmentAgrees (answerCompleted w j u s) := by
  unfold answerCompleted
  dsimp only
  split
  · exact segmentAgrees_endJob ((countMoved_segSame j u.bytes w s).agrees h) j
  · exact ((countMoved_segSame j u.bytes w s).trans (nextBurst_segSame _)).agrees h

theorem segmentAgrees_answerRetry (j : Job) (u : Burst) : SegmentAgrees (answerRetry j u s) := by
  unfold answerRetry
  split
  · exact segmentAgrees_faultJob h j u _
  · exact SegSame.agrees (s := s) ⟨rfl, rfl, rfl, rfl, rfl⟩ h

theorem segmentAgrees_tick : SegmentAgrees (tick s) := by
  have hsame : ∀ {t : State}, SegSame s t → SegmentAgrees t := fun k => k.agrees h
  unfold tick
  split
  · split
    · exact hsame ⟨rfl, rfl, rfl, rfl, rfl⟩
    · exact h
  · split
    · exact hsame ⟨rfl, rfl, rfl, rfl, rfl⟩
    · split
      · exact hsame ⟨rfl, rfl, rfl, rfl, rfl⟩
      · exact h

end

end Sys2Proof.Machine
end

section
namespace Sys2Proof.Machine
set_option Elab.async false

/-! ### Every command keeps the segment's agreement -/

theorem segmentAgrees_windowSame {s t : State} {f : State → State} (h : SegmentAgrees s) (e : windowWrite s f = .next t)
    (hf : SegSame s (f s)) : SegmentAgrees t := segmentAgrees_windowWrite h e (hf.agrees h)

theorem segmentAgrees_onAnswer {s t : State} {f : Job → Burst → State → Out} (e : onAnswer f s = .next t)
    (hf : ∀ j u, f j u s = .next t → SegmentAgrees t) : SegmentAgrees t := by
  obtain ⟨-, rfl | ⟨-, j, u, -, -, e⟩⟩ := onAnswer_next e
  · exact segmentAgrees_completeReset s
  · exact hf j u e

theorem segmentAgrees_exec {i : Instr} {s t : State} (h : SegmentAgrees s) (e : exec i s = .next t) : SegmentAgrees t := by
  cases i with
  | configurePoint =>
    exact segmentAgrees_command h (show execConfigurePoint s = _ from e)
      (segmentAgrees_onPoint h (segmentAgrees_configurePoint h))
  | enablePoint =>
    exact segmentAgrees_command h (show execEnablePoint s = _ from e)
      (segmentAgrees_onPoint h (segmentAgrees_enablePoint h))
  | disablePoint =>
    exact segmentAgrees_command h (show execDisablePoint s = _ from e)
      (segmentAgrees_onPoint h (segmentAgrees_disablePoint h))
  | pausePoint =>
    exact segmentAgrees_command h (show execPausePoint s = _ from e)
      (segmentAgrees_onPoint h (segmentAgrees_pausePoint h))
  | continuePoint =>
    exact segmentAgrees_command h (show execContinuePoint s = _ from e)
      (segmentAgrees_onPoint h (segmentAgrees_continuePoint h))
  | clearPoint =>
    exact segmentAgrees_command h (show execClearPoint s = _ from e)
      (segmentAgrees_onPoint h (segmentAgrees_clearPoint h))
  | inspectPoint =>
    exact segmentAgrees_command h (show execInspectPoint s = _ from e) (segmentAgrees_onPoint h fun _ => h)
  | postExchange =>
    exact segmentAgrees_command h (show execPostExchange s = _ from e)
      (segmentAgrees_onPoint h (segmentAgrees_postExchange h))
  | cancelExchange =>
    exact segmentAgrees_command h (show execCancelExchange s = _ from e) (segmentAgrees_cancelExchange h)
  | inspectSlot =>
    exact segmentAgrees_command h (show execInspectSlot s = _ from e) (by unfold inspectSlot; split <;> exact h)
  | inspectLoad =>
    exact segmentAgrees_command h (show execInspectLoad s = _ from e) (by unfold inspectLoad; split <;> exact h)
  | setSegmentParameters =>
    exact segmentAgrees_command h (show execSetSegmentParameters s = _ from e) (segmentAgrees_setSegmentParameters h)
  | startSegment =>
    exact segmentAgrees_command h (show execStartSegment s = _ from e) (segmentAgrees_startSegment h)
  | stopSegment => exact segmentAgrees_command h (show execStopSegment s = _ from e) (segmentAgrees_stopSegment h)
  | resetSegment => exact segmentAgrees_command h (show execResetSegment s = _ from e) (segmentAgrees_resetSegment h)
  | haltSegment => exact segmentAgrees_command h (show execHaltSegment s = _ from e) (segmentAgrees_haltSegment h)
  | resumeSegment => exact segmentAgrees_command h (show execResumeSegment s = _ from e) (segmentAgrees_resumeSegment h)
  | suspendSegment =>
    exact segmentAgrees_command h (show execSuspendSegment s = _ from e) (segmentAgrees_suspendSegment h)
  | wakeSegment => exact segmentAgrees_command h (show execWakeSegment s = _ from e) (segmentAgrees_wakeSegment h)
  | clearStation => exact segmentAgrees_command h (show execClearStation s = _ from e) (segmentAgrees_clearStation h)
  | resumeMover => exact segmentAgrees_command h (show execResumeMover s = _ from e) (segmentAgrees_resumeMover h)
  | resetController =>
    exact segmentAgrees_windowWrite h (show execResetController s = _ from e) (segmentAgrees_beginReset _)
  | unknownCommand code =>
    rcases execUnknownCommand_next e with rfl | ⟨r, rfl⟩
    · exact h
    · exact (writeResult_segSame _ _ s).agrees h
  | eventAck w =>
    exact segmentAgrees_windowWrite h (show execEventAck w s = _ from e) (segmentAgrees_acknowledge h w)
  | completionRelease w =>
    exact segmentAgrees_windowWrite h (show execCompletionRelease w s = _ from e) (segmentAgrees_release h w)
  | eventQuietWrite w =>
    exact segmentAgrees_windowSame h (show execEventQuietWrite w s = _ from e) ⟨rfl, rfl, rfl, rfl, rfl⟩
  | accessStatusWrite w =>
    exact segmentAgrees_windowSame h (show execAccessStatusWrite w s = _ from e) ⟨rfl, rfl, rfl, rfl, rfl⟩
  | hostConfigWrite w =>
    exact segmentAgrees_windowWrite h (show execHostConfigWrite w s = _ from e) (segmentAgrees_writeHostConfig h w)
  | reportEnableWrite w =>
    exact segmentAgrees_windowSame h (show execReportEnableWrite w s = _ from e) ⟨rfl, rfl, rfl, rfl, rfl⟩
  | haltEnableWrite w =>
    exact segmentAgrees_windowSame h (show execHaltEnableWrite w s = _ from e) ⟨rfl, rfl, rfl, rfl, rfl⟩
  | routeWrite w =>
    exact segmentAgrees_windowSame h (show execRouteWrite w s = _ from e) ⟨rfl, rfl, rfl, rfl, rfl⟩
  | registerWrite i w =>
    exact segmentAgrees_windowSame h (show execRegisterWrite i w s = _ from e) ⟨rfl, rfl, rfl, rfl, rfl⟩
  | readOnlyWrite r w =>
    exact segmentAgrees_windowSame h (show execReadOnlyWrite r w s = _ from e) ⟨rfl, rfl, rfl, rfl, rfl⟩
  | undefinedOffset w o en =>
    rcases execUndefinedOffset_next (w := w) e with rfl | rfl
    · exact h
    · exact SegSame.agrees (s := s) ⟨rfl, rfl, rfl, rfl, rfl⟩ h
  | deviceReset =>
    rw [execDeviceReset_next e]
    exact SegSame.agrees (s := completeReset s) ⟨rfl, rfl, rfl, rfl, rfl⟩ (segmentAgrees_completeReset s)
  | markEnd =>
    obtain ⟨hl, hr, rfl⟩ := execMarkEnd_next e
    exact segmentAgrees_choose (segmentAgrees_inFrame h (.inl hl) hr rfl rfl (.inr (.inl rfl)) rfl hr)
  | censusStart =>
    obtain ⟨hl, hr, rfl⟩ := execCensusStart_next e
    exact segmentAgrees_censusStart h _ hl hr
  | frameEnd =>
    obtain ⟨hl, hr, ⟨hg, rfl⟩ | ⟨hg, rfl⟩⟩ := execFrameEnd_next e
    · have hn := h.txn_none (by rw [hl]; rfl)
      exact SegSame.agrees (s := beginFrame (s.fs.frame + 1) (s.setElapsed s.sc.params.frameLength))
        ⟨rfl, rfl, rfl, rfl, rfl⟩ (segmentAgrees_beginFrame _ hn (h.waiting_none hn) hg)
    · have hn := h.txn_none (by rw [hl]; rfl)
      exact .of_idle hn (h.waiting_none hn) rfl rfl
  | censusSlotEnd i v =>
    obtain ⟨hl, hr, moment, rfl⟩ := execCensusSlotEnd_next e
    refine segmentAgrees_applyCensus _ i ?_
    exact SegSame.agrees (s := s) ⟨rfl, rfl, rfl, rfl, rfl⟩ h
  | suspendMarkEnd =>
    obtain ⟨hl, hg, rfl⟩ := execSuspendMarkEnd_next e
    have hn := h.txn_none (by rw [hl]; rfl)
    refine .of_idle hn (h.waiting_none hn) rfl ?_
    change segmentAllows s.sc.state .idle s.fs.running = true
    rw [hg, (h.line_of_suspended hg).2]
    rfl
  | resetSignallingEnd =>
    obtain ⟨hl, -, rfl⟩ := execResetSignallingEnd_next e
    exact segmentAgrees_openAfterSignalling _ h hl
  | wakeSignallingEnd =>
    obtain ⟨hl, -, rfl⟩ := execWakeSignallingEnd_next e
    exact segmentAgrees_openAfterSignalling _ h hl
  | wakePattern levels =>
    cases e
    exact foldl_keeps (P := SegmentAgrees) watchBit (fun _ b hu => segmentAgrees_watchBit b hu) levels s h
  | requestEnd =>
    obtain ⟨tx, hl, htx, rfl⟩ := execRequestEnd_next e
    have ht : s.le.txn.isSome = true := by rw [htx]; rfl
    exact segmentAgrees_stage h ht rfl rfl ht (by cases tx.direction <;> rfl)
  | storeDataEnd =>
    obtain ⟨tx, moment, hl, htx, rfl⟩ := execStoreDataEnd_next e
    have ht : s.le.txn.isSome = true := by rw [htx]; rfl
    exact segmentAgrees_stage h ht rfl rfl ht rfl
  | answerBegins d =>
    obtain rfl | ⟨tx, moment, hl, htx, rfl⟩ := execAnswerBegins_next e
    · exact h
    · exact segmentAgrees_stage h (by rw [htx]; rfl) rfl rfl rfl (by unfold answerAt; cases tx.direction <;> rfl)
  | dataReceived levels =>
    obtain ⟨tx, k, seq, payload, moment, hl, htx, rfl⟩ := execDataReceived_next e
    exact segmentAgrees_stage h (by rw [htx]; rfl) rfl rfl rfl rfl
  | transactionEnd levels =>
    obtain ⟨tx, moment, a, htx, hr, -, rfl⟩ := execTransactionEnd_next e
    exact segmentAgrees_endTxn h htx a moment
  | busGrant =>
    obtain ⟨-, rfl⟩ := execBusGrant_next e
    exact SegSame.agrees (s := s) ⟨rfl, rfl, rfl, rfl, rfl⟩ h
  | burstCompleted w =>
    refine segmentAgrees_onAnswer (show execBurstCompleted w s = _ from e) fun j u e => ?_
    obtain rfl := Host.Outcome.next.inj e
    exact segmentAgrees_answerCompleted h w j u
  | burstRetry =>
    refine segmentAgrees_onAnswer (show execBurstRetry s = _ from e) fun j u e => ?_
    obtain rfl := Host.Outcome.next.inj e
    exact segmentAgrees_answerRetry h j u
  | burstCutShort k w =>
    refine segmentAgrees_onAnswer (show execBurstCutShort k w s = _ from e) fun j u e => ?_
    split at e
    · obtain rfl := Host.Outcome.next.inj e
      exact ((countMoved_segSame j _ w s).trans (nextBurst_segSame _)).agrees h
    · cases e
  | burstError =>
    refine segmentAgrees_onAnswer (show execBurstError s = _ from e) fun j u e => ?_
    obtain rfl := Host.Outcome.next.inj e
    exact segmentAgrees_faultJob h j u .busError
  | releaseIntervalEnd l =>
    obtain ⟨_, _, rfl⟩ := execReleaseIntervalEnd_next e
    exact SegSame.agrees (s := s) ⟨rfl, rfl, rfl, rfl, rfl⟩ h
  | resetPinReleased =>
    rw [execResetPinReleased_next e]
    exact SegSame.agrees (s := s) ⟨rfl, rfl, rfl, rfl, rfl⟩ h

theorem segmentAgrees_step {s t : State} (h : SegmentAgrees s) (e : step s = .next t) : SegmentAgrees t := by
  unfold step at e
  split at e
  · cases e
    exact segmentAgrees_tick h
  · next rest _ =>
    exact segmentAgrees_exec (SegSame.agrees (s := s) (t := { s with pending := rest }) ⟨rfl, rfl, rfl, rfl, rfl⟩ h) e

end Sys2Proof.Machine
end

section
/-! SUPPORT. The point and exchange commands keep the pool (O58). -/

namespace Sys2Proof.Machine
set_option Elab.async false

/-! ### What a happening starts from -/

/-- The pool agrees, and so do the ring, the mover and the line engine as far as the pool's proofs read them. -/
structure PoolReady (s : State) : Prop where
  pool : PoolAgrees s
  ring : s.cu.count ≤ 64
  mover : s.pm.state = .idle → s.pm.job = none
  line : s.le.state = .idle → s.le.txn = none

theorem PoolReady.calm {s : State} (h : PoolReady s) : Calm s := h.pool.calm

theorem PoolReady.unserved {s : State} (h : PoolReady s) : Unserved s :=
  ⟨h.calm, h.ring, h.pool.heldFull, h.pool.waits.1, h.mover⟩

namespace Reaches

variable {s t : State} (k : Reaches s t) (h : PoolReady s)
include k h

theorem settled : PoolAgrees (settle t) := (h.unserved.walks k).settle

theorem served : PoolAgrees (choose (settle t)) := (h.unserved.walks k).serve (k.moves.line ▸ h.line)

end Reaches

/-! ### The point commands (R6, R8, R11, R12, R17) -/

section

variable {s : State} (h : PoolReady s)
include h

/-- A DISABLED point takes another configuration. -/
theorem poolAgrees_configurePoint (p : PointId) : PoolAgrees (configurePoint p s).1 := by
  unfold configurePoint
  split
  · next hd =>
    split
    · next c hc =>
      have hq : s.queue p = [] := h.calm.core.slots.disabled p hd
      have hcalm : Calm (s.setPoint p { s.point p with cfg := c }) :=
        h.calm.setPoint rfl (fun k => absurd (by rw [State.first, hq]; rfl) k) (by rw [hq]; exact Nat.zero_le _)
          (fun _ => hq) fun k => absurd (hd.symm.trans k) nofun
      refine hcalm.agrees h.pool.heldFull ⟨h.pool.waits.1, fun q => (h.pool.waits.2 q).trans ?_⟩
      unfold NeedsStaging
      by_cases hpq : p = q
      · subst hpq
        exact iff_of_false (fun k => absurd (hd.symm.trans k.1) nofun) fun k =>
          absurd ((congrArg Point.state (State.point_setPoint_same ..)).symm.trans k.1) (by rw [hd]; nofun)
      · rw [State.point_setPoint_other _ hpq]
        exact Iff.rfl
    · exact h.pool
  · exact h.pool

/-- A point takes a state other than DISABLED and CLOSING. -/
theorem setState_reaches (p : PointId) {v : Point} (hv : v.cfg = (s.point p).cfg) (hs : v.staged = (s.point p).staged)
    (hdis : v.state ≠ .disabled) (hc : v.state ≠ .closing) : Reaches s (s.setPoint p v) :=
  ⟨h.calm.setState hv hs hdis hc, .of_eq rfl rfl rfl rfl⟩

theorem admitPoint_reaches (n : Nat) (p : PointId) : Reaches s (admitPoint n p s) :=
  ⟨Calm.setState (s := { s with fs := joinScheduler s.sc.params n p (s.point p).cfg s.fs })
    (SamePool.calm (s := s) (.of_eq rfl rfl rfl rfl rfl rfl) h.calm) (p := p) rfl rfl nofun nofun, .of_eq rfl rfl rfl rfl⟩

theorem poolAgrees_enablePoint (p : PointId) : PoolAgrees (enablePoint p s).1 := by
  have hserve := (admitPoint_reaches h (field (s.param 1) 0 8) p).served h
  unfold enablePoint
  dsimp only
  split
  · split
    · split
      · exact hserve
      · split
        · exact hserve
        · exact h.pool
    · exact h.pool
  · exact h.pool

theorem poolAgrees_pausePoint (p : PointId) : PoolAgrees (pausePoint p s).1 := by
  have hsettled := (setState_reaches h p (v := { s.point p with state := .paused }) rfl rfl nofun nofun).settled h
  unfold pausePoint
  split
  · exact hsettled
  · exact h.pool

theorem poolAgrees_continuePoint (p : PointId) : PoolAgrees (continuePoint p s).1 := by
  have hserve := (setState_reaches h p (v := { s.point p with state := .ready }) rfl rfl nofun nofun).served h
  unfold continuePoint
  split
  · exact hserve
  · exact h.pool

theorem poolAgrees_clearPoint (p : PointId) : PoolAgrees (clearPoint p s).1 := by
  have hserve := (setState_reaches h p (v := { s.point p with state := .ready, haltCause := none, seq := false })
    rfl rfl nofun nofun).served h
  unfold clearPoint
  split
  · exact hserve
  · exact h.pool

end

/-! ### DISABLE POINT (R18, R47) -/

/-- A first exchange that may leave its queue leaves the other records alone. -/
theorem retireFirst_slot_other (w : Bool) (p : PointId) {x y : SlotId} (hxy : x ≠ y) (s : State) :
    (retireFirst w p x s).1.slot y = s.slot y := by
  have hfree : ∀ u : State, (freeSlot x p u).slot y = u.slot y := fun u => by rw [freeSlot_slot, if_neg hxy]
  rcases retireFirst_cases w p x s with ⟨-, e⟩ | ⟨-, -, ⟨-, -, e⟩ | ⟨-, e⟩ | ⟨-, -, -, e⟩ | ⟨-, -, -, e⟩⟩
  · rw [e]
  · rw [e]
    exact hfree _
  · rw [e]
    exact hfree _
  · rw [e]
  · rw [e, joinHeld_eq]
    rfl

theorem HeadQuiet.congr {s t : State} {p : PointId} {x : SlotId} (h : HeadQuiet s p x) (hx : t.slot x = s.slot x)
    (hle : t.le = s.le) (hbp : t.bp = s.bp) (hcu : t.cu = s.cu) : HeadQuiet t p x := by
  have hb : ∀ b, t.buffer b = s.buffer b := fun b => by unfold State.buffer; rw [hbp]
  refine ⟨?_, ?_, ?_⟩
  · rw [hx]
    exact h.queued
  · rw [hx, inFlight_congr (congrArg LineEngine.txn hle)]
    simp only [hb]
    exact h.active
  · rw [hx, hcu]
    exact h.retiring

namespace PoolCore

variable {s : State} {p : PointId} {x : SlotId} {rest : List SlotId}

/-- The first exchange of a queue takes cancel_requested. -/
theorem markActive (h : PoolCore [] s) (hq : s.queue p = x :: rest) (hg : (s.slot x).state = .active) :
    HeadChanged [] p x rest s (s.modSlot x fun e => { e with cancelRequested := true }) := by
  have hf : s.first p = some x := first_eq_some.mpr ⟨rest, hq⟩
  refine ⟨h.setHead hf rfl rfl (.inl rfl) (fun k => absurd (hg.symm.trans k) nofun) (h.slots.status x)
    (fun k => absurd k (h.not_held_of_state hf (by rw [hg]; nofun))), .of_beside (.setSlot (h.slots.point_of_first hf) id) (fun _ _ => id) rfl, hq,
    .of_eq rfl rfl rfl rfl⟩

/-- DISABLE POINT ends the first exchange, or leaves nothing due for it but what it waits for. -/
theorem flushFirst (h : PoolCore [] s) (hq : s.queue p = x :: rest)
    (hh : (s.slot x).state ≠ .queued → HeadQuiet s p x) : HeadChanged [] p x rest s (flushFirst x s) ∧
      (((flushFirst x s).slot x).state ≠ .retiring → HeadQuiet (flushFirst x s) p x) := by
  have hend : (s.slot x).state ≠ .retiring → inFlight s x = false → HeadChanged [] p x rest s (Machine.endWith x .flushed s) ∧
      (((Machine.endWith x .flushed s).slot x).state ≠ .retiring → HeadQuiet (Machine.endWith x .flushed s) p x) :=
    fun hg hi => ⟨h.endWith hq hg hi _, fun k => absurd (h.endWith_retiring hq hg _) k⟩
  unfold Machine.flushFirst
  dsimp only
  split
  · next hg => exact hend (by rw [hg]; nofun) (h.inFlight_of_state (by rw [hg]; nofun))
  · next hg =>
    have hquiet := hh (by rw [hg]; nofun)
    split
    · exact ⟨h.headChanged_refl hq, fun _ => hquiet⟩
    · next hm =>
      split
      · next hj => exact hend (by rw [hg]; nofun) hj.1
      · next hj =>
        refine ⟨h.markActive hq hg, fun _ => ?_⟩
        have hslot : (s.modSlot x fun e => { e with cancelRequested := true }).slot x =
            { s.slot x with cancelRequested := true } := State.slot_setSlot_same ..
        refine ⟨fun k => ?_, fun _ hi => ⟨?_, fun _ => ?_⟩, fun k => ?_⟩
        · rw [hslot] at k
          exact absurd (hg.symm.trans k) nofun
        · rw [hslot]
          exact (hquiet.active hg hi).1
        · exact h.job_besides hq (by rw [hg]; nofun) hi fun k => hj ⟨hi, k⟩
        · rw [hslot] at k
          exact absurd (hg.symm.trans k) nofun
  · next hg => exact ⟨h.headChanged_refl hq, fun k => absurd hg k⟩
  · next hg => exact absurd hg (h.slots.taken_of_first (first_eq_some.mpr ⟨rest, hq⟩))

/-- Marks on QUEUED exchanges of a queue. -/
theorem markAll (xs : List SlotId) : ∀ {s : State}, PoolCore [] s →
    (∀ y ∈ xs, y ∈ s.queue p ∧ (s.slot y).state = .queued) → PoolCore [] (markAll xs s) ∧ Spares p s (markAll xs s) := by
  induction xs with
  | nil => exact fun h _ => ⟨h, .refl p _⟩
  | cons y ys ih =>
    intro s h hys
    obtain ⟨hy, hg⟩ := hys y List.mem_cons_self
    have hcore := h.markQueued hy hg
    obtain ⟨h1, h2⟩ := ih hcore fun z hz => by
      obtain ⟨hzq, hzs⟩ := hys z (List.mem_cons_of_mem _ hz)
      refine ⟨hzq, ?_⟩
      rw [State.slot_setSlot]
      split
      · exact hg
      · exact hzs
    have hspares : Spares p s (s.setSlot y { s.slot y with cancelRequested := true }) :=
      .of_beside (.setSlot (h.slots.point_of_mem hy) id) (fun _ _ => id) rfl
    exact ⟨h1, hspares.trans h2⟩

/-- DISABLE POINT's walk leaves nothing due at its point. -/
theorem flushWalk (xs : List SlotId) : ∀ {s : State}, PoolCore [] s → s.queue p = xs →
    (∀ x, s.first p = some x → (s.slot x).state ≠ .queued → HeadQuiet s p x) →
    PoolCore [] (flushWalk p xs s) ∧ Spares p s (flushWalk p xs s) ∧ Quiet (flushWalk p xs s) p ∧
      WalkMoves s (flushWalk p xs s) := by
  induction xs with
  | nil => exact fun h hq _ => h.closePoint hq
  | cons x rest ih =>
    intro s h hq hh
    obtain ⟨he, hh⟩ := h.flushFirst hq (hh x (first_eq_some.mpr ⟨rest, hq⟩))
    have hnd := (h.slots.queues p).1
    rw [hq] at hnd
    have hbehind : ∀ y ∈ rest, x ≠ y ∧ ((Machine.retireFirst false p x (Machine.flushFirst x s)).1.slot y).state = .queued :=
      fun y hy => by
        have hxy : x ≠ y := fun hxy => (List.nodup_cons.mp hnd).1 (hxy ▸ hy)
        rw [retireFirst_slot_other _ _ hxy]
        exact ⟨hxy, he.core.slots.behind p x rest he.queue y hy⟩
    rw [Machine.flushWalk]
    rcases he.core.retireFirst false he.queue hh with ⟨hr, hg⟩ | ⟨hr, hg, hquiet⟩
    · rw [if_pos hr]
      obtain ⟨h1, h2, h3, h4⟩ := ih hg.core hg.queue fun y hy hyq => by
        have hmem := SlotsAgree.mem_of_first hy
        rw [hg.queue] at hmem
        exact absurd (hbehind y hmem).2 hyq
      exact ⟨h1, (he.spares.trans hg.spares).trans h2, h3, (he.moves.trans hg.moves).trans h4⟩
    · rw [if_neg (by rw [hr]; nofun)]
      obtain ⟨h1, h2⟩ := PoolCore.markAll (p := p) rest hg.core fun y hy =>
        ⟨by rw [hg.queue]; exact List.mem_cons_of_mem _ hy, (hbehind y hy).2⟩
      have hxr : x ∉ rest := (List.nodup_cons.mp hnd).1
      generalize (Machine.retireFirst false p x (Machine.flushFirst x s)).1 = u at hg hquiet h1 h2
      have hmoves : WalkMoves u (Machine.markAll rest u) := by
        rw [markAll_eq]
        exact .of_eq rfl rfl rfl rfl
      have hq' : (Machine.markAll rest u).queue p = x :: rest := (markAll_queue rest u p).trans hg.queue
      have hslot : (Machine.markAll rest u).slot x = u.slot x := by
        rw [markAll_eq]
        exact (Vector.getElem_ofFn ..).trans (if_neg hxr)
      have hpool : (Machine.markAll rest u).le = u.le ∧ (Machine.markAll rest u).bp = u.bp ∧
          (Machine.markAll rest u).cu = u.cu := by
        rw [markAll_eq]
        exact ⟨rfl, rfl, rfl⟩
      refine ⟨h1, (he.spares.trans hg.spares).trans h2, ⟨fun _ => by rw [hq']; nofun, fun y hy => ?_⟩,
        (he.moves.trans hg.moves).trans hmoves⟩
      rw [State.first, hq'] at hy
      rw [← Option.some.inj hy]
      exact hquiet.congr hslot hpool.1 hpool.2.1 hpool.2.2

end PoolCore

section

variable {s : State} (h : PoolReady s)
include h

theorem poolAgrees_closeAndFlush (p : PointId) : PoolAgrees (closeAndFlush p s) := by
  have hcore : PoolCore [] (s.setPoint p { s.point p with state := .closing, haltCause := none }) :=
    h.calm.core.setPoint rfl (fun _ => rfl) (h.calm.core.slots.limit p) nofun
  have hspares : Spares p s (s.setPoint p { s.point p with state := .closing, haltCause := none }) :=
    .of_beside (.setPoint p s _) (fun _ _ => id) rfl
  obtain ⟨h1, h2, h3, h4⟩ := hcore.flushWalk (p := p) (s.queue p) rfl fun x hx _ =>
    ((h.calm.quiet p).head x hx).congr rfl rfl rfl rfl
  have hmoves : WalkMoves s (s.setPoint p { s.point p with state := .closing, haltCause := none }) :=
    .of_eq rfl rfl rfl rfl
  have hreach : Reaches s (flushWalk p (s.queue p) (s.setPoint p { s.point p with state := .closing, haltCause := none })) :=
    ⟨.of_spares h.calm.core.slots h.calm.core.buffers (fun q _ => h.calm.quiet q) h1 (hspares.trans h2) h3,
      hmoves.trans h4⟩
  exact hreach.served h

theorem poolAgrees_disablePoint (p : PointId) : PoolAgrees (disablePoint p s).1 := by
  unfold disablePoint
  split
  · exact h.pool
  · exact h.pool
  all_goals exact poolAgrees_closeAndFlush h p

end

end Sys2Proof.Machine
end

section
namespace Sys2Proof.Machine
set_option Elab.async false

/-! ### POST EXCHANGE (R39) -/

/-- The first exchange of a point after a post: that of before, or the one posted to an empty queue. -/
theorem enqueue_first {s : State} {p q : PointId} {x : SlotId} {rest : List SlotId} {y : SlotId}
    (h : (enqueue p x rest s).first q = some y) : s.first q = some y ∨ q = p ∧ y = x := by
  rw [State.first, enqueue_queue] at h
  split at h
  · next hpq =>
    subst hpq
    rw [List.head?_append] at h
    cases hf : s.first p with
    | some z =>
      rw [← State.first, hf] at h
      exact .inl h
    | none =>
      rw [← State.first, hf] at h
      exact .inr ⟨rfl, (Option.some.inj h).symm⟩
  · exact .inl h

theorem enqueue_first_kept {s : State} {p q : PointId} {x : SlotId} {rest : List SlotId} {y : SlotId}
    (h : s.first q = some y) : (enqueue p x rest s).first q = some y := by
  rw [State.first, enqueue_queue]
  split
  · next hpq =>
    subst hpq
    rw [List.head?_append, ← State.first, h]
    rfl
  · exact h

theorem Calm.enqueue {s : State} (h : Calm s) {p : PointId} {x : SlotId} {rest : List SlotId} (hf : s.sp.freeList = x :: rest)
    (hlimit : (s.queue p).length < (s.point p).cfg.queueLimit) (hd : (s.point p).state ≠ .disabled) :
    Calm (enqueue p x rest s) := by
  have hfree : (s.slot x).state = .free := (h.core.slots.freeList.2 x).mp (by rw [hf]; exact List.mem_cons_self)
  have hslot : ∀ y, (s.slot y).state ≠ .free → (Machine.enqueue p x rest s).slot y = s.slot y := fun y hy => by
    rw [enqueue_slot, if_neg fun (hxy : x = y) => hy (hxy ▸ hfree)]
  refine ⟨⟨h.core.slots.enqueue hf hlimit hd, h.core.buffers.change (fun b => .refl _) (fun y => ?_) (fun _ => rfl)
    (fun _ _ => rfl) (fun b q y ho => ⟨enqueue_first_kept ho.2.2.1, .inl ?_⟩) rfl rfl,
    h.core.held.change h.core.held.nodup (fun _ => id) fun q y _ hy _ _ =>
      ⟨enqueue_first_kept hy, hslot y (h.core.slots.taken_of_first hy)⟩⟩, fun q => ⟨fun hc => ?_, fun y hy => ?_⟩⟩
  · rw [enqueue_slot]
    split
    · next hxy =>
      rw [← hxy, h.core.slots.freeSlots x hfree]
      rfl
    · rfl
  · rw [hslot y (h.core.slots.taken_of_first ho.2.2.1)]
  · rw [enqueue_queue]
    split
    · exact List.append_ne_nil_of_right_ne_nil _ (List.cons_ne_nil _ _)
    · exact (h.quiet q).closing hc
  · rcases enqueue_first hy with k | ⟨-, rfl⟩
    · exact ((h.quiet q).head y k).congr (hslot y (h.core.slots.taken_of_first k)) rfl rfl rfl
    · have hyy := (enqueue_slot p y rest s y).trans (if_pos rfl)
      refine ⟨fun _ => ?_, fun k => ?_, fun k => ?_⟩
      · rw [hyy]
        rfl
      · rw [hyy] at k
        cases k
      · rw [hyy] at k
        cases k

/-! ### CANCEL EXCHANGE (R43) -/

/-- A slot is freed whatever its exchange's record says. -/
theorem freeSlot_setSlot_eq (x : SlotId) (p : PointId) (e : Slot) (s : State) :
    freeSlot x p (s.setSlot x e) = freeSlot x p s := by
  unfold freeSlot
  rw [State.setSlot_setSlot]
  rfl

/-- A QUEUED exchange waits at its point. -/
theorem PoolCore.waits {s : State} (h : PoolCore [] s) {p : PointId} {x : SlotId} (hg : (s.slot x).state = .queued)
    (hp : (s.slot x).point = some p) : Waits s p x := by
  obtain ⟨-, -, -, hj, hf⟩ := h.slots.queued x hg
  exact ⟨hg, hp, hj, hf, fun b _ => h.buffers.jobs_eq_zero.mp hj b⟩

/-- A QUEUED exchange leaves its queue, and the queue is followed. -/
theorem PoolReady.removed {s t : State} (h : PoolReady s) {p : PointId} {x : SlotId} (hg : (s.slot x).state = .queued)
    (hp : (s.slot x).point = some p) (ht : SamePool (freeSlot x p s) t) (hm : WalkMoves s t) :
    PoolAgrees (choose (settle (advancePoint p t))) := by
  have hx : x ∈ s.queue p := ((h.calm.core.slots.queues p).2 x).mpr ⟨by rw [hg]; nofun, hp⟩
  have hj := (h.calm.core.slots.queued x hg).2.2.2.1
  have hcore := ht.core (h.calm.core.freeSlot hx hj fun hh hf => h.calm.core.not_held_of_state hf (by rw [hg]; nofun) hh)
  have hquiet : ∀ q, q ≠ p → Quiet t q := fun q hq =>
    ht.quiet ((freeSlot_spares hp).quiet h.calm.core.slots h.calm.core.buffers hq (h.calm.quiet q))
  obtain ⟨h1, h2⟩ := calm_advance (w := false) hcore hquiet
  exact Reaches.served ⟨h1, hm.trans h2⟩ h

section

variable {s : State} (h : PoolReady s)
include h

theorem poolAgrees_postExchange (p : PointId) : PoolAgrees (postExchange p s).1 := by
  unfold postExchange
  split
  · exact h.pool
  · next hc =>
    split
    · exact h.pool
    · next x rest hf =>
      have hreach : Reaches s (enqueue p x rest s) := by
        unfold postCheck at hc
        dsimp only at hc
        split_ifs at hc with h1 h2 h3 h4
        exact ⟨h.calm.enqueue hf (Nat.not_le.mp h3) fun k => h1 (.inl k), .of_eq rfl rfl rfl rfl⟩
      exact hreach.served h

theorem poolAgrees_cancelQueued {x : SlotId} {p : PointId} (hg : (s.slot x).state = .queued)
    (hp : (s.slot x).point = some p) : PoolAgrees (cancelQueued x p s).1 := by
  have hwaits := h.calm.core.waits hg hp
  have hx : x ∈ s.queue p := ((h.calm.core.slots.queues p).2 x).mpr ⟨by rw [hg]; nofun, hp⟩
  have hheld : s.cu.count < 64 → s.cu.held = [] := fun k => by
    by_contra hh
    have := h.pool.heldFull hh
    omega
  unfold cancelQueued
  rw [hwaits.endWith_eq]
  dsimp only
  split
  · dsimp only
    have he : freeSlot x p (retired s x (cancelStatus s x)) = freeSlot x p s := freeSlot_setSlot_eq x p _ s
    rw [he]
    exact h.removed hg hp (.of_eq rfl rfl rfl rfl rfl rfl) (.of_eq rfl rfl rfl rfl)
  · split
    · next hn =>
      dsimp only
      refine h.removed hg hp ?_ ?_
      · have he : freeSlot x p (s.setSlot x { s.slot x with state := .retiring, status := some (cancelStatus s x) }) =
          freeSlot x p s := freeSlot_setSlot_eq x p _ s
        have hsp := congrArg State.sp he
        exact .of_eq rfl hsp rfl rfl rfl rfl
      · have hpost : WalkMoves s (postRecord x p s) := postRecord_moves ⟨hheld hn, hn⟩
        exact ⟨hpost.room, hpost.grows, hpost.full, rfl, id, rfl⟩
    · split
      · next hf =>
        dsimp only
        obtain ⟨rest, hq⟩ := first_eq_some.mp hf
        have hi := h.calm.core.inFlight_of_state (x := x) (by rw [hg]; nofun)
        have hhead := h.calm.core.endWith hq (by rw [hg]; nofun) hi (cancelStatus s x)
        rw [hwaits.endWith_eq] at hhead
        exact (hhead.advancePoint h.calm.core.slots h.calm.core.buffers fun q _ => h.calm.quiet q).served h
      · next hf =>
        dsimp only
        have hcore := h.calm.core.markQueued hx hg
        have hreach : Reaches s (s.setSlot x { s.slot x with cancelRequested := true }) := by
          refine ⟨⟨hcore, fun q => ⟨(h.calm.quiet q).closing, fun y hy => ?_⟩⟩, .of_eq rfl rfl rfl rfl⟩
          have hxy : x ≠ y := fun hxy => by
            subst hxy
            have hpq := h.calm.core.slots.point_eq hx (SlotsAgree.mem_of_first hy)
            exact hf (hpq ▸ hy)
          refine ((h.calm.quiet q).head y hy).congr ?_ rfl rfl rfl
          rw [State.slot_setSlot, if_neg hxy]
        exact hreach.settled h

theorem poolAgrees_cancelActive {x : SlotId} {p : PointId} (hg : (s.slot x).state = .active)
    (hp : (s.slot x).point = some p) (hm : (s.slot x).faultMark = false) : PoolAgrees (cancelActive x p s).1 := by
  have hf := h.calm.core.slots.first_of_state hp (by rw [hg]; nofun) (by rw [hg]; nofun)
  obtain ⟨rest, hq⟩ := first_eq_some.mp hf
  unfold cancelActive
  split
  · next hj =>
    dsimp only
    exact ((h.calm.core.endWith hq (by rw [hg]; nofun) hj.1 _).advancePoint h.calm.core.slots h.calm.core.buffers
      fun q _ => h.calm.quiet q).served h
  · next hj =>
    dsimp only
    have hhead := h.calm.core.markActive hq hg
    have hslot : (s.modSlot x fun e => { e with cancelRequested := true }).slot x =
        { s.slot x with cancelRequested := true } := State.slot_setSlot_same ..
    have hreach : Reaches s (s.modSlot x fun e => { e with cancelRequested := true }) := by
      refine ⟨.of_spares h.calm.core.slots h.calm.core.buffers (fun q _ => h.calm.quiet q) hhead.core hhead.spares
        ⟨fun _ => by rw [hhead.queue]; nofun, fun y hy => ?_⟩, hhead.moves⟩
      rw [State.first, hhead.queue] at hy
      rw [← Option.some.inj hy]
      refine ⟨fun k => ?_, fun _ hi => ⟨?_, fun _ => ?_⟩, fun k => ?_⟩
      · rw [hslot] at k
        exact absurd (hg.symm.trans k) nofun
      · rw [hslot]
        exact hm
      · exact h.calm.core.job_besides hq (by rw [hg]; nofun) hi fun k => hj ⟨hi, k⟩
      · rw [hslot] at k
        exact absurd (hg.symm.trans k) nofun
    exact hreach.settled h

theorem poolAgrees_cancelExchange : PoolAgrees (cancelExchange s).1 := by
  unfold cancelExchange
  split
  · exact h.pool
  · next x _ =>
    dsimp only
    unfold cancelDecision
    dsimp only
    split
    · exact h.pool
    · exact h.pool
    · next hg hp =>
      split
      · exact h.pool
      · exact poolAgrees_cancelQueued h hg hp
    · next hg hp =>
      split
      · exact h.pool
      · next hm =>
        split
        · exact h.pool
        · exact poolAgrees_cancelActive h hg hp (by simpa using hm)
    · exact h.pool

end

end Sys2Proof.Machine
end

section
/-! SUPPORT. Segment control, frames, the census and the window leave the pool alone, but for the walks they start (O58). -/

namespace Sys2Proof.Machine
set_option Elab.async false

/-! ### Changes beside the pool, the wait list and the ring's count -/

theorem SamePool.trans {s t u : State} (h : SamePool s t) (k : SamePool t u) : SamePool s u where
  points p := by
    obtain ⟨h1, h2, h3⟩ := h.points p
    obtain ⟨k1, k2, k3⟩ := k.points p
    exact ⟨k1.trans h1, k2.trans h2, k3.trans h3⟩
  slots := k.slots.trans h.slots
  buffers b := by
    obtain ⟨h1, h2, h3, h4, h5⟩ := h.buffers b
    obtain ⟨k1, k2, k3, k4, k5⟩ := k.buffers b
    exact ⟨k1.trans h1, k2.trans h2, k3.trans h3, k4.trans h4, k5.trans h5⟩
  txn := k.txn.trans h.txn
  mover := k.mover.trans h.mover
  held := k.held.trans h.held

/-- The states hold the same pool, the same wait list and as many records. -/
structure BesidePool (s t : State) : Prop where
  same : SamePool s t
  waits : t.bp.waitList = s.bp.waitList
  count : t.cu.count = s.cu.count

namespace BesidePool

variable {s t u : State}

theorem of_eq (hpt : t.pt = s.pt) (hsp : t.sp = s.sp) (hbp : t.bp = s.bp) (hle : t.le.txn = s.le.txn) (hpm : t.pm = s.pm)
    (hcu : t.cu = s.cu) : BesidePool s t :=
  ⟨.of_eq hpt hsp (by rw [hbp]) hle hpm (by rw [hcu]), by rw [hbp], by rw [hcu]⟩

theorem refl (s : State) : BesidePool s s := .of_eq rfl rfl rfl rfl rfl rfl

theorem trans (h : BesidePool s t) (k : BesidePool t u) : BesidePool s u :=
  ⟨h.same.trans k.same, k.waits.trans h.waits, k.count.trans h.count⟩

/-- The point records change in fields that the pool does not read. -/
theorem of_points (hpt : ∀ p, (t.point p).cfg = (s.point p).cfg ∧ (t.point p).state = (s.point p).state ∧
    (t.point p).staged = (s.point p).staged) (hsp : t.sp = s.sp) (hbp : t.bp = s.bp) (hle : t.le.txn = s.le.txn)
    (hpm : t.pm = s.pm) (hcu : t.cu = s.cu) : BesidePool s t := by
  refine ⟨⟨hpt, hsp, fun b => ?_, hle, hpm, by rw [hcu]⟩, by rw [hbp], by rw [hcu]⟩
  unfold State.buffer
  rw [hbp]
  exact .refl _

theorem setPoint {p : PointId} {v : Point} (hc : v.cfg = (s.point p).cfg) (hg : v.state = (s.point p).state)
    (hs : v.staged = (s.point p).staged) : BesidePool s (s.setPoint p v) := by
  refine .of_points (fun q => ?_) rfl rfl rfl rfl rfl
  rw [State.point_setPoint]
  split
  · next hpq => exact hpq ▸ ⟨hc, hg, hs⟩
  · exact ⟨rfl, rfl, rfl⟩

theorem agrees (h : BesidePool s t) (k : PoolAgrees s) : PoolAgrees t := k.same h.same h.waits h.count

theorem unserved (h : BesidePool s t) (k : Unserved s) : Unserved t := k.same h.same h.waits h.count

theorem ready (h : BesidePool s t) (k : PoolReady s) (hl : t.le.state = .idle → t.le.txn = none) : PoolReady t :=
  ⟨h.agrees k.pool, h.count ▸ k.ring, h.same.mover ▸ k.mover, hl⟩

end BesidePool

/-! ### Segment control -/

theorem clearSeqs_beside (s : State) : BesidePool s (clearSeqs s) :=
  .of_points (fun p => by rw [clearSeqs_point]; exact ⟨rfl, rfl, rfl⟩) rfl rfl rfl rfl rfl

theorem clearDefers_beside (s : State) : BesidePool s (clearDefers s) :=
  .of_points (fun p => by rw [clearDefers_point]; exact ⟨rfl, rfl, rfl⟩) rfl rfl rfl rfl rfl

theorem lowerDefers_beside (s : State) : BesidePool s (lowerDefers s) :=
  .of_points (fun p => by rw [lowerDefers_point]; exact ⟨rfl, rfl, rfl⟩) rfl rfl rfl rfl rfl

theorem stationsAbsent_beside (s : State) : BesidePool s (stationsAbsent s) := .of_eq rfl rfl rfl rfl rfl rfl

theorem enterResettingCore_beside (s : State) : BesidePool s (enterResettingCore s) := by
  have h := ((stationsAbsent_beside s).trans (clearSeqs_beside _)).trans (clearDefers_beside _)
  unfold enterResettingCore
  generalize clearDefers (clearSeqs (stationsAbsent s)) = t at h
  exact h.trans (.of_eq rfl rfl rfl rfl rfl rfl)

theorem downEntered_beside (s : State) : BesidePool s (downEntered s) := by
  have h := (stationsAbsent_beside s).trans (clearSeqs_beside _)
  have hle : (clearSeqs (stationsAbsent s)).le = s.le := rfl
  unfold downEntered
  generalize clearSeqs (stationsAbsent s) = t at h hle
  exact h.trans (.of_eq rfl rfl rfl (by rw [hle]) rfl rfl)

theorem beginFrame_beside (f : BitVec 12) (s : State) : BesidePool s (beginFrame f s) := by
  have h := lowerDefers_beside s
  unfold beginFrame
  generalize lowerDefers s = t at h
  exact h.trans (.of_eq rfl rfl rfl rfl rfl rfl)

theorem openAfterSignalling_beside (f : BitVec 12) (s : State) : BesidePool s (openAfterSignalling f s) := by
  have key : ∀ u : State, BesidePool s u → BesidePool s (raise .frameTick (raise .segmentChanged (beginFrame f u))) :=
    fun u hu => (hu.trans (beginFrame_beside f u)).trans (.of_eq rfl rfl rfl rfl rfl rfl)
  unfold openAfterSignalling
  dsimp only
  split
  · exact key _ (.of_eq rfl rfl rfl rfl rfl rfl)
  · exact key _ (.of_eq rfl rfl rfl rfl rfl rfl)

theorem enterHalting_beside (s : State) : BesidePool s (enterHalting s) := by
  unfold enterHalting
  dsimp only
  split <;> exact .of_eq rfl rfl rfl rfl rfl rfl

theorem takeHaltRequests_beside (s : State) : BesidePool s (takeHaltRequests s) := by
  rw [takeHaltRequests_eq]
  unfold haltTaken
  dsimp only
  split_ifs <;> exact .of_eq rfl rfl rfl rfl rfl rfl

theorem chargeMiss_beside (p : PointId) (s : State) : BesidePool s (chargeMiss p s) :=
  BesidePool.trans (.setPoint (p := p) (v := { s.point p with missCount := min 255 ((s.point p).missCount + 1) }) rfl rfl rfl)
    (.of_eq rfl rfl rfl rfl rfl rfl)

theorem settleDue_beside (s : State) : BesidePool s (settleDue s) := by
  have h := foldl_keeps (P := BesidePool s) (fun t p => if countsAsMiss s p then chargeMiss p t else t)
    (fun t p ht => by
      split
      · exact ht.trans (chargeMiss_beside p t)
      · exact ht) s.fs.due s (.refl s)
  unfold settleDue
  dsimp only
  exact h.trans (.of_eq rfl rfl rfl rfl rfl rfl)

theorem censusAnswered_beside (i : StationId) (s : State) : BesidePool s (censusAnswered i s) := by
  unfold censusAnswered
  dsimp only
  split <;> exact .of_eq rfl rfl rfl rfl rfl rfl

theorem censusAlert_beside (i : StationId) (s : State) : BesidePool s (censusAlert i s) := by
  unfold censusAlert
  split <;> exact .of_eq rfl rfl rfl rfl rfl rfl

theorem censusClash_beside (i : StationId) (s : State) : BesidePool s (censusClash i s) := by
  unfold censusClash
  split <;> exact .of_eq rfl rfl rfl rfl rfl rfl

theorem watchBit_beside (s : State) (level : Bool) : BesidePool s (watchBit s level) := by
  unfold watchBit reportWake
  dsimp only
  split_ifs <;> exact .of_eq rfl rfl rfl rfl rfl rfl

theorem writeResult_beside (code : BitVec 8) (r : Reply) (s : State) : BesidePool s (writeResult code r s) := by
  rw [writeResult_blocks]
  exact .of_eq rfl rfl rfl rfl rfl rfl

/-! ### The walks of segment control and of the census -/

theorem unserved_enterDown {s : State} (h : Unserved s) (hn : s.le.txn = none) : Unserved (enterDown s) := by
  rw [enterDown_walk]
  have hdown := (downEntered_beside s).unserved h
  have hn' := (downEntered_beside s).same.txn.trans hn
  generalize downEntered s = t at hdown hn'
  have hwalk := hdown.walks (endAllActive_reaches hdown.calm hn')
  generalize endAllActive t = u at hwalk
  exact hwalk.same (raise_same _ u) rfl rfl

theorem unserved_enterResettingByReset {s : State} (h : Unserved s) (hn : s.le.txn = none) :
    Unserved (enterResettingByReset s) := by
  have hcore := (enterResettingCore_beside s).unserved h
  have hn' := (enterResettingCore_beside s).same.txn.trans hn
  unfold enterResettingByReset
  generalize enterResettingCore s = t at hcore hn'
  exact hcore.walks (endAllActive_reaches hcore.calm hn')

theorem unserved_carryOutWaiting {s : State} (h : Unserved s) (hn : s.le.txn = none) : Unserved (carryOutWaiting s) := by
  unfold carryOutWaiting
  split
  · exact unserved_enterDown h hn
  · exact unserved_enterResettingByReset h hn
  · split
    · exact BesidePool.unserved (s := s) (.of_eq rfl rfl rfl rfl rfl rfl) h
    · exact h

theorem poolAgrees_applyCensus (a : CensusAnswer) (i : StationId) {s : State} (h : PoolReady s) (hn : s.le.txn = none) :
    PoolAgrees (applyCensus a i s) := by
  cases a with
  | silence =>
    have hset : ∀ v : Station, BesidePool s (s.setStation i v) := fun v => .of_eq rfl rfl rfl rfl rfl rfl
    have hgone : ∀ u : State, BesidePool s u →
        PoolAgrees (settle (takeHaltRequests (stationGone .stationDetached i u))) := fun u hu => by
      have hu' := hu.unserved h.unserved
      exact ((takeHaltRequests_beside _).unserved
        (hu'.walks (stationGone_reaches _ i hu'.calm (hu.same.txn.trans hn)))).settle
    unfold applyCensus censusSilence
    dsimp only
    split
    · exact hgone _ (.of_eq rfl rfl rfl rfl rfl rfl)
    · exact (hset _).agrees h.pool
  | present => exact ((censusAnswered_beside i s).trans (takeHaltRequests_beside _)).agrees h.pool
  | alert =>
    exact (((censusAnswered_beside i s).trans (censusAlert_beside i _)).trans (takeHaltRequests_beside _)).agrees h.pool
  | garbled =>
    exact (((censusAnswered_beside i s).trans (censusClash_beside i _)).trans (takeHaltRequests_beside _)).agrees h.pool

/-! ### A reset (R195 to R197) -/

theorem reset_slot (x : SlotId) : State.reset.slot x = Slot.free := Vector.getElem_replicate ..

theorem reset_freeList : State.reset.sp.freeList = List.finRange 256 := by
  simp only [State.reset, SlotPool.reset]

theorem reset_queue (p : PointId) : State.reset.queue p = [] := Vector.getElem_replicate ..

theorem reset_point (p : PointId) : State.reset.point p = Point.reset := Vector.getElem_replicate ..

theorem reset_buffer (b : BufId) : State.reset.buffer b = Buffer.reset := Vector.getElem_replicate ..

theorem reset_first (p : PointId) : State.reset.first p = none := by
  rw [State.first, reset_queue]
  rfl

/-- With every queue empty and every buffer FREE nothing is left undone. -/
theorem calm_reset : Calm State.reset where
  core := {
    slots := {
      freeList := ⟨reset_freeList ▸ List.nodup_finRange 256, fun x => by
        rw [reset_slot, reset_freeList]
        exact iff_of_true (List.mem_finRange (n := 256) x) rfl⟩
      freeSlots := fun x _ => reset_slot x
      queues := fun p => by
        rw [reset_queue]
        refine ⟨.nil, fun x => iff_of_false List.not_mem_nil fun k => k.1 ?_⟩
        rw [reset_slot]
        rfl
      owned := fun x k => absurd (by rw [reset_slot]; rfl) k
      limit := fun p => by
        rw [reset_queue]
        exact Nat.zero_le _
      disabled := fun p _ => reset_queue p
      behind := fun p x rest k => by
        rw [reset_queue] at k
        cases k
      queued := fun x k => by
        rw [reset_slot] at k
        cases k
      status := fun x => by
        rw [reset_slot]
        exact ⟨nofun, nofun⟩ }
    buffers := {
      jobs := fun x => by
        rw [reset_slot, buffersOf_eq_zero.mpr fun b => by rw [reset_buffer]; nofun]
        rfl
      empty := fun b _ => by
        rw [reset_buffer]
        exact ⟨rfl, rfl, rfl, rfl⟩
      owner := fun b k => absurd (by rw [reset_buffer]; rfl) k
      staged := fun p b => by
        rw [reset_point, reset_buffer]
        exact ⟨nofun, fun k => nomatch k.1⟩
      stagedActive := fun b x k => by
        rw [reset_buffer] at k
        cases k
      six := by
        unfold buffersStaging
        rw [List.countP_eq_zero.mpr fun b _ => by rw [reset_buffer]; decide]
        exact Nat.zero_le _
      receiving := fun b => by
        rw [reset_buffer]
        exact ⟨fun k => (nomatch k.1), fun ⟨_, k, _⟩ => (nomatch k)⟩
      txn := nofun
      stageJobs := ⟨.nil, fun b => by
        rw [reset_buffer]
        exact ⟨fun k => (nomatch k.1), fun k => k.elim nofun fun ⟨_, k, _⟩ => (nomatch k)⟩⟩
      drainJobs := ⟨.nil, fun b => by
        rw [reset_buffer]
        exact ⟨fun k => (nomatch k.1), fun k => k.elim nofun fun ⟨_, k, _⟩ => (nomatch k)⟩⟩
      job := nofun }
    held := ⟨.nil, nofun⟩ }
  quiet p := .of_empty (reset_queue p) (by rw [reset_point]; nofun)

theorem poolAgrees_reset : PoolAgrees State.reset := by
  refine calm_reset.agrees (fun k => absurd rfl k) ⟨.nil, fun p => iff_of_false List.not_mem_nil fun k => ?_⟩
  obtain ⟨-, -, -, x, hx, -⟩ := k
  rw [reset_first] at hx
  cases hx

/-- A reset that completes keeps the bytes of the buffers alone. -/
theorem poolAgrees_completeReset (s : State) : PoolAgrees (completeReset s) := by
  have hb : ∀ b, (completeReset s).buffer b = { Buffer.reset with data := (s.buffer b).data } := fun b => by
    unfold completeReset State.buffer
    exact getElem_mapTable _ _ _ _
  have hbeside : BesidePool State.reset (completeReset s) :=
    ⟨⟨fun _ => ⟨rfl, rfl, rfl⟩, rfl, fun b => by rw [hb, reset_buffer]; exact ⟨rfl, rfl, rfl, rfl, rfl⟩, rfl, rfl, rfl⟩,
      rfl, rfl⟩
  exact hbeside.agrees poolAgrees_reset

end Sys2Proof.Machine
end

section
namespace Sys2Proof.Machine
set_option Elab.async false

/-! ### The mover's state -/

/-- The pool does not see the state of the mover, its burst and its fault record. -/
theorem PoolAgrees.moverState {s : State} (h : PoolAgrees s) (g : MoverState) (u : Option Burst) (f : Option FaultRecord) :
    PoolAgrees { s with pm := { s.pm with state := g, burst := u, faultRecord := f } } := { h with }

theorem PoolAgrees.takeJob {s : State} (h : PoolAgrees s) (hidle : s.pm.state = .idle → s.pm.job = none) :
    PoolAgrees (takeJob s) := by
  have hcalm := h.calm.takeJob hidle
  rw [takeJob_blocks] at hcalm ⊢
  exact hcalm.agrees h.heldFull h.waits

/-! ### The segment and station commands -/

section

variable {s : State} (h : PoolReady s)
include h

theorem poolAgrees_setSegmentParameters : PoolAgrees (setSegmentParameters s).1 := by
  have hset : ∀ q, PoolAgrees { s with sc := { s.sc with params := q } } := fun q =>
    BesidePool.agrees (s := s) (.of_eq rfl rfl rfl rfl rfl rfl) h.pool
  unfold setSegmentParameters
  dsimp only
  split
  · split
    · split
      · exact hset _
      · exact h.pool
    · exact h.pool
  · exact h.pool

theorem poolAgrees_startSegment : PoolAgrees (startSegment s).1 := by
  have hstart : BesidePool s (enterResettingByStart s) := by
    have hcore := enterResettingCore_beside s
    unfold enterResettingByStart
    generalize enterResettingCore s = t at hcore
    exact hcore.trans (.of_eq rfl rfl rfl rfl rfl rfl)
  unfold startSegment
  split
  · exact hstart.agrees h.pool
  · exact h.pool

theorem poolAgrees_waits (w : Waiting) : PoolAgrees { s with sc := { s.sc with waiting := w } } :=
  BesidePool.agrees (s := s) (.of_eq rfl rfl rfl rfl rfl rfl) h.pool

theorem poolAgrees_stopSegment : PoolAgrees (stopSegment s).1 := by
  unfold stopSegment
  split
  · exact h.pool
  · split
    · exact poolAgrees_waits h _
    · next ht =>
      dsimp only
      exact (unserved_enterDown h.unserved (Option.not_isSome_iff_eq_none.mp ht)).settle

theorem poolAgrees_resetSegment : PoolAgrees (resetSegment s).1 := by
  unfold resetSegment
  split
  · split
    · exact poolAgrees_waits h _
    · next ht =>
      dsimp only
      exact (unserved_enterResettingByReset h.unserved (Option.not_isSome_iff_eq_none.mp ht)).settle
  · exact h.pool

theorem poolAgrees_haltSegment : PoolAgrees (haltSegment s).1 := by
  unfold haltSegment
  split
  · exact (enterHalting_beside s).agrees h.pool
  · exact h.pool

theorem poolAgrees_resumeSegment : PoolAgrees (resumeSegment s).1 := by
  have hrun : BesidePool s (raise .segmentChanged (s.setSeg .running)) := .of_eq rfl rfl rfl rfl rfl rfl
  unfold resumeSegment
  split
  · split
    · exact h.pool
    · exact (hrun.agrees h.pool).choose h.line
  · exact h.pool

theorem poolAgrees_suspendSegment : PoolAgrees (suspendSegment s).1 := by
  unfold suspendSegment
  split
  · exact BesidePool.agrees (s := s) (.of_eq rfl rfl rfl rfl rfl rfl) h.pool
  · exact h.pool

theorem poolAgrees_wakeSegment : PoolAgrees (wakeSegment s).1 := by
  unfold wakeSegment
  split
  · exact BesidePool.agrees (s := s) (.of_eq rfl rfl rfl rfl rfl rfl) h.pool
  · exact h.pool

theorem poolAgrees_clearStation : PoolAgrees (clearStation s).1 := by
  have hset : ∀ i v, PoolAgrees (choose (s.setStation i v)) := fun i v =>
    (BesidePool.agrees (s := s) (t := s.setStation i v) (.of_eq rfl rfl rfl rfl rfl rfl) h.pool).choose h.line
  unfold clearStation
  split
  · exact h.pool
  · exact hset _ _

theorem poolAgrees_resumeMover (hm : MoverAgrees s) : PoolAgrees (resumeMover s).1 := by
  unfold resumeMover
  split
  · next hf =>
    have hnone : s.pm.job = none := by
      by_contra hj
      have hjs := Option.isSome_iff_ne_none.mpr hj
      have hbusy := hm.1.mp ⟨hjs, hm.2.1 ▸ hjs⟩
      rw [hf] at hbusy
      rcases hbusy with k | k <;> cases k
    exact (h.pool.moverState .idle s.pm.burst none).takeJob fun _ => hnone
  · exact h.pool

/-! ### The window -/

theorem poolAgrees_acknowledge (w : Word) : PoolAgrees (acknowledge w s) := by
  unfold acknowledge
  split
  · exact BesidePool.agrees (s := s) (.of_eq rfl rfl rfl rfl rfl rfl) h.pool
  · exact BesidePool.agrees (s := s) (.of_eq rfl rfl rfl rfl rfl rfl) h.pool

theorem poolAgrees_writeHostConfig (w : Word) : PoolAgrees (writeHostConfig w s) := by
  unfold writeHostConfig
  dsimp only
  split
  · exact BesidePool.agrees (s := s) (.of_eq rfl rfl rfl rfl rfl rfl) h.pool
  · exact BesidePool.agrees (s := s) (.of_eq rfl rfl rfl rfl rfl rfl) h.pool

theorem poolAgrees_tick : PoolAgrees (tick s) := by
  have hbeside : ∀ {t : State}, BesidePool s t → PoolAgrees t := fun k => k.agrees h.pool
  unfold tick
  split
  · split
    · exact hbeside (.of_eq rfl rfl rfl rfl rfl rfl)
    · exact h.pool
  · split
    · exact hbeside (.of_eq rfl rfl rfl rfl rfl rfl)
    · split
      · exact hbeside (.of_eq rfl rfl rfl rfl rfl rfl)
      · exact h.pool

end

end Sys2Proof.Machine
end

section
namespace Sys2Proof.Machine
set_option Elab.async false

/-! ### COMPLETION RELEASE (R159, R160) -/

/-- What a posting walk of at most `n` rounds comes to: a calm pool with no point held, a full ring, or a record for each
round. -/
structure WalkPosts (n : Nat) (s t : State) : Prop where
  calm : Calm t
  room : t.cu.count ≤ 64
  done : HeldFull t ∨ s.cu.count + n ≤ t.cu.count
  waits : t.bp.waitList = s.bp.waitList
  mover : (s.pm.state = .idle → s.pm.job = none) → t.pm.state = .idle → t.pm.job = none
  line : t.le = s.le

/-- A held point leaves the list, its record is posted and its queue is followed. -/
theorem Calm.postsHeld {s : State} (h : Calm s) {p : PointId} {ps : List PointId} (hh : s.cu.held = p :: ps)
    (hc : s.cu.count < 64) {x : SlotId} (hx : s.first p = some x) {t : State}
    (ht : t = freeSlot x p (postRecord x p { s with cu := { s.cu with held := ps } })) :
    Calm (advance true p (t.queue p) t) ∧ (advance true p (t.queue p) t).cu.count ≤ 64 ∧
      s.cu.count + 1 ≤ (advance true p (t.queue p) t).cu.count ∧
      (advance true p (t.queue p) t).bp.waitList = s.bp.waitList ∧ ((s.pm.state = .idle → s.pm.job = none) → (advance true p (t.queue p) t).pm.state = .idle →
        (advance true p (t.queue p) t).pm.job = none) ∧
      (advance true p (t.queue p) t).le = s.le := by
  have hnd := h.core.held.nodup
  rw [hh] at hnd
  obtain ⟨hp, hps⟩ := List.nodup_cons.mp hnd
  obtain ⟨y, -, hy, -, hj, -⟩ := h.core.held.leads p (by rw [hh]; exact List.mem_cons_self)
  obtain rfl : x = y := Option.some.inj (hx.symm.trans hy)
  have hpoint := h.core.slots.point_of_first hx
  have hpopped : PoolCore [] { s with cu := { s.cu with held := ps } } :=
    ⟨h.core.slots.congr rfl fun _ => ⟨rfl, rfl⟩, h.core.buffers.change (fun _ => .refl _) (fun _ => rfl) (fun _ => rfl)
      (fun _ _ => rfl) (fun _ _ _ ho => ⟨ho.2.2.1, .inl rfl⟩) rfl rfl,
      h.core.held.change hps (fun q hq => by rw [hh]; exact List.mem_cons_of_mem _ hq) fun _ _ _ hf _ _ => ⟨hf, rfl⟩⟩
  have hsame : SamePool { s with cu := { s.cu with held := ps } }
      (postRecord x p { s with cu := { s.cu with held := ps } }) := postRecord_same ..
  have hcore : PoolCore [] t := ht ▸ (hsame.core hpopped).freeSlot (SlotsAgree.mem_of_first hx) hj fun k => absurd k hp
  have hspares : Spares p s t := by
    refine Spares.trans (t := postRecord x p { s with cu := { s.cu with held := ps } }) ?_ (ht ▸ freeSlot_spares hpoint)
    refine ⟨fun _ _ => rfl, fun _ _ => rfl, fun _ _ => rfl, fun _ _ _ => rfl, fun q hq hqh => ?_, fun _ => id⟩
    rw [hh] at hqh
    exact (List.mem_cons.mp hqh).resolve_left hq
  have hblocks : t.cu.count = s.cu.count + 1 ∧ t.bp = s.bp ∧ t.pm = s.pm ∧ t.le = s.le := by
    rw [ht]
    exact ⟨rfl, rfl, rfl, rfl⟩
  obtain ⟨hcount, hbp, hpm, hle⟩ := hblocks
  obtain ⟨h1, h2⟩ := calm_advance (w := true) hcore fun q hq => hspares.quiet h.core.slots h.core.buffers hq (h.quiet q)
  exact ⟨h1, h2.room (by omega), hcount ▸ h2.grows, h2.waits.trans (by rw [hbp]), fun k => h2.mover (hpm ▸ k), h2.line.trans hle⟩

theorem postingWalk_posts (n : Nat) : ∀ {s : State}, Calm s → s.cu.count ≤ 64 → WalkPosts n s (postingWalk n s) := by
  induction n with
  | zero => exact fun h hc => ⟨h, hc, .inr (Nat.le_refl _), rfl, id, rfl⟩
  | succ n ih =>
    intro s h hc
    rw [postingWalk]
    split
    · next hh => exact ⟨h, hc, .inl fun k => absurd hh k, rfl, id, rfl⟩
    · next p ps hh =>
      split
      · next hroom =>
        obtain ⟨x, -, hx, -⟩ := h.core.held.leads p (by rw [hh]; exact List.mem_cons_self)
        have key : ∀ t, t = freeSlot x p (postRecord x p { s with cu := { s.cu with held := ps } }) →
            WalkPosts (n + 1) s (postingWalk n (advance true p (t.queue p) t)) := fun t ht => by
          obtain ⟨h1, h2, h3, h4, h5, h6⟩ := h.postsHeld hh hroom hx ht
          have hw := ih h1 h2
          exact ⟨hw.calm, hw.room, hw.done.imp_right fun k => by omega, hw.waits.trans h4, fun k => hw.mover (h5 k),
            hw.line.trans h6⟩
        rw [hx]
        exact key _ rfl
      · next hfull => exact ⟨h, hc, .inl fun _ => Nat.le_antisymm hc (Nat.not_lt.mp hfull), rfl, id, rfl⟩

/-- Room in the ring lets the held points post their records. -/
theorem poolAgrees_release {s : State} (h : PoolReady s) (w : Word) : PoolAgrees (release w s) := by
  have hwalk : ∀ u : State, SamePool s u → u.bp.waitList = s.bp.waitList → u.cu.count ≤ 64 → u.le = s.le →
      PoolAgrees (if u.cu.held = [] then u else choose (settle (postingWalk 64 u))) := fun u hu hw hc hl => by
    have hcalm := hu.calm h.calm
    split
    · next hh => exact hcalm.agrees (fun k => absurd hh k) (hu.waitsAgree hw h.pool.waits)
    · have hp := postingWalk_posts 64 hcalm hc
      refine Unserved.serve ⟨hp.calm, hp.room, hp.done.elim id fun k _ => ?_, ?_, ?_⟩ ?_
      · have := hp.room
        omega
      · rw [hp.waits, hw]
        exact h.pool.waits.1
      · exact hp.mover (hu.mover ▸ h.mover)
      · rw [hp.line, hl]
        exact h.line
  have hreleased : SamePool s (releaseRecords w.toNat s) ∧ (releaseRecords w.toNat s).bp.waitList = s.bp.waitList ∧
      (releaseRecords w.toNat s).cu.count ≤ 64 ∧ (releaseRecords w.toNat s).le = s.le :=
    ⟨.of_eq rfl rfl rfl rfl rfl rfl, rfl, (Nat.sub_le _ _).trans h.ring, rfl⟩
  obtain ⟨h1, h2, h3, h4⟩ := hreleased
  unfold release
  generalize releaseRecords w.toNat s = u at h1 h2 h3 h4
  dsimp only
  split
  · exact hwalk (raise .accessFault (setAccess (fun a => { a with releaseExcess := true }) u))
      (h1.trans (.of_eq rfl rfl rfl rfl rfl rfl)) h2 h3 h4
  · exact hwalk u h1 h2 h3 h4

end Sys2Proof.Machine
end

section
/-! SUPPORT. The answers of the bus partner keep the pool (O58). -/

namespace Sys2Proof.Machine
set_option Elab.async false

/-! ### More changes at the first exchange of a queue -/

/-- A buffer that is not STAGED and has left its transaction is not that of the transaction in flight. -/
theorem BuffersAgree.not_txn {loose : List BufId} {s : State} (h : BuffersAgree loose s) {b : BufId} (hb : b ∈ loose)
    (hs : (s.buffer b).state ≠ .staged) : ∀ u, s.le.txn = some u → u.buffer ≠ b := fun u hu hub => by
  cases hd : u.direction with
  | store => exact hs (hub ▸ (h.txn u hu).2.2.2.2 hd)
  | fetch => exact (h.unlisted (.inl hb)).1 ⟨u, hu, hd, hub⟩

namespace HeadChanged

variable {loose loose' : List BufId} {p : PointId} {x : SlotId} {rest : List SlotId} {s t : State} {b : BufId}

theorem first (k : HeadChanged loose p x rest s t) : t.first p = some x := first_eq_some.mpr ⟨rest, k.queue⟩

theorem point (k : HeadChanged loose p x rest s t) : (t.slot x).point = some p := k.core.slots.point_of_first k.first

/-- The exchange takes a record with the same state, point and jobs. -/
theorem modHead (k : HeadChanged loose p x rest s t) {e : Slot} (hq : (t.slot x).state ≠ .queued) (hh : p ∉ t.cu.held)
    (hp : e.point = (t.slot x).point) (hj : e.jobs = (t.slot x).jobs) (hg : e.state = (t.slot x).state)
    (hst : e.status.isSome = (t.slot x).status.isSome) : HeadChanged loose p x rest s (t.setSlot x e) where
  core := k.core.setHead k.first hp hj (.inl hg) (fun h => absurd (hg.symm.trans h) hq)
    (by rw [hst, hg]; exact k.core.slots.status x) fun h => absurd h hh
  spares := k.spares.trans (.of_beside (.setSlot k.point fun h => hg.symm.trans h) (fun _ _ => id) rfl)
  queue := k.queue
  moves := k.moves.trans (.of_eq rfl rfl rfl rfl)

/-- A buffer of the exchange that is of no transaction and no job is freed. -/
theorem freeBuffer (k : HeadChanged loose p x rest s t) (hb : b ∈ loose ∨ (t.buffer b).state = .staged)
    (ht : ∀ u, t.le.txn = some u → u.buffer ≠ b) (hx : (t.buffer b).slot = some x) (hl : ∀ c, c ∈ loose' ↔ c ∈ loose ∧ c ≠ b) :
    HeadChanged loose' p x rest s (Machine.freeBuffer b t) := by
  obtain ⟨q, ho⟩ := k.core.buffers.owner_of_slot hx
  obtain rfl : q = p := k.core.slots.first_eq ho.2.2.1 k.first
  refine ⟨k.core.free hb ht ho hl, k.spares.trans ⟨fun r hr => ?_, fun r _ => ?_,
    fun y hy => ?_, fun c _ hc => ?_, fun r _ => ?_, fun y hy => ?_⟩, (freeBuffer_queue b q t).trans k.queue,
    k.moves.trans (.of_eq (freeBuffer_cu b t) (freeBuffer_waitList b t) (freeBuffer_pm b t) (freeBuffer_le b t))⟩
  · rw [freeBuffer_point, if_neg fun h => hr (Option.some.inj (h.1.symm.trans ho.1))]
  · exact freeBuffer_queue b r t
  · rw [freeBuffer_slot, if_neg fun h => hy ?_]
    rw [← Option.some.inj (hx.symm.trans h)]
    exact k.point
  · rw [freeBuffer_buffer, if_neg fun (hbc : b = c) => hc (hbc ▸ ho.1)]
  · rw [freeBuffer_cu]
    exact id
  · exact (inFlight_congr (congrArg LineEngine.txn (freeBuffer_le b t)) y).symm.trans hy

/-- A buffer of the exchange that is in no list is freed. -/
theorem free (k : HeadChanged loose p x rest s t) (hb : b ∈ loose) (hs : (t.buffer b).state ≠ .staged)
    (hx : (t.buffer b).slot = some x) (hl : ∀ c, c ∈ loose' ↔ c ∈ loose ∧ c ≠ b) :
    HeadChanged loose' p x rest s (Machine.freeBuffer b t) :=
  k.freeBuffer (.inl hb) (k.core.buffers.not_txn hb hs) hx hl

/-- All buffers of the exchange that are in no list are freed. -/
theorem frees (bs : List BufId) : ∀ {loose : List BufId} {t : State}, HeadChanged loose p x rest s t → bs.Nodup →
    (∀ c, c ∈ loose ↔ c ∈ bs) → (∀ c ∈ bs, (t.buffer c).state ≠ .staged ∧ (t.buffer c).slot = some x) →
    HeadChanged [] p x rest s (bs.foldl (fun t b => Machine.freeBuffer b t) t) := by
  induction bs with
  | nil =>
    intro loose t k _ hl _
    have : loose = [] := List.eq_nil_iff_forall_not_mem.mpr fun c hc => absurd ((hl c).mp hc) List.not_mem_nil
    subst this
    exact k
  | cons b bs ih =>
    intro loose t k hn hl hx
    obtain ⟨hb, hn⟩ := List.nodup_cons.mp hn
    obtain ⟨hbs, hbx⟩ := hx b List.mem_cons_self
    refine ih (loose := bs) (k.free ((hl b).mpr List.mem_cons_self) hbs hbx fun c => ?_) hn (fun _ => Iff.rfl)
      fun c hc => ?_
    · rw [hl, List.mem_cons]
      exact ⟨fun hc => ⟨.inr hc, fun hcb => hb (hcb ▸ hc)⟩, fun hc => hc.1.resolve_left hc.2⟩
    · rw [freeBuffer_buffer, if_neg fun (hbc : b = c) => hb (hbc ▸ hc)]
      exact hx c (List.mem_cons_of_mem _ hc)

/-- With nothing due for the exchange the pool is calm. -/
theorem calm (k : HeadChanged [] p x rest s t) (hs : SlotsAgree s) (hb : BuffersAgree loose s)
    (hq : ∀ q, q ≠ p → Quiet s q) (hx : HeadQuiet t p x) : Reaches s t := by
  refine ⟨.of_spares hs hb hq k.core k.spares ⟨fun _ => by rw [k.queue]; nofun, fun y hy => ?_⟩, k.moves⟩
  rw [← Option.some.inj (k.first.symm.trans hy)]
  exact hx

theorem advanceOwner (k : HeadChanged [] p x rest s t) (hs : SlotsAgree s) (hb : BuffersAgree loose s)
    (hq : ∀ q, q ≠ p → Quiet s q) : Reaches s (advanceOwner x t) := by
  unfold Machine.advanceOwner
  rw [k.point]
  exact k.advancePoint hs hb hq

end HeadChanged

/-- What a walk comes to from a state whose ring, wait list and mover are sound. -/
theorem Reaches.left {s t : State} (k : Reaches s t) (hr : s.cu.count ≤ 64) (hf : HeldFull s) (hw : s.bp.waitList.Nodup)
    (hm : s.pm.state = .idle → s.pm.job = none) : Unserved t :=
  ⟨k.calm, k.moves.room hr, k.moves.full hr hf, k.moves.waits ▸ hw, k.moves.mover hm⟩

/-! ### The mover gives up its job (R146, R148) -/

/-- The job's buffer is one of an exchange that leads its queue. -/
structure JobOf (s : State) (j : Job) (p : PointId) (rest : List SlotId) : Prop where
  owner : OwnedBy s j.buffer p j.slot
  queue : s.queue p = j.slot :: rest
  moving : (s.buffer j.buffer).state = if j.kind = .stage then .staging else .draining

theorem Calm.jobOf {s : State} (h : Calm s) {j : Job} (hj : s.pm.job = some j) : ∃ p rest, JobOf s j p rest := by
  obtain ⟨p, ho⟩ := h.core.buffers.owner_of_slot (h.core.buffers.job j hj).1
  obtain ⟨rest, hq⟩ := first_eq_some.mp ho.2.2.1
  exact ⟨p, rest, ho, hq, (h.core.buffers.job_state hj).1⟩

namespace JobOf

variable {s : State} {j : Job} {p : PointId} {rest : List SlotId}

theorem not_staged (k : JobOf s j p rest) : (s.buffer j.buffer).state ≠ .staged := by
  rw [k.moving]
  split <;> nofun

theorem not_queued (k : JobOf s j p rest) : (s.slot j.slot).state ≠ .queued := by
  rcases k.owner.2.2.2.1 with hg | hg <;> rw [hg] <;> nofun

theorem not_held (k : JobOf s j p rest) (h : Calm s) : p ∉ s.cu.held :=
  h.core.not_held_of_jobs k.owner.2.2.1 fun hj => h.core.buffers.jobs_eq_zero.mp hj _ k.owner.2.1

end JobOf

/-- The mover changes its state, its job and its queues, and the buffers `loose` are in no list. -/
theorem Calm.dropsJob {s t : State} (h : Calm s) {loose : List BufId} (hb : BuffersAgree loose t) (hpt : t.pt = s.pt)
    (hsp : t.sp = s.sp) (hbp : t.bp = s.bp) (hle : t.le = s.le) (hcu : t.cu = s.cu) :
    PoolCore loose t ∧ ∀ q, Quiet t q := by
  have hspares : ∀ p, Spares p s t := fun p =>
    .of_eq hpt hsp (by rw [hbp]) (by rw [hcu]) (by rw [hle])
  have hpoint : ∀ q, t.point q = s.point q := fun q => by unfold State.point; rw [hpt]
  have hslot : ∀ x, t.slot x = s.slot x := fun x => by unfold State.slot; rw [hsp]
  have hqueue : ∀ q, t.queue q = s.queue q := fun q => by unfold State.queue; rw [hsp]
  refine ⟨⟨h.core.slots.congr hsp fun q => by rw [hpoint]; exact ⟨rfl, rfl⟩, hb, h.core.held.change
    (hcu ▸ h.core.held.nodup) (fun q hq => hcu ▸ hq) fun q x _ hx _ _ => ⟨?_, hslot x⟩⟩, fun q => ⟨fun hc => ?_,
    fun x hx => ?_⟩⟩
  · rw [State.first, hqueue]
    exact hx
  · rw [hqueue]
    exact (h.quiet q).closing (hpoint q ▸ hc)
  · rw [State.first, hqueue] at hx
    exact ((h.quiet q).head x hx).congr (hslot x) hle hbp hcu

/-- A STAGING buffer of an ACTIVE exchange becomes STAGED. -/
theorem HeadChanged.staged {p : PointId} {x : SlotId} {rest : List SlotId} {s t : State} {b : BufId}
    (k : HeadChanged [b] p x rest s t) (hx : (t.buffer b).slot = some x) (hg : (t.buffer b).state = .staging)
    (ha : (t.slot x).state = .active) :
    HeadChanged [] p x rest s (t.setBuffer b { t.buffer b with state := .staged }) := by
  obtain ⟨q, ho⟩ := k.core.buffers.owner_of_slot hx
  obtain rfl : q = p := k.core.slots.first_eq ho.2.2.1 k.first
  have hloose : ∀ c, c ∈ ([] : List BufId) ↔ c ∈ [b] ∧ c ≠ b := fun c =>
    iff_of_false List.not_mem_nil fun hc => hc.2 (List.mem_singleton.mp hc.1)
  have hbuffers := k.core.buffers.setState (t := t.setBuffer b { t.buffer b with state := .staged })
    (List.mem_singleton_self b) ho rfl rfl (r := { t.buffer b with state := .staged }) nofun
    (iff_of_true (.inr rfl) (.inl hg)) (fun _ => ha)
    (k.core.buffers.not_txn (List.mem_singleton_self b) (by rw [hg]; nofun)) hloose rfl rfl rfl rfl rfl nofun
    ⟨rfl, nofun⟩ rfl
  refine ⟨⟨k.core.slots.congr rfl fun _ => ⟨rfl, rfl⟩, hbuffers, k.core.held.change k.core.held.nodup (fun _ => id)
    fun _ _ _ hf _ _ => ⟨hf, rfl⟩⟩, k.spares.trans ⟨fun _ _ => rfl, fun _ _ => rfl, fun _ _ => rfl, fun c _ hc => ?_,
    fun _ _ => id, fun _ => id⟩, k.queue, k.moves.trans (.of_eq rfl rfl rfl rfl)⟩
  rw [State.buffer_setBuffer, if_neg fun (hbc : b = c) => hc (hbc ▸ ho.1)]

section

variable {s : State} (h : PoolReady s)
include h

/-- The end of a job: its buffer is STAGED, or is freed and its exchange followed (R146). -/
theorem poolAgrees_endJob {j : Job} (hj : s.pm.job = some j) : PoolAgrees (endJob j s) := by
  obtain ⟨p, rest, k⟩ := h.calm.jobOf hj
  have hbuffers : BuffersAgree [j.buffer] (clearJob s) :=
    h.calm.core.buffers.jobDropped hj rfl rfl rfl rfl rfl (keep := fun _ => true) (List.filter_true _).symm
      (List.filter_true _).symm fun c => by simp
  obtain ⟨hcore, hquiet⟩ := h.calm.dropsJob hbuffers rfl rfl rfl rfl rfl
  have hcount : ∀ n, HeadChanged [j.buffer] p j.slot rest (clearJob s) (countMemory j.slot n (clearJob s)) := fun n =>
    (hcore.headChanged_refl k.queue).modHead k.not_queued (k.not_held h.calm) rfl rfl rfl rfl
  have hleft : ∀ u, Reaches (clearJob s) u → PoolAgrees (choose (settle u)) := fun u hu =>
    (hu.left h.ring h.pool.heldFull h.pool.waits.1 fun _ => rfl).serve (by rw [hu.moves.line]; exact h.line)
  have hfreed : ∀ n, Reaches (clearJob s) (advanceOwner j.slot (freeBuffer j.buffer (countMemory j.slot n (clearJob s)))) :=
    fun n => ((hcount n).free (loose' := []) (List.mem_singleton_self _) k.not_staged k.owner.2.1 fun c => by
      simp).advanceOwner hcore.slots hcore.buffers fun q _ => hquiet q
  unfold endJob
  dsimp only
  split
  · next hk =>
    refine hleft _ ?_
    unfold stageJobEnd
    dsimp only
    split
    · next hg =>
      have hst : (s.buffer j.buffer).state = .staging := k.moving.trans (if_pos hk)
      refine ((hcount _).staged k.owner.2.1 hst hg.1).calm hcore.slots hcore.buffers (fun q _ => hquiet q)
        ⟨fun e => absurd (hg.1.symm.trans e) nofun, fun _ hi => ⟨?_, fun e => absurd (hg.2.symm.trans e) nofun⟩,
          fun e => absurd (hg.1.symm.trans e) nofun⟩
      have hslot : (countMemory j.slot ((clearJob s).buffer j.buffer).count (clearJob s)).slot j.slot =
        { s.slot j.slot with bytesMemory := (s.slot j.slot).bytesMemory + ((clearJob s).buffer j.buffer).count } :=
          State.slot_setSlot_same ..
      obtain ⟨ha, -⟩ := hg
      rw [hslot] at ha
      exact (congrArg Slot.faultMark hslot).trans (((h.calm.quiet p).head j.slot k.owner.2.2.1).active ha hi).1
    · exact hfreed _
  · exact hleft _ (hfreed _)

end

end Sys2Proof.Machine
end

section
namespace Sys2Proof.Machine
set_option Elab.async false

/-! ### A bus error (R148, R46) -/

theorem takeHaltRequests_le (s : State) : (takeHaltRequests s).le = s.le := by
  rw [takeHaltRequests_eq]
  unfold haltTaken
  dsimp only
  split_ifs <;> rfl

namespace HeadChanged

variable {loose : List BufId} {p : PointId} {x : SlotId} {rest : List SlotId} {s t : State}

theorem raise (k : HeadChanged loose p x rest s t) (c : Cause) : HeadChanged loose p x rest s (raise c t) :=
  ⟨(raise_same c t).core k.core, k.spares.trans (.of_eq rfl rfl rfl rfl rfl), k.queue, k.moves.trans (.of_eq rfl rfl rfl rfl)⟩

/-- SP's part of a fault of the first exchange of a queue. -/
theorem faultExchange (k : HeadChanged [] p x rest s t) (hh : p ∉ t.cu.held) :
    HeadChanged [] p x rest s (faultExchange x t) := by
  unfold Machine.faultExchange
  split
  · next hg =>
    split
    · exact k.modHead (by rw [hg]; nofun) hh rfl rfl rfl rfl
    · next hi => exact k.trans (k.core.endWith k.queue (by rw [hg]; nofun) (by simpa using hi) _)
  · next hg => exact k.trans (k.core.endWith k.queue (by rw [hg]; nofun) (k.core.inFlight_of_state (by rw [hg]; nofun)) _)
  · next hg =>
    refine k.modHead (by rw [hg]; nofun) hh rfl rfl rfl ?_
    exact ((k.core.slots.status x).mpr hg).symm
  · exact k

end HeadChanged

/-- The mover in FAULTED: its job and the queued jobs of its exchange are given up. -/
def jobFaulted (j : Job) (u : Burst) (c : FaultCause) (s : State) : State :=
  { s with pm := { s.pm with
    state := .faulted, job := none, burst := none
    faultRecord := some { kind := j.kind, buffer := j.buffer, slot := j.slot, addr := u.addr, cause := c }
    drainQueue := withoutJobsOf s j.slot s.pm.drainQueue
    stageQueue := withoutJobsOf s j.slot s.pm.stageQueue } }

/-- The buffers of a faulted job and of the queued jobs of its exchange. -/
def faultedBuffers (j : Job) (s : State) : List BufId :=
  j.buffer :: (queuedOf s j.slot s.pm.drainQueue ++ queuedOf s j.slot s.pm.stageQueue)

theorem faultJob_eq (j : Job) (u : Burst) (c : FaultCause) (s : State) : faultJob j u c s =
    choose (settle (takeHaltRequests (advanceOwner j.slot (raise .moverFault (faultExchange j.slot
      ((faultedBuffers j s).foldl (fun t b => freeBuffer b t) (countMemory j.slot j.moved (jobFaulted j u c s)))))))) := rfl

theorem mem_queuedOf {s : State} {x : SlotId} {q : List BufId} {b : BufId} :
    b ∈ queuedOf s x q ↔ b ∈ q ∧ (s.buffer b).slot = some x := by
  rw [queuedOf, List.mem_filter, decide_eq_true_iff]

/-- The buffers given up are those of the exchange in the mover's lists, each once. -/
theorem faultedBuffers_given {s : State} (h : Calm s) {j : Job} (hj : s.pm.job = some j) :
    (faultedBuffers j s).Nodup ∧
      ∀ b ∈ faultedBuffers j s, (s.buffer b).state ≠ .staged ∧ (s.buffer b).slot = some j.slot := by
  obtain ⟨p, rest, k⟩ := h.jobOf hj
  obtain ⟨-, hjs, hjd⟩ := h.core.buffers.job j hj
  have hstage : ∀ b ∈ s.pm.stageQueue, (s.buffer b).state = .staging := fun b hb =>
    ((h.core.buffers.stageJobs.2 b).mpr (.inl hb)).1
  have hdrain : ∀ b ∈ s.pm.drainQueue, (s.buffer b).state = .draining := fun b hb =>
    ((h.core.buffers.drainJobs.2 b).mpr (.inl hb)).1
  refine ⟨List.nodup_cons.mpr ⟨fun hb => ?_, List.nodup_append.mpr ⟨h.core.buffers.drainJobs.1.filter _,
    h.core.buffers.stageJobs.1.filter _, fun a ha b hb hab => ?_⟩⟩, fun b hb => ?_⟩
  · rcases List.mem_append.mp hb with hb | hb
    · exact hjd (mem_queuedOf.mp hb).1
    · exact hjs (mem_queuedOf.mp hb).1
  · have hd := hdrain a (mem_queuedOf.mp ha).1
    rw [hab, hstage b (mem_queuedOf.mp hb).1] at hd
    cases hd
  · rcases List.mem_cons.mp hb with rfl | hb
    · exact ⟨k.not_staged, k.owner.2.1⟩
    · rcases List.mem_append.mp hb with hb | hb
      · obtain ⟨hb, hx⟩ := mem_queuedOf.mp hb
        exact ⟨by rw [hdrain b hb]; nofun, hx⟩
      · obtain ⟨hb, hx⟩ := mem_queuedOf.mp hb
        exact ⟨by rw [hstage b hb]; nofun, hx⟩

/-- Without its job and the queued jobs of its exchange the mover agrees with the buffers, but for those given up. -/
theorem jobFaulted_buffers {s : State} (h : Calm s) {j : Job} (hj : s.pm.job = some j) (u : Burst) (c : FaultCause) :
    BuffersAgree (faultedBuffers j s) (jobFaulted j u c s) := by
  refine h.core.buffers.jobDropped hj rfl rfl rfl rfl rfl (keep := fun b => !decide ((s.buffer b).slot = some j.slot)) rfl rfl
    fun b => ?_
  rw [faultedBuffers, List.mem_cons, List.mem_append, mem_queuedOf, mem_queuedOf, ← or_and_right, Bool.not_eq_false',
    decide_eq_true_iff]

section

variable {s : State} (h : PoolReady s)
include h

theorem poolAgrees_faultJob {j : Job} (hj : s.pm.job = some j) (u : Burst) (c : FaultCause) : PoolAgrees (faultJob j u c s) := by
  obtain ⟨p, rest, k⟩ := h.calm.jobOf hj
  obtain ⟨hnodup, hgiven⟩ := faultedBuffers_given h.calm hj
  have hbuffers := jobFaulted_buffers h.calm hj u c
  obtain ⟨hcore, hquiet⟩ := h.calm.dropsJob hbuffers rfl rfl rfl rfl rfl
  have hcount : HeadChanged (faultedBuffers j s) p j.slot rest (jobFaulted j u c s)
      (countMemory j.slot j.moved (jobFaulted j u c s)) :=
    (hcore.headChanged_refl k.queue).modHead k.not_queued (k.not_held h.calm) rfl rfl rfl rfl
  have hfreed := hcount.frees (faultedBuffers j s) hnodup (fun _ => Iff.rfl) hgiven
  have hcu := foldl_keeps (P := fun t => t.cu = s.cu) (fun t b => freeBuffer b t)
    (fun t b ht => (freeBuffer_cu b t).trans ht) (faultedBuffers j s) (countMemory j.slot j.moved (jobFaulted j u c s)) rfl
  rw [faultJob_eq]
  generalize (faultedBuffers j s).foldl (fun t b => freeBuffer b t)
    (countMemory j.slot j.moved (jobFaulted j u c s)) = v at hfreed hcu
  have hreach := ((hfreed.faultExchange (hcu ▸ k.not_held h.calm)).raise .moverFault).advanceOwner hcore.slots hcore.buffers
    fun q _ => hquiet q
  have hleft := hreach.left h.ring h.pool.heldFull h.pool.waits.1 nofun
  refine ((takeHaltRequests_beside _).unserved hleft).serve ?_
  rw [takeHaltRequests_le, hreach.moves.line]
  exact h.line

/-! ### The answers of the bus partner (R141 to R146) -/

/-- The job counts what was moved. -/
theorem poolAgrees_sameJob {j i : Job} (hj : s.pm.job = some j) (hk : i.kind = j.kind) (hb : i.buffer = j.buffer)
    (hx : i.slot = j.slot) (g : MoverState) : PoolAgrees { s with pm := { s.pm with state := g, job := some i } } := by
  have hbuffers : BuffersAgree [] { s with pm := { s.pm with state := g, job := some i } } :=
    h.calm.core.buffers.sameJob hj hk hb hx rfl rfl rfl rfl rfl rfl rfl
  obtain ⟨hcore, hquiet⟩ := h.calm.dropsJob hbuffers rfl rfl rfl rfl rfl
  exact Calm.agrees ⟨hcore, hquiet⟩ h.pool.heldFull h.pool.waits

end

/-- A buffer changes in its bytes alone. -/
theorem setBuffer_beside {s : State} {b : BufId} {r : Buffer} (hr : SameBuffer r (s.buffer b)) : BesidePool s (s.setBuffer b r) := by
  refine ⟨⟨fun _ => ⟨rfl, rfl, rfl⟩, rfl, fun c => ?_, rfl, rfl, rfl⟩, rfl, rfl⟩
  rw [State.buffer_setBuffer]
  split
  · next hbc => exact hbc ▸ hr
  · exact .refl _

end Sys2Proof.Machine
end

section
namespace Sys2Proof.Machine
set_option Elab.async false

/-! ### The answers of the bus partner (R141 to R146) -/

/-- The job as it is after a count of bytes moved. -/
def movedJob (j : Job) (n : Nat) : Job :=
  { j with nextAddr := j.nextAddr + BitVec.ofNat 32 n, remaining := j.remaining - n, moved := j.moved + n, retries := 0 }

section

variable {s : State} (h : PoolReady s)
include h

theorem countMoved_ready {j : Job} (hj : s.pm.job = some j) (hs : s.pm.state = .burst) (n : Nat) (w : Vector Word 16) :
    PoolReady (countMoved j n w s) ∧ (countMoved j n w s).pm = { s.pm with job := some (movedJob j n) } := by
  have hmoved : PoolReady { s with pm := { s.pm with job := some (movedJob j n) } } :=
    ⟨poolAgrees_sameJob h (i := movedJob j n) hj rfl rfl rfl s.pm.state, h.ring, fun k => absurd (hs.symm.trans k) nofun, h.line⟩
  refine ⟨?_, countMoved_pm j n w s⟩
  unfold countMoved
  dsimp only
  split
  · exact BesidePool.ready (setBuffer_beside ⟨rfl, rfl, rfl, rfl, rfl⟩) hmoved h.line
  · exact hmoved

theorem poolAgrees_nextBurst : PoolAgrees (nextBurst s) := by
  unfold nextBurst
  split
  · exact h.pool.moverState _ _ _
  · exact h.pool

theorem poolAgrees_answerCompleted (w : Vector Word 16) {j : Job} (hj : s.pm.job = some j) (hs : s.pm.state = .burst)
    (u : Burst) : PoolAgrees (answerCompleted w j u s) := by
  obtain ⟨hmoved, hpm⟩ := countMoved_ready h hj hs u.bytes w
  unfold answerCompleted
  dsimp only
  split
  · exact poolAgrees_endJob hmoved (j := movedJob j u.bytes) (by rw [hpm])
  · exact poolAgrees_nextBurst hmoved

theorem poolAgrees_answerRetry {j : Job} (hj : s.pm.job = some j) (u : Burst) : PoolAgrees (answerRetry j u s) := by
  unfold answerRetry
  split
  · exact poolAgrees_faultJob h hj u _
  · exact poolAgrees_sameJob h (i := { j with retries := j.retries + 1 }) hj rfl rfl rfl .waitGrant

end

/-! ### The stages of a transaction (R84, R87, R92) -/

/-- The transaction's record changes in what the pool does not read. -/
theorem PoolAgrees.sameTxn {s : State} (h : PoolAgrees s) {u v : Txn} (hu : s.le.txn = some u) (hp : v.point = u.point)
    (hx : v.slot = u.slot) (hd : v.direction = u.direction) (hb : v.buffer = u.buffer) {l : LineEngine}
    (hl : l.txn = some v) : PoolAgrees { s with le := l } :=
  { h with
    marked := fun x hx' hi => by
      refine h.marked x hx' ?_
      unfold inFlight at hi ⊢
      rw [hu]
      dsimp only at hi
      rw [hl] at hi
      dsimp only at hi ⊢
      rw [← hx]
      exact hi
    receiving := fun b => by
      refine (h.receiving b).trans ?_
      change _ ↔ ∃ t, l.txn = some t ∧ t.direction = .fetch ∧ t.buffer = b
      rw [hu, hl]
      simp only [Option.some.injEq, exists_eq_left', hd, hb]
    txn := fun t ht => by
      obtain rfl : v = t := Option.some.inj (hl.symm.trans ht)
      rw [hp, hx, hd, hb]
      exact h.txn u hu }

theorem poolAgrees_answerAt {s : State} (h : PoolReady s) {u : Txn} (hu : s.le.txn = some u) (moment : Nat) :
    PoolAgrees (answerAt u moment s) := by
  have helapsed : PoolAgrees (s.setElapsed moment) := BesidePool.agrees (s := s) (.of_eq rfl rfl rfl rfl rfl rfl) h.pool
  exact helapsed.sameTxn (u := u) (v := { u with answerBegan := some moment }) hu rfl rfl rfl rfl rfl

theorem poolAgrees_receiveData {s : State} (h : PoolReady s) {u : Txn} (hu : s.le.txn = some u) (k : Nat) (q : Bool)
    (l : List Byte) (moment : Nat) : PoolAgrees (receiveData u k q l moment s) := by
  have helapsed : BesidePool s (s.setElapsed moment) := .of_eq rfl rfl rfl rfl rfl rfl
  have hdata := (helapsed.trans (setBuffer_beside (b := u.buffer)
    (r := { s.buffer u.buffer with data := writeBytes (s.buffer u.buffer).data 0 l }) ⟨rfl, rfl, rfl, rfl, rfl⟩)).agrees h.pool
  exact hdata.sameTxn (u := u) (v := { u with received := some (k, q) }) hu rfl rfl rfl rfl rfl

end Sys2Proof.Machine
end

section
/-! SUPPORT. The end of a transaction keeps the pool (O58). -/

namespace Sys2Proof.Machine
set_option Elab.async false

/-! ### The transaction is removed (R86) -/

/-- The buffer that a transaction leaves in no list. -/
def looseOf (u : Txn) : List BufId := if u.direction = .fetch then [u.buffer] else []

/-- The transaction `u` has just been removed: its exchange leads `rest`, and at the other points nothing is due. -/
structure TxnGone (u : Txn) (rest : List SlotId) (s : State) : Prop where
  core : PoolCore (looseOf u) s
  quiet : ∀ q, q ≠ u.point → Quiet s q
  removed : s.le.txn = none
  queue : s.queue u.point = u.slot :: rest
  active : (s.slot u.slot).state = .active
  buffer : (s.buffer u.buffer).slot = some u.slot
  store : u.direction = .store → (s.buffer u.buffer).state = .staged
  fetch : u.direction = .fetch → (s.buffer u.buffer).state = .receiving

theorem PoolReady.txnGone {s : State} (h : PoolReady s) {u : Txn} (hu : s.le.txn = some u) (moment : Nat) :
    ∃ rest, TxnGone u rest (txnIdle moment s) := by
  obtain ⟨hf, ha, -, -, hs⟩ := h.calm.core.buffers.txn u hu
  obtain ⟨rest, hq⟩ := first_eq_some.mp hf
  have ho := h.calm.core.buffers.owner_of_txn hu
  refine ⟨rest, ⟨h.calm.core.slots.congr rfl fun _ => ⟨rfl, rfl⟩, h.calm.core.buffers.txnRemoved hu rfl rfl rfl rfl rfl,
    h.calm.core.held.change h.calm.core.held.nodup (fun _ => id) fun _ _ _ hf _ _ => ⟨hf, rfl⟩⟩, fun q hqp => ?_, rfl, hq,
    ha, ho.2.1, hs, fun hd => ((h.calm.core.buffers.receiving u.buffer).mpr ⟨u, hu, hd, rfl⟩).1⟩
  refine ⟨(h.calm.quiet q).closing, fun y hy => ?_⟩
  obtain ⟨h1, h2, h3⟩ := (h.calm.quiet q).head y hy
  refine ⟨h1, fun hg _ => h2 hg ?_, h3⟩
  unfold inFlight
  rw [hu]
  refine decide_eq_false fun huy => hqp ?_
  exact (h.calm.core.slots.first_eq hf (huy ▸ hy)).symm

/-! ### Changes at the point of a transaction -/

namespace HeadChanged

variable {loose loose' : List BufId} {p : PointId} {x : SlotId} {rest : List SlotId} {s t : State}

/-- The point takes a record with the same configuration and staged buffer. -/
theorem setPoint (k : HeadChanged loose p x rest s t) {v : Point} (hv : v.cfg = (t.point p).cfg)
    (hs : v.staged = (t.point p).staged) (hd : v.state ≠ .disabled) : HeadChanged loose p x rest s (t.setPoint p v) where
  core := k.core.setPoint hs (fun _ => by rw [hv]) (by rw [hv]; exact k.core.slots.limit p) fun h => absurd h hd
  spares := k.spares.trans (.of_beside (.setPoint p t v) (fun _ _ => id) rfl)
  queue := k.queue
  moves := k.moves.trans (.of_eq rfl rfl rfl rfl)

/-- A point with an exchange is not DISABLED. -/
theorem not_disabled (k : HeadChanged loose p x rest s t) : (t.point p).state ≠ .disabled := fun h => by
  have hq := k.core.slots.disabled p h
  rw [k.queue] at hq
  cases hq

theorem toggleSeq (k : HeadChanged loose p x rest s t) : HeadChanged loose p x rest s (toggleSeq p t) :=
  k.setPoint (v := { t.point p with seq := !(t.point p).seq }) rfl rfl k.not_disabled

theorem deferPoint (k : HeadChanged loose p x rest s t) : HeadChanged loose p x rest s (deferPoint p t) := by
  unfold Machine.deferPoint
  split
  · exact k.setPoint (v := { t.point p with deferCount := (t.point p).cfg.deferInterval }) rfl rfl k.not_disabled
  · exact k

theorem haltPoint (k : HeadChanged loose p x rest s t) (c : HaltCause) : HeadChanged loose p x rest s (haltPoint c p t) := by
  have hhalt : HeadChanged loose p x rest s
      (Machine.raise .pointHalted (t.modPoint p fun q => { q with state := .halted, haltCause := some c })) :=
    (k.setPoint (v := { t.point p with state := .halted, haltCause := some c }) rfl rfl nofun).raise _
  unfold Machine.haltPoint
  split
  · exact hhalt
  · exact hhalt
  · exact k
  · exact k
  · exact k

theorem endExchange (k : HeadChanged [] p x rest s t) (hi : t.le.txn = none) (c : Status) :
    HeadChanged [] p x rest s (endExchange x c t) := k.trans (k.core.endExchange k.queue (inFlight_of_none hi x) c)

/-- The payload of a FETCH waits for the mover (R92). -/
theorem drained (k : HeadChanged loose p x rest s t) {b : BufId} {r : Buffer} (hl : loose = [b])
    (hx : (t.buffer b).slot = some x) (hg : (t.buffer b).state = .receiving) (hr : r.state = .draining)
    (hp : r.point = (t.buffer b).point) (hrx : r.slot = (t.buffer b).slot) : HeadChanged [] p x rest s
      { t.setBuffer b r with pm := { t.pm with drainQueue := t.pm.drainQueue ++ [b] } } := by
  subst hl
  obtain ⟨q, ho⟩ := k.core.buffers.owner_of_slot hx
  obtain rfl : q = p := k.core.slots.first_eq ho.2.2.1 k.first
  have hloose : ∀ c, c ∈ ([] : List BufId) ↔ c ∈ [b] ∧ c ≠ b := fun c =>
    iff_of_false List.not_mem_nil fun hc => hc.2 (List.mem_singleton.mp hc.1)
  have hbuffers := k.core.buffers.setState
    (t := { t.setBuffer b r with pm := { t.pm with drainQueue := t.pm.drainQueue ++ [b] } })
    (List.mem_singleton_self b) ho hp hrx (r := r) (by rw [hr]; nofun)
    (by rw [hr, hg]; exact iff_of_false (by simp) (by simp)) (fun h => absurd (hr.symm.trans h) nofun)
    (k.core.buffers.not_txn (List.mem_singleton_self b) (by rw [hg]; nofun)) hloose rfl rfl rfl rfl rfl (by rw [hr]; nofun)
    ⟨rfl, by rw [hr]; nofun⟩ (if_pos hr).symm
  refine ⟨⟨k.core.slots.congr rfl fun _ => ⟨rfl, rfl⟩, hbuffers, k.core.held.change k.core.held.nodup (fun _ => id)
    fun _ _ _ hf _ _ => ⟨hf, rfl⟩⟩, k.spares.trans ⟨fun _ _ => rfl, fun _ _ => rfl, fun _ _ => rfl, fun c _ hc => ?_,
    fun _ _ => id, fun _ => id⟩, k.queue, k.moves.trans ⟨id, Nat.le_refl _, fun _ => id, rfl, id, rfl⟩⟩
  exact (State.buffer_setBuffer ..).trans (if_neg fun (hbc : b = c) => hc (hbc ▸ ho.1))

end HeadChanged

/-! ### The outcomes (R88 to R97) -/

namespace TxnGone

variable {u : Txn} {rest : List SlotId} {s : State} (k : TxnGone u rest s)
include k

theorem head : HeadChanged (looseOf u) u.point u.slot rest s s := k.core.headChanged_refl k.queue

/-- What the outcome leaves at the point is followed. -/
theorem followed {t : State} (h : HeadChanged [] u.point u.slot rest s t) : Reaches s (afterOutcome u t) :=
  h.advancePoint k.core.slots k.core.buffers k.quiet

/-- The counters of the exchange change. -/
theorem counted {e : Slot} (hp : e.point = (s.slot u.slot).point) (hj : e.jobs = (s.slot u.slot).jobs)
    (hg : e.state = (s.slot u.slot).state) (hst : e.status = (s.slot u.slot).status) :
    HeadChanged (looseOf u) u.point u.slot rest s (s.setSlot u.slot e) :=
  k.head.modHead (by rw [k.active]; nofun) (k.core.not_held_of_state (first_eq_some.mpr ⟨rest, k.queue⟩)
    (by rw [k.active]; nofun)) hp hj hg (by rw [hst])

/-- The transaction's buffer is freed. -/
theorem freed {t : State} (h : HeadChanged (looseOf u) u.point u.slot rest s t) (hb : t.buffer u.buffer = s.buffer u.buffer) :
    HeadChanged [] u.point u.slot rest s (freeBuffer u.buffer t) := by
  have hn : t.le.txn = none := by rw [h.moves.line, k.removed]
  refine h.freeBuffer ?_ (fun v hv => absurd (hn.symm.trans hv) nofun) (hb ▸ k.buffer) fun c => ?_
  · cases hd : u.direction with
    | store => exact .inr (hb ▸ k.store hd)
    | fetch => exact .inl (by rw [looseOf, if_pos hd]; exact List.mem_singleton_self _)
  · unfold looseOf
    split
    · exact iff_of_false List.not_mem_nil fun hc => hc.2 (List.mem_singleton.mp hc.1)
    · exact iff_of_false List.not_mem_nil fun hc => List.not_mem_nil hc.1

theorem storeAccept : Reaches s (storeAccept u s) := by
  have hfreed := k.freed (k.counted (e := { s.slot u.slot with
    bytesLine := (s.slot u.slot).bytesLine + u.requested, errors := 0 }) rfl rfl rfl rfl).toggleSeq rfl
  unfold Machine.storeAccept
  dsimp only
  split
  · exact k.followed hfreed
  · exact k.followed (hfreed.endExchange (by rw [hfreed.moves.line, k.removed]) _)

theorem fetchDiscarded (b : Bool) : Reaches s (fetchDiscarded u b s) := by
  have hcount := k.counted (e := { s.slot u.slot with errors := 0 }) rfl rfl rfl rfl
  unfold Machine.fetchDiscarded
  dsimp only
  cases b with
  | true => exact k.followed (k.freed hcount.toggleSeq rfl)
  | false => exact k.followed (k.freed hcount rfl)

theorem fetchTaken (hd : u.direction = .fetch) (n : Nat) : Reaches s (fetchTaken u n s) := by
  have hcount := (k.counted (e := { s.slot u.slot with
    bytesLine := (s.slot u.slot).bytesLine + n, errors := 0 }) rfl rfl rfl rfl).toggleSeq
  have hfilled : HeadChanged [] u.point u.slot rest s (fetchFilled u n s) := by
    unfold fetchFilled
    dsimp only
    split
    · exact k.freed hcount rfl
    · exact hcount.drained (by rw [looseOf, if_pos hd]) k.buffer (k.fetch hd) rfl rfl rfl
  have hn : (fetchFilled u n s).le.txn = none := by rw [hfilled.moves.line, k.removed]
  rw [fetchTaken_eq]
  split
  · exact k.followed (hfilled.endExchange hn _)
  · split
    · exact k.followed (hfilled.endExchange hn _)
    · exact k.followed hfilled

/-- An ending without an answer, below the attempt limit or at it (R94, R97). -/
theorem errorOutcome {t : State} (h : HeadChanged [] u.point u.slot rest s t) (ha : (t.slot u.slot).state = .active)
    (st : Status) : Reaches s (errorOutcome u st t) := by
  have hcount : HeadChanged [] u.point u.slot rest s
      (t.modSlot u.slot fun e => { e with errors := e.errors + 1 }) :=
    h.modHead (by rw [ha]; nofun) (h.core.not_held_of_state h.first (by rw [ha]; nofun)) rfl rfl rfl rfl
  have hn : (t.modSlot u.slot fun e => { e with errors := e.errors + 1 }).le.txn = none := by
    rw [hcount.moves.line, k.removed]
  unfold Machine.errorOutcome
  generalize (t.modSlot u.slot fun e => { e with errors := e.errors + 1 }) = v at hcount hn
  dsimp only
  split
  · exact k.followed ((hcount.endExchange hn _).haltPoint _)
  · exact k.followed hcount

theorem refuseOutcome {t : State} (h : HeadChanged [] u.point u.slot rest s t) : Reaches s (refuseOutcome u t) :=
  k.followed ((h.endExchange (by rw [h.moves.line, k.removed]) _).haltPoint _)

theorem applyOutcome (a : Answer) : Reaches s (applyOutcome u a s) := by
  have hfreed := k.freed k.head rfl
  have hactive : ((freeBuffer u.buffer s).slot u.slot).state = .active := by
    rw [freeBuffer_slot, if_pos k.buffer]
    exact k.active
  have herror := fun st => k.errorOutcome hfreed hactive st
  unfold Machine.applyOutcome
  split
  · next hd =>
    have hhead : HeadChanged [] u.point u.slot rest s s := by
      have := k.head
      rwa [looseOf, if_neg (by rw [hd]; nofun)] at this
    unfold storeOutcome
    split
    · exact k.storeAccept
    · exact k.followed hhead.deferPoint
    · exact k.refuseOutcome hfreed
    · exact k.errorOutcome hhead k.active _
    · exact k.errorOutcome hhead k.active _
    · exact k.errorOutcome hhead k.active _
    · exact k.errorOutcome hhead k.active _
  · next hd =>
    unfold fetchOutcome
    split
    · unfold fetchData
      split
      · split
        · exact k.fetchDiscarded _
        · exact k.fetchTaken hd _
      · exact k.fetchDiscarded _
    · exact k.followed hfreed.deferPoint
    · exact k.refuseOutcome hfreed
    · exact herror _
    · exact herror _
    · exact herror _
    · exact herror _

end TxnGone

/-! ### The end of a transaction (R86, R98, R115) -/

theorem unserved_applyStreak (i : StationId) (a : Answer) {s : State} (h : Unserved s) (hn : s.le.txn = none) :
    Unserved (applyStreak i a s) := by
  have hset : ∀ v : Station, BesidePool s (s.setStation i v) := fun v => .of_eq rfl rfl rfl rfl rfl rfl
  have hgone : ∀ u : State, BesidePool s u → Unserved (stationGone .stationLost i u) := fun u hu => by
    have hu' := hu.unserved h
    exact hu'.walks (stationGone_reaches _ i hu'.calm (hu.same.txn.trans hn))
  unfold applyStreak
  dsimp only
  split
  · exact hgone _ (.of_eq rfl rfl rfl rfl rfl rfl)
  · exact (hset _).unserved h

theorem carryOutWaiting_txn {s : State} (hn : s.le.txn = none) : (carryOutWaiting s).le.txn = none := by
  unfold carryOutWaiting
  split
  · exact (enterDown_segment s).2.2.2.1.trans hn
  · have hcore : (enterResettingCore s).le.txn = none := hn
    unfold enterResettingByReset
    rw [(endAllActive_frame (enterResettingCore s)).2.1]
    exact hcore
  · split
    · exact hn
    · exact hn

theorem poolAgrees_endTxn {s : State} (h : PoolReady s) {u : Txn} (hu : s.le.txn = some u) (a : Answer) (moment : Nat) :
    PoolAgrees (endTxn u a moment s) := by
  obtain ⟨rest, k⟩ := h.txnGone hu moment
  have hreach := k.applyOutcome a
  have hleft : Unserved (applyOutcome u a (txnIdle moment s)) :=
    hreach.left h.ring h.pool.heldFull h.pool.waits.1 h.mover
  have hn : (applyOutcome u a (txnIdle moment s)).le.txn = none := by rw [hreach.moves.line]; rfl
  have hstreak := unserved_applyStreak (s.point u.point).cfg.station a hleft hn
  have hn' := (txnOutcome_segSame u a moment s).2
  unfold txnOutcome at hn'
  rw [endTxn_eq]
  generalize applyStreak (s.point u.point).cfg.station a (applyOutcome u a (txnIdle moment s)) = v at hstreak hn'
  refine ((takeHaltRequests_beside _).unserved (unserved_carryOutWaiting hstreak hn')).serve fun _ => ?_
  rw [takeHaltRequests_le]
  exact carryOutWaiting_txn hn'

end Sys2Proof.Machine
end

section
namespace Sys2Proof.Machine
set_option Elab.async false

/-! ### What a happening leaves of the window -/

theorem WalkFrame.hw {s t : State} (h : WalkFrame s t) : t.hw = s.hw := h.2.2.1

theorem choose_hw (s : State) : (choose s).hw = s.hw := by
  rcases (choose_only s).choice with e | ⟨-, p, before, after, -, -, hb⟩
  · rw [e]
  · have key : ∀ f, Begins s p f (choose s) → (choose s).hw = s.hw := fun f ⟨_, _, _, _, e, _⟩ => by rw [e]
    rcases hb with ⟨-, hb⟩ | ⟨-, -, -, -, -, -, -, -, -, hb, -⟩
    · exact key _ hb
    · exact key _ hb

theorem takeHaltRequests_hw (s : State) : (takeHaltRequests s).hw = s.hw := by
  rw [takeHaltRequests_eq]
  exact (haltTaken_frame s).2.1

theorem enterDown_hw (s : State) : (enterDown s).hw = s.hw := by
  rw [enterDown_walk, raise_hw, (endAllActive_frame (downEntered s)).hw]
  rfl

theorem enterResettingByReset_hw (s : State) : (enterResettingByReset s).hw = s.hw := by
  unfold enterResettingByReset
  rw [(endAllActive_frame (enterResettingCore s)).hw, enterResettingCore_hw]

theorem carryOutWaiting_hw (s : State) : (carryOutWaiting s).hw = s.hw := by
  unfold carryOutWaiting
  split
  · exact enterDown_hw s
  · exact enterResettingByReset_hw s
  · split <;> rfl

theorem applyStreak_hw (i : StationId) (a : Answer) (s : State) : (applyStreak i a s).hw = s.hw := by
  have hgone : ∀ u : State, u.hw = s.hw → (stationGone .stationLost i u).hw = s.hw := fun u hu =>
    (stationGone_frame _ i u).hw.trans hu
  unfold applyStreak
  dsimp only
  split
  · exact hgone _ rfl
  · rfl

theorem endTxn_hw (u : Txn) (a : Answer) (moment : Nat) (s : State) : (endTxn u a moment s).hw = s.hw := by
  rw [endTxn_eq, choose_hw, (settle_frame _).hw, takeHaltRequests_hw, carryOutWaiting_hw, applyStreak_hw,
    (applyOutcome_frame u a _).hw]
  rfl

theorem settleDue_hw (s : State) : (settleDue s).hw = s.hw := by
  rw [settleDue_blocks]

theorem openAfterSignalling_hw (f : BitVec 12) (s : State) : (openAfterSignalling f s).hw = s.hw := by
  unfold openAfterSignalling
  dsimp only
  rw [raise_hw, raise_hw, beginFrame_hw]
  split <;> rfl

theorem censusAnswered_hw (i : StationId) (s : State) : (censusAnswered i s).hw = s.hw := by
  unfold censusAnswered
  dsimp only
  split <;> rfl

theorem applyCensus_hw (a : CensusAnswer) (i : StationId) (s : State) : (applyCensus a i s).hw = s.hw := by
  cases a with
  | silence =>
    have hgone : ∀ u : State, u.hw = s.hw → (settle (takeHaltRequests (stationGone .stationDetached i u))).hw = s.hw :=
      fun u hu => by rw [(settle_frame _).hw, takeHaltRequests_hw, (stationGone_frame _ i u).hw, hu]
    unfold applyCensus censusSilence
    dsimp only
    split
    · exact hgone _ rfl
    · rfl
  | present => exact (takeHaltRequests_hw _).trans (censusAnswered_hw i s)
  | alert =>
    have halert : (censusAlert i (censusAnswered i s)).hw = (censusAnswered i s).hw := by
      unfold censusAlert
      split <;> rfl
    exact (takeHaltRequests_hw _).trans (halert.trans (censusAnswered_hw i s))
  | garbled =>
    have hclash : (censusClash i (censusAnswered i s)).hw = (censusAnswered i s).hw := by
      unfold censusClash
      split <;> rfl
    exact (takeHaltRequests_hw _).trans (hclash.trans (censusAnswered_hw i s))

theorem watchBit_hw (s : State) (level : Bool) : (watchBit s level).hw = s.hw := by
  unfold watchBit reportWake
  dsimp only
  split_ifs <;> rfl

theorem wakePattern_beside (levels : List Bool) (s : State) :
    BesidePool s (levels.foldl watchBit s) ∧ (levels.foldl watchBit s).hw = s.hw :=
  foldl_keeps (P := fun t => BesidePool s t ∧ t.hw = s.hw) watchBit
    (fun t b ⟨h1, h2⟩ => ⟨h1.trans (watchBit_beside t b), (watchBit_hw t b).trans h2⟩) levels s ⟨.refl s, rfl⟩

/-! ### Every command keeps the pool -/

/-- What the pool's proofs read of a sound state. -/
theorem PoolSound.ready {s : State} (h : PoolSound s) (hr : s.hw.access.resetPending = false) : PoolReady s := by
  obtain ⟨hseg, hmover, hring, hpool⟩ := h
  refine ⟨hpool hr, hring.1, fun hi => ?_, fun hi => SegmentAgrees.txn_none hseg (by rw [hi]; rfl)⟩
  by_contra hj
  have hjs := Option.isSome_iff_ne_none.mpr hj
  have hbusy := hmover.1.mp ⟨hjs, hmover.2.1 ▸ hjs⟩
  rw [hi] at hbusy
  rcases hbusy with k | k <;> cases k

/-- Where no reset is pending in `t`, the pool agrees. -/
def PoolHere (t : State) : Prop := t.hw.access.resetPending = false → PoolAgrees t

section

variable {s t : State} (h : PoolSound s)
include h

theorem poolHere_same : PoolHere s := h.2.2.2

theorem poolHere_of_hw (hw : t.hw = s.hw) (hf : PoolReady s → PoolAgrees t) : PoolHere t := fun hr =>
  hf (h.ready (hw ▸ hr))

theorem poolHere_windowWrite {f : State → State} (e : windowWrite s f = .next t) (hf : PoolReady s → PoolHere (f s)) :
    PoolHere t := by
  rcases windowWrite_next e with rfl | ⟨hd, rfl⟩
  · exact poolHere_same h
  · simp only [deaf, Bool.or_eq_false_iff] at hd
    exact hf (h.ready hd.2)

theorem poolHere_windowBeside {f : State → State} (e : windowWrite s f = .next t) (hf : BesidePool s (f s)) : PoolHere t :=
  poolHere_windowWrite h e fun k _ => hf.agrees k.pool

theorem poolHere_command {code : BitVec 8} {f : State → State × Reply} (e : command code f s = .next t)
    (hf : PoolReady s → PoolAgrees (f s).1) : PoolHere t :=
  poolHere_windowWrite h e fun k _ => (writeResult_beside _ _ _).agrees (hf k)

theorem poolHere_pointCommand {code : BitVec 8} {f : PointId → State → State × Reply}
    (e : command code (onPoint f) s = .next t) (hf : PoolReady s → ∀ p, PoolAgrees (f p s).1) : PoolHere t :=
  poolHere_command h e fun k => by
    rcases onPoint_eq f s with e | ⟨p, -, e⟩
    · rw [e]
      exact k.pool
    · rw [e]
      exact hf k p

theorem poolHere_onAnswer {f : Job → Burst → State → Out} (e : onAnswer f s = .next t)
    (hf : ∀ j u, PoolReady s → s.pm.state = .burst → s.pm.job = some j → f j u s = .next t → PoolAgrees t) :
    PoolHere t := by
  obtain ⟨hb, rfl | ⟨hr, j, u, hj, -, e⟩⟩ := onAnswer_next e
  · exact fun _ => poolAgrees_completeReset s
  · exact fun _ => hf j u (h.ready hr) hb hj e

end

/-- RESET CONTROLLER waits for the burst under way, or completes (R195, R196). -/
theorem poolHere_beginReset (s : State) : PoolHere (beginReset s) := by
  unfold beginReset
  dsimp only
  split
  · exact fun hr => nomatch hr
  · exact fun _ => poolAgrees_completeReset _

end Sys2Proof.Machine
end

section
namespace Sys2Proof.Machine
set_option Elab.async false

/-- Census start charges misses and takes the halt requests they make (R58, R68). -/
theorem censusStart_beside (moment : Nat) (s : State) :
    BesidePool s (takeHaltRequests { settleDue (s.setElapsed moment) with
      le := { s.le with state := .census, slotsRead := 0 } }) ∧
    (takeHaltRequests { settleDue (s.setElapsed moment) with
      le := { s.le with state := .census, slotsRead := 0 } }).hw = s.hw := by
  have helapsed : BesidePool s (s.setElapsed moment) := .of_eq rfl rfl rfl rfl rfl rfl
  have hdue := helapsed.trans (settleDue_beside _)
  have hw : (settleDue (s.setElapsed moment)).hw = s.hw := settleDue_hw _
  have htxn := hdue.same.txn
  generalize settleDue (s.setElapsed moment) = u at hdue htxn hw
  have hcensus : BesidePool u { u with le := { s.le with state := .census, slotsRead := 0 } } :=
    .of_eq rfl rfl rfl htxn.symm rfl rfl
  exact ⟨(hdue.trans hcensus).trans (takeHaltRequests_beside _), (takeHaltRequests_hw _).trans hw⟩

theorem poolHere_exec {i : Instr} {s t : State} (h : PoolSound s) (e : exec i s = .next t) : PoolHere t := by
  have hbeside : ∀ {t : State}, t.hw = s.hw → BesidePool s t → PoolHere t := fun hw k =>
    poolHere_of_hw h hw fun r => k.agrees r.pool
  cases i with
  | configurePoint =>
    exact poolHere_pointCommand h (show execConfigurePoint s = _ from e) fun r p => poolAgrees_configurePoint r p
  | enablePoint => exact poolHere_pointCommand h (show execEnablePoint s = _ from e) fun r p => poolAgrees_enablePoint r p
  | disablePoint =>
    exact poolHere_pointCommand h (show execDisablePoint s = _ from e) fun r p => poolAgrees_disablePoint r p
  | pausePoint => exact poolHere_pointCommand h (show execPausePoint s = _ from e) fun r p => poolAgrees_pausePoint r p
  | continuePoint =>
    exact poolHere_pointCommand h (show execContinuePoint s = _ from e) fun r p => poolAgrees_continuePoint r p
  | clearPoint => exact poolHere_pointCommand h (show execClearPoint s = _ from e) fun r p => poolAgrees_clearPoint r p
  | inspectPoint => exact poolHere_pointCommand h (show execInspectPoint s = _ from e) fun r _ => r.pool
  | postExchange =>
    exact poolHere_pointCommand h (show execPostExchange s = _ from e) fun r p => poolAgrees_postExchange r p
  | cancelExchange => exact poolHere_command h (show execCancelExchange s = _ from e) poolAgrees_cancelExchange
  | inspectSlot =>
    exact poolHere_command h (show execInspectSlot s = _ from e) fun r => by unfold inspectSlot; split <;> exact r.pool
  | inspectLoad =>
    exact poolHere_command h (show execInspectLoad s = _ from e) fun r => by unfold inspectLoad; split <;> exact r.pool
  | setSegmentParameters =>
    exact poolHere_command h (show execSetSegmentParameters s = _ from e) poolAgrees_setSegmentParameters
  | startSegment => exact poolHere_command h (show execStartSegment s = _ from e) poolAgrees_startSegment
  | stopSegment => exact poolHere_command h (show execStopSegment s = _ from e) poolAgrees_stopSegment
  | resetSegment => exact poolHere_command h (show execResetSegment s = _ from e) poolAgrees_resetSegment
  | haltSegment => exact poolHere_command h (show execHaltSegment s = _ from e) poolAgrees_haltSegment
  | resumeSegment => exact poolHere_command h (show execResumeSegment s = _ from e) poolAgrees_resumeSegment
  | suspendSegment => exact poolHere_command h (show execSuspendSegment s = _ from e) poolAgrees_suspendSegment
  | wakeSegment => exact poolHere_command h (show execWakeSegment s = _ from e) poolAgrees_wakeSegment
  | clearStation => exact poolHere_command h (show execClearStation s = _ from e) poolAgrees_clearStation
  | resumeMover =>
    exact poolHere_command h (show execResumeMover s = _ from e) fun r => poolAgrees_resumeMover r h.2.1
  | resetController => exact poolHere_windowWrite h (show execResetController s = _ from e) fun _ => poolHere_beginReset _
  | unknownCommand code =>
    rcases execUnknownCommand_next e with rfl | ⟨r, rfl⟩
    · exact poolHere_same h
    · intro hr
      rw [writeResult_hw_access] at hr
      exact (writeResult_beside code r s).agrees (h.ready hr).pool
  | eventAck w =>
    exact poolHere_windowWrite h (show execEventAck w s = _ from e) fun r _ => poolAgrees_acknowledge r w
  | completionRelease w =>
    exact poolHere_windowWrite h (show execCompletionRelease w s = _ from e) fun r _ => poolAgrees_release r w
  | eventQuietWrite w =>
    exact poolHere_windowBeside h (show execEventQuietWrite w s = _ from e) (.of_eq rfl rfl rfl rfl rfl rfl)
  | accessStatusWrite w =>
    exact poolHere_windowBeside h (show execAccessStatusWrite w s = _ from e) (.of_eq rfl rfl rfl rfl rfl rfl)
  | hostConfigWrite w =>
    exact poolHere_windowWrite h (show execHostConfigWrite w s = _ from e) fun r _ => poolAgrees_writeHostConfig r w
  | reportEnableWrite w =>
    exact poolHere_windowBeside h (show execReportEnableWrite w s = _ from e) (.of_eq rfl rfl rfl rfl rfl rfl)
  | haltEnableWrite w =>
    exact poolHere_windowBeside h (show execHaltEnableWrite w s = _ from e) (.of_eq rfl rfl rfl rfl rfl rfl)
  | routeWrite w =>
    exact poolHere_windowBeside h (show execRouteWrite w s = _ from e) (.of_eq rfl rfl rfl rfl rfl rfl)
  | registerWrite i w =>
    exact poolHere_windowBeside h (show execRegisterWrite i w s = _ from e) (.of_eq rfl rfl rfl rfl rfl rfl)
  | readOnlyWrite r w =>
    exact poolHere_windowBeside h (show execReadOnlyWrite r w s = _ from e) (.of_eq rfl rfl rfl rfl rfl rfl)
  | undefinedOffset w o en =>
    rcases execUndefinedOffset_next (w := w) e with rfl | rfl
    · exact poolHere_same h
    · intro hr
      rw [raise_hw, setAccess_hw_access] at hr
      exact BesidePool.agrees (s := s) (.of_eq rfl rfl rfl rfl rfl rfl) (h.ready hr).pool
  | deviceReset =>
    rw [execDeviceReset_next e]
    exact fun _ => BesidePool.agrees (s := completeReset s) (.of_eq rfl rfl rfl rfl rfl rfl) (poolAgrees_completeReset s)
  | markEnd =>
    obtain ⟨hl, -, rfl⟩ := execMarkEnd_next e
    refine poolHere_of_hw h (choose_hw _) fun r => ?_
    have hmarked : BesidePool s ((s.setElapsed 64).setLine .idle) := .of_eq rfl rfl rfl rfl rfl rfl
    have hn : s.le.txn = none := SegmentAgrees.txn_none h.1 (by rw [hl]; rfl)
    exact (hmarked.agrees r.pool).choose fun _ => hn
  | censusStart =>
    obtain ⟨-, -, rfl⟩ := execCensusStart_next e
    obtain ⟨k, hw⟩ := censusStart_beside (s.sc.params.frameLength - 168) s
    exact hbeside hw k
  | frameEnd =>
    obtain ⟨-, -, ⟨-, rfl⟩ | ⟨-, rfl⟩⟩ := execFrameEnd_next e
    · have helapsed : BesidePool s (s.setElapsed s.sc.params.frameLength) := .of_eq rfl rfl rfl rfl rfl rfl
      exact hbeside (by rw [raise_hw, beginFrame_hw]; rfl)
        ((helapsed.trans (beginFrame_beside (s.fs.frame + 1) _)).trans (.of_eq rfl rfl rfl rfl rfl rfl))
    · exact hbeside rfl (.of_eq rfl rfl rfl rfl rfl rfl)
  | censusSlotEnd i v =>
    obtain ⟨hl, -, moment, rfl⟩ := execCensusSlotEnd_next e
    refine poolHere_of_hw h (applyCensus_hw _ i _) fun r => ?_
    have hn : s.le.txn = none := SegmentAgrees.txn_none h.1 (by rw [hl]; rfl)
    exact poolAgrees_applyCensus _ i (BesidePool.ready (s := s) (.of_eq rfl rfl rfl rfl rfl rfl) r fun _ => hn) hn
  | suspendMarkEnd =>
    obtain ⟨-, -, rfl⟩ := execSuspendMarkEnd_next e
    exact hbeside rfl (.of_eq rfl rfl rfl rfl rfl rfl)
  | resetSignallingEnd =>
    obtain ⟨-, -, rfl⟩ := execResetSignallingEnd_next e
    exact hbeside (openAfterSignalling_hw _ s) (openAfterSignalling_beside _ s)
  | wakeSignallingEnd =>
    obtain ⟨-, -, rfl⟩ := execWakeSignallingEnd_next e
    exact hbeside (openAfterSignalling_hw _ s) (openAfterSignalling_beside _ s)
  | wakePattern levels =>
    cases e
    obtain ⟨k, hw⟩ := wakePattern_beside levels s
    exact hbeside hw k
  | requestEnd =>
    obtain ⟨tx, -, -, rfl⟩ := execRequestEnd_next e
    exact hbeside rfl (.of_eq rfl rfl rfl rfl rfl rfl)
  | storeDataEnd =>
    obtain ⟨tx, moment, -, -, rfl⟩ := execStoreDataEnd_next e
    exact hbeside rfl (.of_eq rfl rfl rfl rfl rfl rfl)
  | answerBegins d =>
    obtain rfl | ⟨tx, moment, -, htx, rfl⟩ := execAnswerBegins_next e
    · exact poolHere_same h
    · exact poolHere_of_hw h rfl fun r => poolAgrees_answerAt r htx moment
  | dataReceived levels =>
    obtain ⟨tx, k, seq, payload, moment, -, htx, rfl⟩ := execDataReceived_next e
    exact poolHere_of_hw h rfl fun r => poolAgrees_receiveData r htx k seq payload moment
  | transactionEnd levels =>
    obtain ⟨tx, moment, a, htx, -, -, rfl⟩ := execTransactionEnd_next e
    exact poolHere_of_hw h (endTxn_hw tx a moment s) fun r => poolAgrees_endTxn r htx a moment
  | busGrant =>
    obtain ⟨-, rfl⟩ := execBusGrant_next e
    exact poolHere_of_hw h rfl fun r => r.pool.moverState .burst s.pm.burst s.pm.faultRecord
  | burstCompleted w =>
    refine poolHere_onAnswer h (show execBurstCompleted w s = _ from e) fun j u r hs hj e => ?_
    obtain rfl := Host.Outcome.next.inj e
    exact poolAgrees_answerCompleted r w hj hs u
  | burstRetry =>
    refine poolHere_onAnswer h (show execBurstRetry s = _ from e) fun j u r _ hj e => ?_
    obtain rfl := Host.Outcome.next.inj e
    exact poolAgrees_answerRetry r hj u
  | burstCutShort k w =>
    refine poolHere_onAnswer h (show execBurstCutShort k w s = _ from e) fun j u r hs hj e => ?_
    split at e
    · obtain rfl := Host.Outcome.next.inj e
      exact poolAgrees_nextBurst (countMoved_ready r hj hs _ w).1
    · cases e
  | burstError =>
    refine poolHere_onAnswer h (show execBurstError s = _ from e) fun j u r _ hj e => ?_
    obtain rfl := Host.Outcome.next.inj e
    exact poolAgrees_faultJob r hj u .busError
  | releaseIntervalEnd l =>
    obtain ⟨_, _, rfl⟩ := execReleaseIntervalEnd_next e
    exact hbeside rfl (.of_eq rfl rfl rfl rfl rfl rfl)
  | resetPinReleased =>
    rw [execResetPinReleased_next e]
    exact fun hr => BesidePool.agrees (s := s) (.of_eq rfl rfl rfl rfl rfl rfl) (h.ready hr).pool

theorem tick_hw (s : State) : (tick s).hw = s.hw := by
  unfold tick
  split_ifs <;> rfl

theorem poolHere_step {s t : State} (h : PoolSound s) (e : step s = .next t) : PoolHere t := by
  unfold step at e
  split at e
  · cases e
    exact poolHere_of_hw h (tick_hw s) poolAgrees_tick
  · next rest _ =>
    have hpending : BesidePool s { s with pending := rest } := .of_eq rfl rfl rfl rfl rfl rfl
    obtain ⟨hseg, hmover, hring, hpool⟩ := h
    exact poolHere_exec (s := { s with pending := rest }) ⟨hseg, hmover, hring, fun hr => hpending.agrees (hpool hr)⟩ e

/-- Settles O58: the segment, the mover and the ring agree by their own step lemmas, and the pool by `poolHere_step`. -/
theorem poolInvariantKept : Obligations.PoolInvariantKept := by
  unfold Obligations.PoolInvariantKept
  intro s t h e
  have hkept := recordsKept_step e
  have hpool := poolHere_step h e
  obtain ⟨hseg, hmover, hring, -⟩ := h
  exact ⟨segmentAgrees_step hseg e, hkept.mover hmover, hkept.ring hring, hpool⟩

end Sys2Proof.Machine
end

section
/-! PROOF. The exchange commands but for the ending of an exchange: POST EXCHANGE, INSPECT SLOT and the rows of CANCEL
EXCHANGE that leave the exchange in its queue (R38, R39, R43, R50, R190 to R192); and the reset state. -/

namespace Sys2Proof.Machine

set_option Elab.async false

/-! ### The reset state -/

theorem bindingsAgree_reset : BindingsAgree State.reset := fun p _ hp => by
  rw [reset_point] at hp
  exact absurd rfl hp

theorem schedulerAgrees_reset : SchedulerAgrees State.reset := by
  have hoff : ∀ p, (State.reset.point p).state = .disabled := fun p => by
    rw [reset_point]
    rfl
  refine ⟨.nil, Nat.zero_le _, .nil, fun p => ⟨?_, ?_⟩, .slnil, iff_of_true rfl rfl, nofun, fun r => ?_⟩
  · exact iff_of_false List.not_mem_nil fun h => h.1 (hoff p)
  · exact iff_of_false List.not_mem_nil fun h => h.1 (hoff p)
  · have hload : State.reset.fs.load[r] = 0 := Vector.getElem_replicate ..
    exact ⟨hload, hload ▸ Nat.zero_le _⟩

/-- Settles O60: the event unit and the segment by evaluation, the records from what each table holds after reset. -/
theorem resetStateIsSound : Obligations.ResetStateIsSound := by
  unfold Obligations.ResetStateIsSound
  have hevents : EventSetsAgree State.reset := fun _ => ⟨rfl, nofun, nofun⟩
  have hlines : LinesAgree State.reset := fun l => by cases l <;> exact ⟨nofun, fun _ h => by cases h⟩
  have hsegment : SegmentAgrees State.reset := ⟨rfl, rfl, fun h => absurd rfl h⟩
  have hring : RingAgrees State.reset := ⟨Nat.zero_le _, rfl⟩
  have hmover : MoverAgrees State.reset := ⟨⟨nofun, nofun⟩, rfl, nofun, nofun⟩
  have hcounts : CountsInRange State.reset := by
    refine ⟨fun p => ?_, fun i => ?_⟩
    · rw [reset_point, reset_queue]
      decide
    · rw [State.reset_station]
      decide
  have hcauses : HaltCausesAgree State.reset := fun p => by
    rw [reset_point]
    decide
  have hbuffers : FreeBuffersEmpty State.reset := fun b _ => by
    rw [reset_buffer]
    exact ⟨rfl, rfl, rfl, rfl⟩
  exact ⟨hevents, by decide, hlines, hsegment, hcounts, hring, hcauses, bindingsAgree_reset, hmover, hbuffers, rfl,
    schedulerAgrees_reset, hsegment, hmover, hring, fun _ => poolAgrees_reset⟩

/-! ### POST EXCHANGE (R38, R39) -/

theorem badLength_iff (d : Direction) (a : Word) (n : Nat) :
    badLength d a n = true ↔ 32768 < n ∨ (d = .fetch ∧ n = 0) ∨ 2 ^ 32 < a.toNat + n := by
  unfold badLength
  rw [Bool.or_eq_true, Bool.or_eq_true, Bool.and_eq_true, decide_eq_true_iff, decide_eq_true_iff, decide_eq_true_iff,
    decide_eq_true_iff, or_assoc]

/-- A POST EXCHANGE that a check refuses. -/
theorem postExchange_refused {p : PointId} {s : State} {c : ResultCode} (hd : deaf s = false)
    (hp : (s.param 0).toNat % 256 = p.val) (hc : postCheck p s = some c) :
    exec .postExchange s = .next { s with hw := answeredWindow s.hw 0x10 c.code 0 0 0 } := by
  refine command_onPoint_refuse (f := postExchange) 0x10 hd hp ?_
  unfold postExchange
  rw [hc]

/-- Settles O14: the checks of `postCheck` in turn. -/
theorem postExchangeChecksInOrder : Obligations.PostExchangeChecksInOrder := by
  unfold Obligations.PostExchangeChecksInOrder
  intro p s hd hp hoff hclosing length bad
  have hstate : ¬ ((s.point p).state = .disabled ∨ (s.point p).state = .closing) := fun h => h.elim hoff hclosing
  have hbad : badLength (s.point p).cfg.direction (s.param 1) length = true ↔ bad := badLength_iff ..
  refine ⟨fun hb => ?_, fun hb hq => ?_, fun hb hq hf => ?_⟩
  · exact postExchange_refused (c := .badLength) hd hp ((if_neg hstate).trans (if_pos (hbad.mpr hb)))
  · exact postExchange_refused (c := .queueFull) hd hp
      ((if_neg hstate).trans ((if_neg (mt hbad.mp hb)).trans (if_pos hq)))
  · exact postExchange_refused (c := .poolEmpty) hd hp
      ((if_neg hstate).trans ((if_neg (mt hbad.mp hb)).trans ((if_neg (Nat.not_le.mpr hq)).trans (if_pos hf))))

theorem field_high (w : Word) : BitVec.ofNat 16 (field w 16 16) = w.extractLsb' 16 16 := by
  apply BitVec.eq_of_toNat_eq
  rw [BitVec.toNat_ofNat, BitVec.extractLsb'_toNat, Nat.shiftRight_eq_div_pow, field, Nat.mod_mod]

theorem postedSlot_eq (p : PointId) (s : State) : postedSlot p s = { Slot.free with
    state := .queued, point := some p, tag := (s.param 0).extractLsb' 16 16, hostAddr := s.param 1
    length := (s.param 2).toNat, notify := (s.param 0).getLsbD 8
    shortOk := (s.param 0).getLsbD 9 && decide ((s.point p).cfg.direction = .fetch) } := by
  rw [← field_high]
  rfl

/-- Settles O15: the checks pass, the head of the free list is taken, and the happening ends in a service. -/
theorem postExchangeTakesTheFirstFreeSlot : Obligations.PostExchangeTakesTheFirstFreeSlot := by
  unfold Obligations.PostExchangeTakesTheFirstFreeSlot
  intro p x rest s hd hp hoff hclosing hlong hfetch htop hlimit hfree
  have hstate : ¬ ((s.point p).state = .disabled ∨ (s.point p).state = .closing) := fun h => h.elim hoff hclosing
  have hgood : ¬ badLength (s.point p).cfg.direction (s.param 1) (s.param 2).toNat = true := by
    rw [badLength_iff]
    rintro (h | ⟨h, h0⟩ | h)
    · exact absurd h (Nat.not_lt.mpr hlong)
    · exact hfetch h h0
    · exact absurd h (Nat.not_lt.mpr htop)
  have hfull : ¬ (s.point p).cfg.queueLimit ≤ (s.queue p).length := Nat.not_le.mpr hlimit
  have hempty : ¬ s.sp.freeList = [] := by rw [hfree]; nofun
  have hcheck : postCheck p s = none :=
    (if_neg hstate).trans ((if_neg hgood).trans ((if_neg hfull).trans (if_neg hempty)))
  have hlength : ((enqueue p x rest s).queue p).length = (s.queue p).length + 1 := by
    rw [enqueue_queue, if_pos rfl, List.length_append, List.length_singleton]
  have hpost : postExchange p s = (choose (settle (enqueue p x rest s)), {
      code := .accepted, value := x.val, r1 := place ((s.queue p).length + 1) 0 ||| place rest.length 16, r2 := 0 }) := by
    unfold postExchange
    rw [hcheck]
    dsimp only
    rw [hfree]
    dsimp only
    rw [hlength]
  refine ⟨_, command_service 0x10 hd hp hpost (enqueue_hw ..) x.isLt, ?_⟩
  have key := (choose_settle_only (enqueue p x rest s)).withWindow
    (answeredWindow s.hw 0x10 0x01 x.val (place ((s.queue p).length + 1) 0 ||| place rest.length 16) 0)
    (by rw [enqueue_hw, answeredWindow_config])
  rw [← postedSlot_eq]
  exact key

/-! ### INSPECT SLOT (R50, R192) -/

theorem slotState_code_lt (g : SlotState) : g.code < 256 := by cases g <;> decide

/-- Settles O18: INSPECT SLOT returns the state it was given, and its words are those of the statement. -/
theorem inspectSlotReportsTheSlot : Obligations.InspectSlotReportsTheSlot := by
  unfold Obligations.InspectSlotReportsTheSlot
  have hexec : ∀ s : State, deaf s = false →
      exec .inspectSlot s = .next (writeResult 0x12 (inspectSlot s).2 (inspectSlot s).1) := fun s =>
    command_eq 0x12 inspectSlot s
  refine ⟨fun s hd hx => ?_, fun x s hd hx => ?_⟩
  · rw [hexec s hd, inspectSlot, slotOperand_none hx]
    exact congrArg _ (writeResult_refusal 0x12 .badParameter s)
  · intro e point final next view0 view1
    have hview (v : Bool) (hv : bitAt (s.param 1) 0 = v) : exec .inspectSlot s = .next { s with
        hw := answeredWindow s.hw 0x12 0 e.state.code
          (if v = true then slotView1 s x else slotView0 s x).1 (if v = true then slotView1 s x else slotView0 s x).2 } := by
      rw [hexec s hd, inspectSlot, slotOperand_eq hx, hv]
      exact congrArg _ (writeResult_eq _ _ (slotState_code_lt _) s)
    refine ⟨fun hv => (hview false hv).trans ?_, fun hv => hview true hv⟩
    rfl

/-! ### CANCEL EXCHANGE: its answer (R43, R191) -/

theorem placeBit_zero (b : Bool) : placeBit b 0 = BitVec.ofNat 32 b.toNat := by cases b <;> rfl

section

variable {s : State} {x : SlotId} (hd : deaf s = false) (hx : (s.param 0).toNat % 65536 = x.val)
include hd hx

/-- What CANCEL EXCHANGE answers by what it decides. -/
theorem cancelExchange_answers {t : State} {c : ResultCode} (hc : cancelDecision x s = (t, c)) (hw : t.hw = s.hw) :
    exec .cancelExchange s = .next { t with
      hw := answeredWindow s.hw 0x11 c.code (t.slot x).state.code (BitVec.ofNat 32 (t.slot x).cancelRequested.toNat) 0 } := by
  refine (command_eq 0x11 cancelExchange s hd).trans (congrArg _ ?_)
  rw [cancelExchange, slotOperand_eq hx]
  dsimp only
  rw [hc, writeResult_eq _ _ (slotState_code_lt _), placeBit_zero, hw]

/-- A decision that changes nothing. -/
theorem cancelExchange_keeps {c : ResultCode} {g : SlotState} (hg : (s.slot x).state = g)
    (hc : cancelDecision x s = (s, c)) : exec .cancelExchange s = .next { s with
      hw := answeredWindow s.hw 0x11 c.code g.code (BitVec.ofNat 32 (s.slot x).cancelRequested.toNat) 0 } := by
  rw [← hg]
  exact cancelExchange_answers hd hx hc rfl

end

/-- The staging at the end of a happening leaves an exchange that has cancel_requested, or that is neither QUEUED nor ACTIVE,
as it was. -/
theorem StagingOnly.slot_eq {s t : State} {x : SlotId} (h : StagingOnly s t)
    (hx : (s.slot x).cancelRequested = true ∨ (s.slot x).state ≠ .queued ∧ (s.slot x).state ≠ .active) :
    t.slot x = s.slot x := by
  rcases h.slots x with e | ⟨p, n, ⟨-, -, -, y, hy, hstate, hcancel, -⟩, hf, -⟩
  · exact e
  · obtain rfl := Option.some.inj (hy.symm.trans hf)
    rcases hx with hx | ⟨hq, ha⟩
    · rw [hx] at hcancel
      cases hcancel
    · exact (hstate.elim hq ha).elim

theorem cancelDecision_free {s : State} {x : SlotId} (hg : (s.slot x).state = .free) :
    cancelDecision x s = (s, .notQueued) := by
  unfold cancelDecision
  dsimp only
  rw [hg]

theorem cancelDecision_retiring {s : State} {x : SlotId} (hg : (s.slot x).state = .retiring) :
    cancelDecision x s = (s, .alreadyEnding) := by
  unfold cancelDecision
  dsimp only
  rw [hg]

/-- The decisions of CANCEL EXCHANGE for an exchange that is in its queue with a mark or past it. -/
theorem cancelDecision_active {s : State} {x : SlotId} (hg : (s.slot x).state = .active) (hp : (s.slot x).point ≠ none) :
    ∃ p, (s.slot x).point = some p ∧ cancelDecision x s =
      if (s.slot x).faultMark = true then (s, .alreadyEnding)
      else if (s.slot x).cancelRequested = true then (s, .pending) else cancelActive x p s := by
  obtain ⟨p, hp⟩ := Option.ne_none_iff_exists'.mp hp
  refine ⟨p, hp, ?_⟩
  unfold cancelDecision
  dsimp only
  rw [hg, hp]

theorem cancelDecision_queued {s : State} {x : SlotId} (hg : (s.slot x).state = .queued) (hp : (s.slot x).point ≠ none) :
    ∃ p, (s.slot x).point = some p ∧ cancelDecision x s =
      if (s.slot x).cancelRequested = true then (s, .pending) else cancelQueued x p s := by
  obtain ⟨p, hp⟩ := Option.ne_none_iff_exists'.mp hp
  refine ⟨p, hp, ?_⟩
  unfold cancelDecision
  dsimp only
  rw [hg, hp]

/-- An exchange that takes cancel_requested and goes on (R43): the answer, and the staging that ends the happening. -/
theorem cancelExchange_marks {s : State} {x : SlotId} {g : SlotState} (hd : deaf s = false)
    (hx : (s.param 0).toNat % 65536 = x.val) (hg : (s.slot x).state = g) (hc : cancelDecision x s =
      (settle (s.modSlot x fun e => { e with cancelRequested := true }), .pending)) :
    ∃ t, exec .cancelExchange s = .next t ∧ StagingOnly { s.setSlot x { s.slot x with cancelRequested := true } with
      hw := answeredWindow s.hw 0x11 0x03 g.code 1 0 } t := by
  have hs := settle_only (s.modSlot x fun e => { e with cancelRequested := true })
  have hw : (settle (s.modSlot x fun e => { e with cancelRequested := true })).hw = s.hw := hs.hw_eq
  have hmark : (s.modSlot x fun e => { e with cancelRequested := true }).slot x =
      { s.slot x with cancelRequested := true } := State.slot_setSlot_same ..
  have hslot : (settle (s.modSlot x fun e => { e with cancelRequested := true })).slot x =
      { s.slot x with cancelRequested := true } := (hs.slot_eq (.inl (by rw [hmark]))).trans hmark
  refine ⟨_, cancelExchange_answers hd hx hc hw, ?_⟩
  rw [hslot, ← hg]
  exact hs.withWindow _ (answeredWindow_config ..)

/-- Settles O17: one row of the table of R43 after the other. -/
theorem cancelOutcomesByTheSlot : Obligations.CancelOutcomesByTheSlot := by
  unfold Obligations.CancelOutcomesByTheSlot
  refine ⟨fun s hd hx => ?_, fun x s hd hx => ?_⟩
  · refine (command_eq 0x11 cancelExchange s hd).trans (congrArg _ ?_)
    rw [cancelExchange, slotOperand_none hx]
    exact writeResult_refusal 0x11 .badParameter s
  · dsimp only
    refine ⟨fun hg => ?_, fun hg => ?_, fun hg hp hf => ?_, fun hg hp hf hc => ?_, fun hg hp hc => ?_,
      fun p rest hg hl hf hc hbusy => ?_⟩
    · exact cancelExchange_keeps (c := .notQueued) (g := .free) hd hx hg (cancelDecision_free hg)
    · exact cancelExchange_keeps (c := .alreadyEnding) (g := .retiring) hd hx hg (cancelDecision_retiring hg)
    · obtain ⟨p, -, hdec⟩ := cancelDecision_active hg hp
      rw [if_pos hf] at hdec
      exact cancelExchange_keeps (c := .alreadyEnding) (g := .active) hd hx hg hdec
    · obtain ⟨p, -, hdec⟩ := cancelDecision_active hg hp
      rw [if_neg (ne_true_of_eq_false hf), if_pos hc] at hdec
      have key := cancelExchange_keeps hd hx hg hdec
      rw [hc] at key
      exact key
    · obtain ⟨p, -, hdec⟩ := cancelDecision_queued hg hp
      rw [if_pos hc] at hdec
      have key := cancelExchange_keeps hd hx hg hdec
      rw [hc] at key
      exact key
    · obtain ⟨q, hq, hdec⟩ := cancelDecision_active hg (by rw [hl.point]; nofun)
      have hgoes : ¬ (inFlight s x = false ∧ jobsBesidesStaged s x = 0) := by
        rw [hl.jobsBesidesStaged_eq]
        rintro ⟨h1, h2⟩
        exact hbusy.elim (ne_true_of_eq_false h1) fun h => h h2
      rw [if_neg (ne_true_of_eq_false hf), if_neg (ne_true_of_eq_false hc), cancelActive, if_neg hgoes] at hdec
      exact cancelExchange_marks (g := .active) hd hx hg hdec

end Sys2Proof.Machine
end

section
/-! PROOF. STOP SEGMENT and RESET SEGMENT, with no transaction in flight and at the end of one (R48, R106, R108, R110, R111,
R115). -/

namespace Sys2Proof.Machine

set_option Elab.async false

/-! ### What an ending leaves of the points and of the due list -/

/-- The sequence bit and the configuration of a point stand, and its defer count stands or is 0. -/
def PointStands (v w : Point) : Prop :=
  w.seq = v.seq ∧ w.cfg = v.cfg ∧ (w.deferCount = v.deferCount ∨ w.deferCount = 0)

theorem PointStands.refl (v : Point) : PointStands v v := ⟨rfl, rfl, .inl rfl⟩

theorem PointStands.trans {v w z : Point} (h : PointStands v w) (k : PointStands w z) : PointStands v z := by
  obtain ⟨hs, hc, hd⟩ := h
  obtain ⟨ks, kc, kd⟩ := k
  exact ⟨ks.trans hs, kc.trans hc, kd.elim (fun k => k ▸ hd) .inr⟩

/-- Every point stands, and no point joins the due list. -/
structure PointsStand (s t : State) : Prop where
  points : ∀ p, PointStands (s.point p) (t.point p)
  due : ∀ p ∈ t.fs.due, p ∈ s.fs.due

namespace PointsStand

variable {s t u : State}

theorem of_eq (hp : t.pt = s.pt) (hf : t.fs = s.fs) : PointsStand s t := by
  refine ⟨fun p => ?_, fun p hd => hf ▸ hd⟩
  have hpoint : t.point p = s.point p := by
    rw [State.point, hp]
    rfl
  rw [hpoint]
  exact .refl _

theorem refl (s : State) : PointsStand s s := .of_eq rfl rfl

theorem trans (h : PointsStand s t) (k : PointsStand t u) : PointsStand s u :=
  ⟨fun p => (h.points p).trans (k.points p), fun p hd => h.due p (k.due p hd)⟩

theorem setPoint {p : PointId} {v : Point} (hv : PointStands (s.point p) v) (hp : t.pt = (s.setPoint p v).pt)
    (hd : ∀ q ∈ t.fs.due, q ∈ s.fs.due) : PointsStand s t := by
  refine ⟨fun q => ?_, hd⟩
  have hpoint : t.point q = if p = q then v else s.point q := by
    rw [State.point, hp]
    exact State.point_setPoint s p q v
  rw [hpoint]
  split
  · next hpq => exact hpq ▸ hv
  · exact .refl _

theorem freeBuffer (b : BufId) (s : State) : PointsStand s (freeBuffer b s) := by
  refine ⟨fun p => ?_, fun p hd => by rwa [freeBuffer_fs] at hd⟩
  rw [freeBuffer_point]
  split
  · exact ⟨rfl, rfl, .inl rfl⟩
  · exact .refl _

theorem pointClosed (s : State) (p : PointId) : PointsStand s (pointClosed s p) := by
  refine .setPoint (p := p) (v := { s.point p with state := .disabled, deferCount := 0, haltCause := none, staged := none })
    ⟨rfl, rfl, .inr rfl⟩ rfl fun q hd => ?_
  unfold Machine.pointClosed at hd
  dsimp only at hd
  split at hd
  · exact hd
  · exact List.mem_of_mem_erase hd

theorem pointHalted (s : State) (p : PointId) (c : HaltCause) : PointsStand s (pointHalted s p c) := by
  unfold Machine.pointHalted
  split
  · exact .setPoint (p := p) (v := { s.point p with state := .halted, haltCause := some c }) ⟨rfl, rfl, .inl rfl⟩ rfl
      fun _ => id
  · exact .refl s

theorem grant (p : PointId) (b : BufId) (x : SlotId) (s : State) : PointsStand s (grant p b x s) := by
  refine ⟨fun q => ?_, fun q hd => by rwa [grant_blocks] at hd⟩
  rw [grant_point]
  split
  · next hqp => exact hqp ▸ ⟨rfl, rfl, .inl rfl⟩
  · exact .refl _

theorem closed (s : State) : Closed (PointsStand s) where
  free b _ h := h.trans (.freeBuffer b _)
  retire _ _ _ h := h.trans (.of_eq rfl rfl)
  freeSlot _ _ _ h := h.trans (.of_eq (freeSlot_pt ..) (freeSlot_fs ..))
  post _ _ _ _ h := h.trans (.of_eq (postRecord_pt ..) (postRecord_fs ..))
  hold _ _ _ h := h.trans (.of_eq (joinHeld_pt ..) (joinHeld_fs ..))
  close p t h := by
    rw [reachDisabled_eq]
    exact h.trans (.pointClosed t p)
  halt c p t h := by
    rw [haltPoint_eq]
    exact h.trans (.pointHalted t p c)
  wait _ _ h := h.trans (.of_eq rfl rfl)
  grant p b x _ h := h.trans (.grant p b x _)
  job t h := h.trans (by rw [takeJob_blocks]; exact .of_eq rfl rfl)

theorem settle (s : State) : PointsStand s (settle s) := (closed s).settle _ (.refl s)

theorem endAllActive (s : State) : PointsStand s (endAllActive s) := (closed s).endAllActive _ (.refl s)

/-- A due list that is empty stays empty. -/
theorem due_nil (h : PointsStand s t) (hs : s.fs.due = []) : t.fs.due = [] :=
  List.eq_nil_iff_forall_not_mem.mpr fun p hp => List.not_mem_nil (hs ▸ h.due p hp)

end PointsStand

/-! ### Entry to DOWN and to RESETTING -/

theorem raise_frame (c : Cause) (s : State) : WalkFrame s (raise c s) := ⟨rfl, rfl, rfl, rfl, rfl, rfl, rfl⟩

theorem enterDown_frame (s : State) : WalkFrame (downEntered s) (enterDown s) := by
  rw [enterDown_walk]
  exact (endAllActive_frame (downEntered s)).trans (raise_frame _ _)

theorem enterDown_stands (s : State) : PointsStand (downEntered s) (enterDown s) := by
  rw [enterDown_walk]
  exact (PointsStand.endAllActive (downEntered s)).trans (.of_eq (raise_pt ..) (raise_fs ..))

theorem enterResettingByReset_frame (s : State) : WalkFrame (enterResettingCore s) (enterResettingByReset s) :=
  endAllActive_frame (enterResettingCore s)

theorem enterResettingByReset_stands (s : State) : PointsStand (enterResettingCore s) (enterResettingByReset s) :=
  .endAllActive (enterResettingCore s)

theorem downEntered_point (s : State) (p : PointId) : (downEntered s).point p = { s.point p with seq := false } :=
  (downEntered_entered s).2.1 p

theorem downEntered_station (s : State) (i : StationId) : (downEntered s).station i =
    { s.station i with presence := .absent, silent := 0, streak := 0, answered := false } :=
  (downEntered_entered s).2.2 i

theorem enterResettingCore_station (s : State) (i : StationId) : (enterResettingCore s).station i =
    { s.station i with presence := .absent, silent := 0, streak := 0, answered := false } :=
  (enterResettingCore_entered s).2.2 i

/-! ### With no transaction in flight -/

/-- STOP SEGMENT and RESET SEGMENT: the result says whether they wait (R106). -/
theorem command_waitReply {s t : State} {code : BitVec 8} {f : State → State × Reply} {w : Bool} (hd : deaf s = false)
    (hf : f s = (t, waitReply w)) (ht : t.hw = s.hw) : command code f s =
      .next { t with hw := answeredWindow s.hw code 0 w.toNat 0 0 } := by
  have hv : (waitReply w).value < 256 := by cases w <;> decide
  rw [command_eq _ _ _ hd, hf]
  dsimp only
  rw [writeResult_eq _ _ hv, ht]
  rfl

theorem exec_stopSegment (s : State) : exec .stopSegment s = command 0x22 stopSegment s := by rfl

theorem exec_resetSegment (s : State) : exec .resetSegment s = command 0x23 resetSegment s := by rfl

theorem txnInFlight_none {s : State} (h : s.le.txn = none) : txnInFlight s = false := by
  rw [txnInFlight, h]
  rfl

theorem txnInFlight_some {s : State} (h : s.le.txn ≠ none) : txnInFlight s = true :=
  Option.isSome_iff_ne_none.mpr h

/-- Settles O22: the entry is `downEntered`, the walk over the ACTIVE exchanges `enterDown_eq`, then a staging. -/
theorem stopSegmentEntersDown : Obligations.StopSegmentEntersDown := by
  unfold Obligations.StopSegmentEntersDown
  intro s hd hg hn
  have hstop : stopSegment s = (settle (enterDown s), waitReply false) := by
    unfold stopSegment
    rw [if_neg hg, if_neg (ne_true_of_eq_false (txnInFlight_none hn))]
  obtain ⟨hsc, hle, -, -, hrun, -, hframe⟩ := (enterDown_frame s).trans (settle_frame (enterDown s))
  have hstands := (enterDown_stands s).trans (.settle (enterDown s))
  have hstaged := settle_only (enterDown s)
  generalize settle (enterDown s) = t at *
  have hexec : exec .stopSegment s = .next { t with hw := answeredWindow s.hw 0x22 0 0 0 0 } := by
    rw [exec_stopSegment, command_waitReply hd hstop (hstaged.hw_eq.trans (enterDown_hw s))]
    rfl
  have hdue := hstands.due_nil rfl
  refine ⟨_, downEntered s, hexec, downEntered_entered s, rfl, hsc, hle, hrun, hframe, hdue, fun p => ?_, fun hl => ?_⟩
  · obtain ⟨hseq, hcfg, -⟩ := hstands.points p
    rw [downEntered_point] at hseq hcfg
    exact ⟨hseq, hcfg⟩
  · have key := hstaged.withWindow (answeredWindow s.hw 0x22 0 0 0 0)
      (by rw [answeredWindow_config, enterDown_hw])
    have hlead : { lineResets (downEntered s) with
        eu := (lineResets (downEntered s)).eu.take s.hw.config .segmentChanged
        hw := answeredWindow s.hw 0x22 0 0 0 0 } = { enterDown s with hw := answeredWindow s.hw 0x22 0 0 0 0 } := by
      rw [enterDown_eq s hl]
    rw [hlead]
    exact key

theorem resetTaken_of {g : SegState}
    (hg : g = .running ∨ g = .halting ∨ g = .halted ∨ g = .suspending ∨ g = .suspended) : resetTaken g = true := by
  rcases hg with rfl | rfl | rfl | rfl | rfl <;> rfl

/-- Settles O23: the entry is `enterResettingCore`, the walk over the ACTIVE exchanges `enterResettingByReset_eq`, then a
staging. -/
theorem resetSegmentEntersResetting : Obligations.ResetSegmentEntersResetting := by
  unfold Obligations.ResetSegmentEntersResetting
  intro s hd hg hn
  have hreset : resetSegment s = (settle (enterResettingByReset s), waitReply false) := by
    unfold resetSegment
    rw [if_pos (resetTaken_of hg), if_neg (ne_true_of_eq_false (txnInFlight_none hn))]
  obtain ⟨hsc, hle, -, -, hrun, -, hframe⟩ :=
    (enterResettingByReset_frame s).trans (settle_frame (enterResettingByReset s))
  have hstands := (enterResettingByReset_stands s).trans (.settle (enterResettingByReset s))
  have hstaged := settle_only (enterResettingByReset s)
  generalize settle (enterResettingByReset s) = t at *
  have hexec : exec .resetSegment s = .next { t with hw := answeredWindow s.hw 0x23 0 0 0 0 } := by
    rw [exec_resetSegment, command_waitReply hd hreset (hstaged.hw_eq.trans (enterResettingByReset_hw s))]
    rfl
  have hdue := hstands.due_nil rfl
  refine ⟨_, enterResettingCore s, hexec, enterResettingCore_entered s, rfl, hsc, hle, hrun, hframe, hdue, fun p => ?_,
    fun hl => ?_⟩
  · obtain ⟨hseq, hcfg, hdefer⟩ := hstands.points p
    rw [enterResettingCore_point] at hseq hcfg hdefer
    exact ⟨hseq, hdefer.elim id id, hcfg⟩
  · have key := hstaged.withWindow (answeredWindow s.hw 0x23 0 0 0 0)
      (by rw [answeredWindow_config, enterResettingByReset_hw])
    have hlead : { lineResets (enterResettingCore s) with hw := answeredWindow s.hw 0x23 0 0 0 0 } =
        { enterResettingByReset s with hw := answeredWindow s.hw 0x23 0 0 0 0 } := by
      rw [enterResettingByReset_eq s hl]
    rw [hlead]
    exact key

/-! ### At the end of a transaction -/

theorem applyStreak_frame (i : StationId) (a : Answer) (s : State) : (applyStreak i a s).fs.frame = s.fs.frame := by
  unfold applyStreak
  dsimp only
  split
  · exact (stationGone_frame .stationLost i _).2.2.2.2.2.2
  · rfl

/-- The line engine and the frame number once the outcome and the streak of a transaction are applied (R86). -/
theorem txnOutcome_line (t : Txn) (a : Answer) (moment : Nat) (s : State) :
    (txnOutcome t a moment s).le = { s.le with state := .idle, txn := none } ∧
      (txnOutcome t a moment s).fs.frame = s.fs.frame := by
  obtain ⟨-, hle, -, -, -, -, hframe⟩ := applyOutcome_frame t a (txnIdle moment s)
  exact ⟨(applyStreak_segSame _ a _).2.trans hle, (applyStreak_frame _ a _).trans hframe⟩

/-- A halt request taken in DOWN, RESETTING or HALTED is kept in RESETTING only, and reaches nothing else (R115). -/
theorem haltTaken_after {s : State} (h : s.sc.state = .down ∨ s.sc.state = .resetting ∨ s.sc.state = .halted) :
    ∃ b e, haltTaken s = { s with sc := { s.sc with haltPending := b }, eu := e } ∧
      (s.sc.state ≠ .resetting → b = s.sc.haltPending) := by
  unfold haltTaken
  dsimp only
  split
  · exact ⟨s.sc.haltPending, s.eu, rfl, fun _ => rfl⟩
  · have hserves : ¬ (s.sc.state = .running ∨ s.sc.state = .suspending) := by
      rcases h with h | h | h <;> rw [h] <;> decide
    rw [if_neg hserves]
    split
    · next hkept =>
      refine ⟨true, _, rfl, fun hn => ?_⟩
      rcases h with h | h | h
      · rw [h] at hkept
        exact absurd hkept (by decide)
      · exact absurd h hn
      · rw [h] at hkept
        exact absurd hkept (by decide)
    · exact ⟨s.sc.haltPending, _, rfl, fun _ => rfl⟩

/-- What the end of a happening leaves where the segment has entered DOWN, RESETTING or HALTED. -/
structure AfterEntry (s v : State) : Prop where
  state : v.sc.state = s.sc.state
  waiting : v.sc.waiting = s.sc.waiting
  stations : v.sc.stations = s.sc.stations
  haltPending : s.sc.state ≠ .resetting → v.sc.haltPending = s.sc.haltPending
  line : v.le = s.le
  running : v.fs.running = s.fs.running
  frame : v.fs.frame = s.fs.frame
  points : PointsStand s v

theorem AfterEntry.trans {s t v : State} (h : AfterEntry s t) (k : AfterEntry t v) : AfterEntry s v :=
  ⟨k.state.trans h.state, k.waiting.trans h.waiting, k.stations.trans h.stations,
    fun hn => (k.haltPending (h.state ▸ hn)).trans (h.haltPending hn), k.line.trans h.line, k.running.trans h.running,
    k.frame.trans h.frame, h.points.trans k.points⟩

theorem AfterEntry.of_walk {s t : State} (hf : WalkFrame s t) (hp : PointsStand s t) : AfterEntry s t := by
  obtain ⟨hsc, hle, -, -, hrun, -, hframe⟩ := hf
  exact ⟨congrArg _ hsc, congrArg _ hsc, congrArg _ hsc, fun _ => congrArg _ hsc, hle, hrun, hframe, hp⟩

theorem afterEntry_haltTaken {s : State} (h : s.sc.state = .down ∨ s.sc.state = .resetting ∨ s.sc.state = .halted) :
    AfterEntry s (haltTaken s) := by
  obtain ⟨b, e, hu, hb⟩ := haltTaken_after h
  rw [hu]
  exact ⟨rfl, rfl, rfl, hb, rfl, rfl, rfl, .of_eq rfl rfl⟩

theorem afterEntry {s : State} (h : s.sc.state = .down ∨ s.sc.state = .resetting ∨ s.sc.state = .halted) :
    AfterEntry s (choose (settle (takeHaltRequests s))) := by
  have hserved := (afterEntry_haltTaken h).trans (.of_walk (settle_frame _) (.settle _))
  rw [takeHaltRequests_eq]
  have hidle : mayChoose (settle (haltTaken s)) = false := by
    unfold mayChoose segServes
    rw [hserved.state]
    rcases h with h | h | h <;> rw [h] <;> simp
  rw [choose_of_not _ hidle]
  exact hserved

/-- A station whose segment has entered DOWN or RESETTING (R107, R108). -/
theorem station_of_stations {s v : State} (h : v.sc.stations = s.sc.stations) (i : StationId) :
    v.station i = s.station i := by
  rw [State.station, h]
  rfl

/-- The end of any transaction, by its outcome. -/
theorem execTransactionEnd_outcome {levels : List Bool} {s v : State} (h : exec (.transactionEnd levels) s = .next v) :
    ∃ w, v = choose (settle (takeHaltRequests (carryOutWaiting w))) ∧ w.sc.state = s.sc.state ∧
      w.sc.waiting = s.sc.waiting ∧ w.le = { s.le with state := .idle, txn := none } ∧ w.fs.frame = s.fs.frame := by
  obtain ⟨tx, moment, a, -, -, -, hv⟩ := execTransactionEnd_next h
  obtain ⟨hle, hframe⟩ := txnOutcome_line tx a moment s
  obtain ⟨hsame, -⟩ := txnOutcome_segSame tx a moment s
  exact ⟨txnOutcome tx a moment s, hv, hsame.state, hsame.waiting, hle, hframe⟩

theorem waiting_stop_closes {levels : List Bool} {s v : State} (h : exec (.transactionEnd levels) s = .next v)
    (hw : s.sc.waiting = .stop) : ∃ w, w.le = { s.le with state := .idle, txn := none } ∧ w.fs.frame = s.fs.frame ∧
      AfterEntry (downEntered w) v := by
  obtain ⟨w, rfl, -, hwait, hle, hframe⟩ := execTransactionEnd_outcome h
  refine ⟨w, hle, hframe, ?_⟩
  have hcarry : carryOutWaiting w = enterDown w := by
    unfold carryOutWaiting
    rw [hwait, hw]
  rw [hcarry]
  have hsc : (enterDown w).sc.state = .down := congrArg SegmentControl.state (enterDown_frame w).1
  exact (AfterEntry.of_walk (enterDown_frame w) (enterDown_stands w)).trans (afterEntry (.inl hsc))

theorem waiting_reset_closes {levels : List Bool} {s v : State} (h : exec (.transactionEnd levels) s = .next v)
    (hw : s.sc.waiting = .reset) : ∃ w, w.le = { s.le with state := .idle, txn := none } ∧
      AfterEntry (enterResettingCore w) v := by
  obtain ⟨w, rfl, -, hwait, hle, -⟩ := execTransactionEnd_outcome h
  refine ⟨w, hle, ?_⟩
  have hcarry : carryOutWaiting w = enterResettingByReset w := by
    unfold carryOutWaiting
    rw [hwait, hw]
  rw [hcarry]
  have hsc : (enterResettingByReset w).sc.state = .resetting :=
    congrArg SegmentControl.state (enterResettingByReset_frame w).1
  exact (AfterEntry.of_walk (enterResettingByReset_frame w) (enterResettingByReset_stands w)).trans
    (afterEntry (.inr (.inl hsc)))

theorem halting_closes {levels : List Bool} {s v : State} (h : exec (.transactionEnd levels) s = .next v)
    (hw : s.sc.waiting = .none) (hs : s.sc.state = .halting) :
    ∃ w, w.le = { s.le with state := .idle, txn := none } ∧ w.sc.waiting = .none ∧ AfterEntry (enterHalted w) v := by
  obtain ⟨w, rfl, hstate, hwait, hle, -⟩ := execTransactionEnd_outcome h
  refine ⟨w, hle, hwait.trans hw, ?_⟩
  have hcarry : carryOutWaiting w = enterHalted w := by
    unfold carryOutWaiting
    rw [hwait, hw]
    exact if_pos (hstate.trans hs)
  rw [hcarry]
  exact afterEntry (.inr (.inr rfl))

/-- Settles O24: with a transaction in flight only the waiting transition changes; at its end the entry is `AfterEntry` of
the state entered, and after a DEFER `TxnCloses`. -/
theorem resetAndStopWaitForTheTransaction : Obligations.ResetAndStopWaitForTheTransaction := by
  unfold Obligations.ResetAndStopWaitForTheTransaction
  refine ⟨fun s hd hn => ⟨fun hg => ?_, fun hg => ?_⟩, fun levels s v h =>
    ⟨fun hw => ?_, fun hw => ?_, fun hw hs => ?_⟩, fun t a rest s h hl ha hm => ?_⟩
  · have hstop : stopSegment s = ({ s with sc := { s.sc with waiting := .stop } }, waitReply true) := by
      unfold stopSegment
      rw [if_neg hg, if_pos (txnInFlight_some hn)]
    rw [exec_stopSegment, command_waitReply hd hstop rfl]
    rfl
  · have hreset : resetSegment s = ({ s with sc := { s.sc with waiting := .reset } }, waitReply true) := by
      unfold resetSegment
      rw [if_pos (resetTaken_of hg), if_pos (txnInFlight_some hn)]
    rw [exec_resetSegment, command_waitReply hd hreset rfl]
    rfl
  · obtain ⟨w, hle, hframe, k⟩ := waiting_stop_closes h hw
    refine ⟨k.state, k.haltPending nofun, k.waiting, fun i => ?_, k.line.trans ?_, k.running, k.points.due_nil rfl,
      k.frame.trans hframe, fun p => ?_⟩
    · rw [station_of_stations k.stations, downEntered_station]
      exact ⟨rfl, rfl, rfl, rfl⟩
    · change { w.le with state := .off, slotsRead := 0, lineBits := 0 } = _
      rw [hle]
    · obtain ⟨hseq, -, -⟩ := k.points.points p
      rw [hseq, downEntered_point]
  · obtain ⟨w, hle, k⟩ := waiting_reset_closes h hw
    refine ⟨k.state, k.waiting, fun i => ?_, k.line.trans ?_, k.running, k.points.due_nil rfl, k.frame, fun p => ?_⟩
    · rw [station_of_stations k.stations, enterResettingCore_station]
      exact ⟨rfl, rfl, rfl, rfl⟩
    · change { w.le with state := .signalling, slotsRead := 0, lineBits := 0 } = _
      rw [hle]
    · obtain ⟨hseq, -, hdefer⟩ := k.points.points p
      rw [enterResettingCore_point] at hseq hdefer
      exact ⟨hseq, hdefer.elim id id⟩
  · obtain ⟨w, hle, hwait, k⟩ := halting_closes h hw hs
    exact ⟨k.state, k.haltPending nofun, k.waiting.trans hwait, k.line.trans hle⟩
  · intro freed q
    refine ⟨_, execTransactionEnd_due h.txn (txnEnding_reply hl ha storeAnswer_defer fetchAnswer_defer) h.running hm, ?_⟩
    have key := h.defer_closes (a + 38)
    rw [← markTaken_setStation] at key
    have hfreed : freed = (txnFreed t (a + 38) s).setStation q.cfg.station { s.station q.cfg.station with streak := 0 } :=
      txnFreed_setStation s t (a + 38) 0
    rw [hfreed]
    exact key

end Sys2Proof.Machine
end

section
/-! PROOF. The end of a transaction whose packet is accepted: ACCEPT of a STORE, and acknowledged FETCH DATA (R88, R92, R93,
R98, R115). -/

namespace Sys2Proof.Machine

set_option Elab.async false

/-! ### What an outcome does once the packet is counted -/

theorem statusBy_of_eq {s u : State} {p : PointId} {x : SlotId} (hf : (u.slot x).faultMark = (s.slot x).faultMark)
    (hc : (u.slot x).cancelRequested = (s.slot x).cancelRequested) (hp : (u.point p).state = (s.point p).state)
    (c : Status) : statusBy u p x c = statusBy s p x c := by
  unfold statusBy cancelGives
  rw [hf, hc, hp]

/-- An ending that is no silence, by its outcome (R98, R115). -/
theorem quiet_closes {s w : State} {t : Txn} {a : Answer} {moment : Nat} (happly : applyOutcome t a (txnIdle moment s) = w)
    (ha : a ≠ .silent) (hb : Beside t.point s w) (hat : LeadsAt w t.point) :
    TxnCloses s (w.setStation (s.point t.point).cfg.station { s.station (s.point t.point).cfg.station with
      streak := streakAfter a (s.station (s.point t.point).cfg.station).streak }) (endTxn t a moment s) := by
  have hsc : w.sc = s.sc := by
    rw [← happly]
    exact (applyOutcome_frame t a (txnIdle moment s)).1
  rw [endTxn_eq, happly, applyStreak_quiet hsc fun hc => ha hc.1]
  exact txnCloses_setStation _ _ hsc hb hat

/-- The packet of the transaction is counted and its buffer given up: what the outcome goes on from. -/
structure Counted (s : State) (t : Txn) (rest : List SlotId) (w : State) : Prop where
  leads : Leads w t.point t.slot rest
  active : (w.slot t.slot).state = .active
  faultMark : (w.slot t.slot).faultMark = (s.slot t.slot).faultMark
  cancelRequested : (w.slot t.slot).cancelRequested = (s.slot t.slot).cancelRequested
  pointState : (w.point t.point).state = (s.point t.point).state
  unstaged : (w.point t.point).staged = none
  noTxn : w.le.txn = none
  beside : Beside t.point s w

namespace Counted

variable {s w : State} {t : Txn} {rest : List SlotId} {a : Answer} {moment : Nat} (h : Counted s t rest w)
include h

/-- The exchange ends, by its mark or by the cause. -/
theorem ends (c : Status) :
    afterOutcome t (endExchange t.slot c w) = ended w t.point t.slot rest (statusBy s t.point t.slot c) := by
  have hstaged := stagedFreed_of_none (x := t.slot) h.unstaged
  rw [h.leads.endExchange_eq h.active, hstaged, statusBy_of_eq h.faultMark h.cancelRequested h.pointState]
  exact h.leads.advancePoint_retired hstaged _

/-- The exchange goes on unless a pending mark ends it. -/
theorem goesOn : afterOutcome t w = markTaken w t.point t.slot rest :=
  h.leads.advancePoint_active h.active (by rw [inFlight, h.noTxn])

theorem ends_closes (ha : a ≠ .silent) (hs : ∀ n, streakAfter a n = 0) {c : Status}
    (happly : applyOutcome t a (txnIdle moment s) = afterOutcome t (endExchange t.slot c w)) :
    TxnCloses s (ended (w.setStation (s.point t.point).cfg.station
      { s.station (s.point t.point).cfg.station with streak := 0 }) t.point t.slot rest (statusBy s t.point t.slot c))
      (endTxn t a moment s) := by
  have key := quiet_closes (happly.trans (h.ends c)) ha (h.beside.trans (ended_beside h.leads _)) (ended_leadsAt h.leads _)
  rwa [hs, ← ended_setStation] at key

theorem goesOn_closes (ha : a ≠ .silent) (hs : ∀ n, streakAfter a n = 0)
    (happly : applyOutcome t a (txnIdle moment s) = afterOutcome t w) :
    TxnCloses s (markTaken (w.setStation (s.point t.point).cfg.station
      { s.station (s.point t.point).cfg.station with streak := 0 }) t.point t.slot rest) (endTxn t a moment s) := by
  have key := quiet_closes (happly.trans h.goesOn) ha (h.beside.trans (markTaken_beside h.leads)) (markTaken_leadsAt h.leads)
  rwa [hs, ← markTaken_setStation] at key

end Counted

/-! ### The counting -/

/-- The packet counts with the bytes moved on the line, and the point's sequence bit is set (R21, R88, R92). -/
def packetCounted (s : State) (t : Txn) (moment bytes : Nat) (bit : Bool) : State :=
  ((txnIdle moment s).setPoint t.point { s.point t.point with seq := bit }).setSlot t.slot
    { s.slot t.slot with bytesLine := (s.slot t.slot).bytesLine + bytes, errors := 0 }

section

variable {s : State} {t : Txn} {rest : List SlotId} (h : TxnUnderway s t rest) (moment bytes : Nat) (bit : Bool)

theorem packetCounted_slot : (packetCounted s t moment bytes bit).slot t.slot =
    { s.slot t.slot with bytesLine := (s.slot t.slot).bytesLine + bytes, errors := 0 } := State.slot_setSlot_same ..

theorem packetCounted_point : (packetCounted s t moment bytes bit).point t.point = { s.point t.point with seq := bit } :=
  State.point_setPoint_same ..

theorem packetCounted_toggled : packetCounted s t moment bytes (!(s.point t.point).seq) =
    toggleSeq t.point ((txnIdle moment s).modSlot t.slot fun e => { e with bytesLine := e.bytesLine + bytes, errors := 0 }) :=
  rfl

include h

theorem TxnUnderway.packetCounted_leads : Leads (packetCounted s t moment bytes bit) t.point t.slot rest := by
  refine Leads.setSlot (s := (txnIdle moment s).setPoint t.point { s.point t.point with seq := bit }) ?_ rfl
  exact (h.leads_idle moment).of_frame rfl rfl rfl (by rw [State.point_setPoint_same]; rfl)

theorem TxnUnderway.packetCounted_beside : Beside t.point s (packetCounted s t moment bytes bit) := by
  have hidle : Beside t.point s (txnIdle moment s) := .of_eq rfl rfl rfl rfl
  have hset : Beside t.point s ((txnIdle moment s).setPoint t.point { s.point t.point with seq := bit }) :=
    hidle.trans (.setPoint ..)
  unfold packetCounted
  refine hset.trans (.setSlot ?_ ?_)
  · exact h.leads.point
  · exact id

theorem TxnUnderway.packetCounted_freeBuffer : freeBuffer t.buffer (packetCounted s t moment bytes bit) =
    bufferFreed (packetCounted s t moment bytes bit) t.buffer t.slot t.point := Machine.freeBuffer_eq h.buffer.1 h.buffer.2

/-- The buffer of the packet is freed. -/
theorem TxnUnderway.counted_freed :
    Counted s t rest (bufferFreed (packetCounted s t moment bytes bit) t.buffer t.slot t.point) := by
  have hslot := (bufferFreed_slot (packetCounted s t moment bytes bit) t.buffer t.slot t.point t.slot).trans (if_pos rfl)
  have hpoint := (bufferFreed_point (packetCounted s t moment bytes bit) t.buffer t.slot t.point t.point).trans (if_pos rfl)
  rw [packetCounted_slot] at hslot
  rw [packetCounted_point] at hpoint
  refine ⟨(h.packetCounted_leads moment bytes bit).bufferFreed _, by rw [hslot]; exact h.active, by rw [hslot],
    by rw [hslot], by rw [hpoint], ?_, rfl, ?_⟩
  · rw [hpoint]
    dsimp only
    rw [h.staged]
    split <;> simp_all
  · exact (h.packetCounted_beside moment bytes bit).trans
      (.bufferFreed h.buffer.1 (by rw [packetCounted_slot]; exact h.leads.point))

end

/-! ### ACCEPT of a STORE packet (R88) -/

theorem storeAnswer_accept : storeAnswer (Packet.reply .accept).levels = .reply .accept := by decide +kernel

theorem TxnUnderway.apply_accept {s : State} {t : Txn} {rest : List SlotId} (h : TxnUnderway s t rest) (moment : Nat)
    (hd : t.direction = .store) : applyOutcome t (.reply .accept) (txnIdle moment s) =
      afterOutcome t (
        let w := bufferFreed (packetCounted s t moment t.requested (!(s.point t.point).seq)) t.buffer t.slot t.point
        if (s.slot t.slot).bytesLine + t.requested < (s.slot t.slot).length then w else endExchange t.slot .done w) := by
  have hslot := (bufferFreed_slot (packetCounted s t moment t.requested (!(s.point t.point).seq)) t.buffer t.slot t.point
    t.slot).trans (if_pos rfl)
  rw [packetCounted_slot] at hslot
  unfold applyOutcome
  rw [hd]
  dsimp only [storeOutcome, storeAccept]
  rw [← packetCounted_toggled, h.packetCounted_freeBuffer, hslot]

/-- Settles O49: the packet is counted, its buffer freed, and the exchange ends or takes its mark. -/
theorem storeAcceptCountsThePacket : Obligations.StoreAcceptCountsThePacket := by
  unfold Obligations.StoreAcceptCountsThePacket
  intro t a rest s h hl hd ha hm e q counted u
  have hw := h.counted_freed (a + 38) t.requested (!q.seq)
  have happly := h.apply_accept (a + 38) hd
  dsimp only at happly
  refine ⟨_, execTransactionEnd_due h.txn ((txnEnding_store hl ha).trans (by rw [storeAnswer_accept])) h.running hm,
    fun hdone => ?_, fun hmore => ?_⟩
  · rw [if_neg (Nat.not_lt.mpr hdone)] at happly
    exact hw.ends_closes (a := .reply .accept) nofun (fun _ => rfl) happly
  · rw [if_pos hmore] at happly
    exact hw.goesOn_closes (a := .reply .accept) nofun (fun _ => rfl) happly

/-! ### Acknowledged FETCH DATA (R92, R93) -/

/-- The payload is counted and its buffer waits to be drained (R92, R138). -/
def payloadQueued (s : State) (t : Txn) (moment k : Nat) : State :=
  { (packetCounted s t moment k (!(s.point t.point).seq)).setBuffer t.buffer { s.buffer t.buffer with
      state := .draining, count := k
      addr := some ((s.slot t.slot).hostAddr + BitVec.ofNat 32 (s.slot t.slot).bytesLine) } with
    pm := { s.pm with drainQueue := s.pm.drainQueue ++ [t.buffer] } }

/-- The payload is taken: an empty one frees its buffer (R92). -/
def payloadTaken (s : State) (t : Txn) (moment k : Nat) : State :=
  if k = 0 then bufferFreed (packetCounted s t moment k (!(s.point t.point).seq)) t.buffer t.slot t.point
  else payloadQueued s t moment k

section

variable {s : State} {t : Txn} {rest : List SlotId} (h : TxnUnderway s t rest) (hd : t.direction = .fetch)
  (moment k : Nat)
include h

theorem TxnUnderway.filled_eq : fetchFilled t k (txnIdle moment s) = payloadTaken s t moment k := by
  unfold fetchFilled payloadTaken
  dsimp only
  split
  · exact h.packetCounted_freeBuffer moment k (!(s.point t.point).seq)
  · rfl

/-- Data that is discarded (R93): a repeat leaves the sequence bit. -/
theorem TxnUnderway.discarded_eq (toggles : Bool) : fetchDiscarded t toggles (txnIdle moment s) =
    afterOutcome t (bufferFreed (packetCounted s t moment 0 (toggles ^^ (s.point t.point).seq)) t.buffer t.slot t.point) := by
  rw [← h.packetCounted_freeBuffer]
  cases toggles with
  | false =>
    rw [Bool.false_xor]
    have hpoint : (txnIdle moment s).setPoint t.point { s.point t.point with seq := (s.point t.point).seq } =
        txnIdle moment s := State.setPoint_self (txnIdle moment s) t.point
    rw [packetCounted, hpoint]
    rfl
  | true =>
    rw [Bool.true_xor]
    rfl

include hd

theorem TxnUnderway.counted_queued : Counted s t rest (payloadQueued s t moment k) := by
  have hleads := h.packetCounted_leads moment k (!(s.point t.point).seq)
  have hslot : (payloadQueued s t moment k).slot t.slot =
      { s.slot t.slot with bytesLine := (s.slot t.slot).bytesLine + k, errors := 0 } :=
    packetCounted_slot moment k (!(s.point t.point).seq)
  have hpoint : (payloadQueued s t moment k).point t.point = { s.point t.point with seq := !(s.point t.point).seq } :=
    packetCounted_point moment k (!(s.point t.point).seq)
  have hunstaged : ((payloadQueued s t moment k).point t.point).staged = none := by
    rw [hpoint]
    dsimp only
    rw [h.staged, hd]
    rfl
  refine ⟨?_, by rw [hslot]; exact h.active, by rw [hslot], by rw [hslot], by rw [hpoint], hunstaged, rfl, ?_⟩
  · refine hleads.congr rfl rfl (fun _ _ => rfl) (fun b hb => ?_) id
    rw [hunstaged] at hb
    cases hb
  · have hbuffer : ((packetCounted s t moment k (!(s.point t.point).seq)).buffer t.buffer).point = some t.point :=
      h.buffer.1
    have hset := (h.packetCounted_beside moment k (!(s.point t.point).seq)).trans (.setBuffer hbuffer {
      s.buffer t.buffer with
      state := .draining, count := k
      addr := some ((s.slot t.slot).hostAddr + BitVec.ofNat 32 (s.slot t.slot).bytesLine) })
    exact hset.trans (.of_eq rfl rfl rfl rfl)

theorem TxnUnderway.counted_taken : Counted s t rest (payloadTaken s t moment k) := by
  unfold payloadTaken
  split
  · exact h.counted_freed moment k _
  · exact h.counted_queued hd moment k

omit h in
theorem applyOutcome_data (seq : Bool) :
    applyOutcome t (.data k seq) (txnIdle moment s) = fetchData t k seq (txnIdle moment s) := by
  unfold applyOutcome
  rw [hd]
  rfl

theorem TxnUnderway.apply_taken (hm : ((s.slot t.slot).cancelRequested || (s.slot t.slot).faultMark) = false) :
    applyOutcome t (.data k t.seq) (txnIdle moment s) = afterOutcome t (
      if (s.slot t.slot).length ≤ (s.slot t.slot).bytesLine + k then endExchange t.slot .done (payloadTaken s t moment k)
      else if k < t.requested then
        endExchange t.slot (if (s.slot t.slot).shortOk then .done else .short) (payloadTaken s t moment k)
      else payloadTaken s t moment k) := by
  have hunmarked : ¬ (((txnIdle moment s).slot t.slot).cancelRequested ||
      ((txnIdle moment s).slot t.slot).faultMark) = true := ne_true_of_eq_false hm
  rw [applyOutcome_data hd, fetchData, if_pos rfl, if_neg hunmarked, fetchTaken_eq, h.filled_eq]
  rfl

end

theorem statusBy_unmarked {s : State} {p : PointId} {x : SlotId}
    (hm : ((s.slot x).cancelRequested || (s.slot x).faultMark) = false) (c : Status) : statusBy s p x c = c := by
  obtain ⟨hc, hf⟩ := Bool.or_eq_false_iff.mp hm
  unfold statusBy
  rw [hf, hc]
  rfl

theorem markTaken_unmarked {s : State} {p : PointId} {x : SlotId} {rest : List SlotId}
    (hf : (s.slot x).faultMark = false) (hc : (s.slot x).cancelRequested = false) : markTaken s p x rest = s := by
  unfold markTaken
  dsimp only
  rw [hf, hc, if_neg Bool.false_ne_true, if_neg fun h => Bool.false_ne_true h.1]

theorem txnEnding_data {q : SegParams} {t : Txn} {levels : List Bool} {a k : Nat} {seq : Bool}
    (hb : t.answerBegan = some a) (hr : t.received = some (k, seq)) :
    txnEnding q .acknowledging t levels = some (a + 94 + 10 * k, .data k seq) := by
  unfold txnEnding
  dsimp only
  rw [hb, hr]

/-- Settles O50: data with the expected bit and no mark is taken (`payloadTaken`), other data is discarded. -/
theorem fetchDataJoinsTheDrainQueue : Obligations.FetchDataJoinsTheDrainQueue := by
  unfold Obligations.FetchDataJoinsTheDrainQueue
  intro t a k seq rest levels s h hl hd ha hr hm e q marked counted taken discarded
  have hdue := execTransactionEnd_due h.txn (levels := levels) (by rw [hl]; exact txnEnding_data ha hr) h.running hm
  have hw := h.counted_taken hd (a + 94 + 10 * k) k
  have htaken : taken = (payloadTaken s t (a + 94 + 10 * k) k).setStation q.cfg.station
      { s.station q.cfg.station with streak := 0 } := by
    unfold payloadTaken
    split
    · next hk => exact if_pos hk
    · next hk => exact if_neg hk
  have hdiscarded : ∀ bit, discarded bit =
      markTaken ((bufferFreed (packetCounted s t (a + 94 + 10 * k) 0 bit) t.buffer t.slot t.point).setStation q.cfg.station
        { s.station q.cfg.station with streak := 0 }) t.point t.slot rest := fun _ => rfl
  refine ⟨_, hdue, fun hseq hmark hlast => ?_, fun hseq hmark hmore hshort => ?_, fun hseq hmark hmore hfull => ?_,
    fun hseq hmark => ?_, fun hseq => ?_⟩
  · subst hseq
    have happly := h.apply_taken hd (a + 94 + 10 * k) k hmark
    rw [if_pos hlast] at happly
    have key := hw.ends_closes (a := .data k t.seq) nofun (fun _ => rfl) happly
    rwa [statusBy_unmarked hmark, ← htaken] at key
  · subst hseq
    have happly := h.apply_taken hd (a + 94 + 10 * k) k hmark
    rw [if_neg (Nat.not_le.mpr hmore), if_pos hshort] at happly
    have key := hw.ends_closes (a := .data k t.seq) nofun (fun _ => rfl) happly
    rwa [statusBy_unmarked hmark, ← htaken] at key
  · subst hseq
    have happly := h.apply_taken hd (a + 94 + 10 * k) k hmark
    rw [if_neg (Nat.not_le.mpr hmore), if_neg (Nat.not_lt.mpr hfull)] at happly
    have key := hw.goesOn_closes (a := .data k t.seq) nofun (fun _ => rfl) happly
    obtain ⟨hc, hf⟩ := Bool.or_eq_false_iff.mp hmark
    rwa [markTaken_setStation, markTaken_unmarked (hw.faultMark.trans hf) (hw.cancelRequested.trans hc), ← htaken] at key
  · subst hseq
    have happly := h.discarded_eq (a + 94 + 10 * k) true
    rw [Bool.true_xor] at happly
    rw [hdiscarded]
    refine (h.counted_freed (a + 94 + 10 * k) 0 (!q.seq)).goesOn_closes (a := .data k t.seq) nofun (fun _ => rfl) ?_
    rw [applyOutcome_data hd, fetchData, if_pos rfl]
    exact (if_pos hmark).trans happly
  · have happly := h.discarded_eq (a + 94 + 10 * k) false
    rw [Bool.false_xor] at happly
    rw [hdiscarded]
    refine (h.counted_freed (a + 94 + 10 * k) 0 q.seq).goesOn_closes (a := .data k seq) nofun (fun _ => rfl) ?_
    rw [applyOutcome_data hd, fetchData, if_neg hseq]
    exact happly

end Sys2Proof.Machine
end

section
/-! PROOF. COMPLETION RELEASE with points held: advance, excess and the posting walk (R154, R159, R160). -/

namespace Sys2Proof.Machine

set_option Elab.async false

/-! ### A round of the walk -/

/-- The record of an exchange that has ended is posted, whatever its state, and its slot freed. -/
theorem freeSlot_postRecord_of_status {s : State} {p : PointId} {x : SlotId} {st : Status}
    (h : (s.slot x).status = some st) :
    freeSlot x p (postRecord x p s) = slotGone (recordPosted s p x st) p x ((s.queue p).erase x) := by
  have hrecord : recordOf (retired s x st) x p = recordOf s x p := by
    simp only [recordOf, retired_slot, h]
    rfl
  have hpost : postRecord x p (retired s x st) =
      (postRecord x p s).setSlot x { s.slot x with state := .retiring, status := some st } := by
    unfold postRecord
    rw [hrecord]
    rfl
  rw [← freeSlot_postRecord, hpost, freeSlot_setSlot_eq]

/-- Following a queue posts records and takes none away. -/
theorem followed_count_le (w : Bool) (p : PointId) (ys : List SlotId) :
    ∀ s : State, s.cu.count ≤ (followed w p ys s).cu.count := by
  induction ys with
  | nil =>
    intro s
    unfold followed
    split <;> exact Nat.le_refl _
  | cons y ys ih =>
    intro s
    unfold followed
    dsimp only
    split
    · exact Nat.le_refl _
    · split
      · exact ih (slotGone s p y ys)
      · split
        · exact (Nat.le_succ _).trans (ih (slotGone (recordPosted s p y (cancelGives s p)) p y ys))
        · exact Nat.le_refl _

/-- The record of the first held point's first exchange is written, its slot is freed, and its queue is followed. -/
def roundOf (s : State) (p : PointId) (ps : List PointId) (x : SlotId) (rest : List SlotId) (st : Status) : State :=
  followed true p rest (slotGone (recordPosted { s with cu := { s.cu with held := ps } } p x st) p x rest)

section

variable {s : State} {p : PointId} {ps : List PointId} {x : SlotId} {rest : List SlotId} {st : Status}

theorem roundOf_count : s.cu.count + 1 ≤ (roundOf s p ps x rest st).cu.count :=
  followed_count_le true p rest (slotGone (recordPosted { s with cu := { s.cu with held := ps } } p x st) p x rest)

theorem postingWalk_round {n : Nat} (held : s.cu.held = p :: ps) (once : p ∉ ps) (room : s.cu.count < 64)
    (queue : s.queue p = x :: rest) (status : (s.slot x).status = some st)
    (behind : ∀ y ∈ rest, y ≠ x ∧ Waits s p y) :
    postingWalk (n + 1) s = postingWalk n (roundOf s p ps x rest st) := by
  generalize hu : ({ s with cu := { s.cu with held := ps } } : State) = u
  have hslot : ∀ y, u.slot y = s.slot y := fun y => by rw [← hu]; rfl
  have hqueue : u.queue p = x :: rest := by rw [← hu]; exact queue
  have hpost : freeSlot x p (postRecord x p u) = slotGone (recordPosted u p x st) p x rest := by
    rw [freeSlot_postRecord_of_status (by rw [hslot, status]), hqueue, List.erase_cons_head]
  have hfirst : s.first p = some x := by rw [State.first, queue, List.head?_cons]
  have hwaits : ∀ y ∈ rest, Waits (slotGone (recordPosted u p x st) p x rest) p y ∨
      (slotGone (recordPosted u p x st) p x rest).slot y = Slot.free :=
    waits_slotGone (s := s) (fun y hy => .inl (behind y hy).2) hslot (by rw [← hu]; rfl) fun b => by rw [← hu]; rfl
  have hnotHeld : p ∉ (slotGone (recordPosted u p x st) p x rest).cu.held := by rw [← hu]; exact once
  rw [postingWalk, held]
  dsimp only
  rw [if_pos room, hfirst]
  dsimp only
  rw [hu, hpost, slotGone_queue, advance_eq_followed true p rest _ (slotGone_queue ..) hnotHeld hwaits, ← hu]
  rfl

end

/-- The walk of the statement is the model's: each round posts a record, so the room in the ring bounds the rounds. -/
theorem PostingWalk.postingWalk_eq {s t : State} (h : PostingWalk s t) :
    ∀ n, 64 ≤ s.cu.count + n → postingWalk n s = t := by
  induction h with
  | ends s h =>
    intro n _
    cases n with
    | zero => rfl
    | succ n =>
      rw [postingWalk]
      split
      · rfl
      · next p rest hheld =>
        refine if_neg (Nat.not_lt.mpr (h.resolve_left ?_))
        rw [hheld]
        nofun
  | @posts s t p ps x rest st held once room queue status behind more ih =>
    intro n hn
    cases n with
    | zero => exact absurd room (Nat.not_lt.mpr hn)
    | succ n =>
      rw [postingWalk_round held once room queue status behind]
      exact ih n (Nat.le_trans (by omega) (Nat.add_le_add_right roundOf_count n))

/-- Settles O34: `release` advances, raises the excess, walks by `PostingWalk.postingWalk_eq` and ends in a service. -/
theorem completionReleaseWalksTheHeldPoints : Obligations.CompletionReleaseWalksTheHeldPoints := by
  unfold Obligations.CompletionReleaseWalksTheHeldPoints
  intro w s u hd hheld n released hwalk
  have hreleased : (if s.cu.count < w.toNat then
      raise .accessFault (setAccess (fun a => { a with releaseExcess := true }) (releaseRecords w.toNat s))
      else releaseRecords w.toNat s) = released := by
    by_cases hx : s.cu.count < w.toNat
    · simp only [released, if_pos hx]
      rfl
    · simp only [released, if_neg hx]
      rfl
  have hrelease : release w s = choose (settle u) := by
    unfold release
    dsimp only
    rw [hreleased, if_neg (show ¬ released.cu.held = [] from hheld), hwalk.postingWalk_eq 64 (Nat.le_add_left ..)]
  exact ⟨_, (windowWrite_eq s (release w) hd).trans (congrArg _ hrelease), choose_settle_only u⟩

end Sys2Proof.Machine
end

section
/-! PROOF. CANCEL EXCHANGE of an exchange with nothing in flight (R42 to R44, R155, R156). -/

namespace Sys2Proof.Machine

set_option Elab.async false

/-! ### The answer after a service -/

/-- The choice of the scheduler leaves an exchange that has cancel_requested, or that is neither QUEUED nor ACTIVE, as it
was. -/
theorem ChoiceOnly.slot_eq {s t : State} {x : SlotId} (h : ChoiceOnly s t)
    (hx : (s.slot x).cancelRequested = true ∨ (s.slot x).state ≠ .queued ∧ (s.slot x).state ≠ .active) :
    t.slot x = s.slot x := by
  have hbegins : ∀ p f, MayBegin s p → Begins s p f t → t.slot x = s.slot x := by
    rintro p f ⟨-, -, ⟨y, hy, hstate, hcancel, -⟩, -⟩ ⟨z, b, n, hz, -, hstore, hfetch⟩
    obtain rfl := Option.some.inj (hy.symm.trans hz)
    have hxy : y ≠ x := by
      rintro rfl
      rcases hx with hx | ⟨hq, ha⟩
      · rw [hx] at hcancel
        cases hcancel
      · exact hstate.elim hq ha
    cases hd : (s.point p).cfg.direction with
    | store =>
      obtain ⟨-, -, hsp, -⟩ := hstore hd
      rw [State.slot, hsp]
      rfl
    | fetch =>
      obtain ⟨-, -, -, hsp, -⟩ := hfetch hd
      rw [State.slot, hsp]
      exact State.slot_setSlot_other s hxy _
  rcases h.choice with rfl | ⟨-, p, before, after, hmay, -, ⟨-, k⟩ | ⟨-, -, -, -, -, -, -, -, -, k, -⟩⟩
  · rfl
  · exact hbegins _ _ hmay k
  · exact hbegins _ _ hmay k

theorem ServiceOnly.slot_eq {s t : State} {x : SlotId} (h : ServiceOnly s t)
    (hx : (s.slot x).cancelRequested = true ∨ (s.slot x).state ≠ .queued ∧ (s.slot x).state ≠ .active) :
    t.slot x = s.slot x := by
  obtain ⟨u, hstaged, hchosen⟩ := h
  have hu := hstaged.slot_eq hx
  exact (hchosen.slot_eq (by rw [hu]; exact hx)).trans hu

/-- A cancel that ends the exchange: the answer, and the service that ends the happening. -/
theorem cancelExchange_removes {s u : State} {x : SlotId} {g : SlotState} (hd : deaf s = false)
    (hx : (s.param 0).toNat % 65536 = x.val) (hc : cancelDecision x s = (choose (settle u), .removed))
    (hw : u.hw = s.hw) (hg : (u.slot x).state = g) (hleft : g ≠ .queued ∧ g ≠ .active)
    (hm : (u.slot x).cancelRequested = false) : ∃ t, exec .cancelExchange s = .next t ∧
      ServiceOnly { u with hw := answeredWindow s.hw 0x11 0x02 g.code 0 0 } t := by
  have hs := choose_settle_only u
  have hslot : (choose (settle u)).slot x = u.slot x := hs.slot_eq (.inr (by rw [hg]; exact hleft))
  refine ⟨_, cancelExchange_answers hd hx hc (hs.hw_eq.trans hw), ?_⟩
  rw [hslot, hg, hm]
  exact hs.withWindow _ (by rw [hw]; exact answeredWindow_config ..)

/-! ### An exchange leaves its queue -/

/-- An exchange that no staged buffer of its point serves ends. -/
theorem endWith_unstaged {s : State} {p : PointId} {x : SlotId} (hp : (s.slot x).point = some p)
    (hb : ∀ b, (s.point p).staged = some b → (s.buffer b).slot ≠ some x) (st : Status) :
    endWith x st s = retired s x st := by
  have hnone : stagedBuffer (retired s x st) x = none := by
    unfold stagedBuffer
    rw [retired_slot]
    dsimp only
    rw [hp]
    dsimp only [retired, State.setSlot_point]
    split
    · next b hs => exact if_neg (by simp [stagedFor, State.setSlot_buffer, hb b hs])
    · rfl
  change freeStaged x (retired s x st) = _
  unfold freeStaged
  rw [hnone]

/-- A FREE slot stays FREE as a queue is followed. -/
theorem followed_slot_free (w : Bool) (p : PointId) {x : SlotId} (ys : List SlotId) :
    ∀ s : State, s.slot x = Slot.free → (followed w p ys s).slot x = Slot.free := by
  have hgone : ∀ (u : State) (y : SlotId) (zs : List SlotId), u.slot x = Slot.free →
      (slotGone u p y zs).slot x = Slot.free := fun u y zs h => by
    rw [slotGone_slot]
    split
    · rfl
    · exact h
  induction ys with
  | nil =>
    intro s h
    unfold followed
    split
    · exact h
    · exact h
  | cons y ys ih =>
    intro s h
    unfold followed
    dsimp only
    split
    · exact h
    · next hy =>
      split
      · exact ih _ (hgone s y ys h)
      · split
        · exact ih _ (hgone (recordPosted s p y _) y ys h)
        · have hyx : y ≠ x := by
            rintro rfl
            rw [h] at hy
            exact hy (.inl nofun)
          exact (State.slot_setSlot_other s hyx _).trans h

/-- The new first exchange of a queue stays as it is: no mark of it is due, and it does not leave RETIRING. -/
def Stays (s : State) (p : PointId) (y : SlotId) : Prop :=
  (s.slot y).state = .queued ∧ (s.slot y).cancelRequested = false ∨
  (s.slot y).state = .active ∧ (inFlight s y = true ∨ (s.slot y).faultMark = false ∧
    ((s.slot y).cancelRequested = false ∨ (s.slot y).point = some p ∧ ((stagedFreed s y p).slot y).jobs ≠ 0)) ∨
  (s.slot y).state = .retiring ∧ ((s.slot y).jobs ≠ 0 ∨
    p ∈ s.cu.held ∧ ∃ st, (s.slot y).status = some st ∧ CompletionIsDue (s.slot y) st)

theorem jobsBesidesStaged_of_point {s : State} {p : PointId} {y : SlotId} (hp : (s.slot y).point = some p) :
    jobsBesidesStaged s y = ((stagedFreed s y p).slot y).jobs := by
  simp only [jobsBesidesStaged, stagedBuffer, stagedFreed, hp]
  cases hs : (s.point p).staged with
  | none => simp
  | some b =>
    by_cases hg : (s.buffer b).state = .staged ∧ (s.buffer b).slot = some y
    · simp [stagedFor, hg, bufferFreed_slot]
    · have hf : stagedFor s y b = false := by
        rw [stagedFor, ← Bool.decide_and]
        exact decide_eq_false hg
      simp [hf, hg]

theorem completionDue_of_retiring {e : Slot} {st : Status} (hg : e.state = .retiring) (hs : e.status = some st)
    (hd : CompletionIsDue e st) : completionDue e = true := by
  have key := (completionDue_iff e st).mpr hd
  rwa [show ({ e with state := .retiring, status := some st } : Slot) = e by rw [← hg, ← hs]] at key

/-- A queue whose first exchange stays is followed no further. -/
theorem Stays.advance_eq {s : State} {p : PointId} {y : SlotId} (h : Stays s p y) (w : Bool) (ys : List SlotId) :
    advance w p (y :: ys) s = s := by
  have hkeeps : endPending y s = s ∧ retireFirst w p y s = (s, false) := by
    unfold endPending retireFirst
    rcases h with ⟨hg, hc⟩ | ⟨hg, h⟩ | ⟨hg, h⟩
    · dsimp only
      rw [hg, hc]
      exact ⟨rfl, rfl⟩
    · have hend : (if inFlight s y = true then s else if (s.slot y).faultMark = true then endExchange y .moverFault s
          else if (s.slot y).cancelRequested = true ∧ jobsBesidesStaged s y = 0 then endExchange y .cancelled s
          else s) = s := by
        rcases h with hi | ⟨hf, hc⟩
        · exact if_pos hi
        · rw [if_neg (ne_true_of_eq_false hf)]
          have hno : ¬ ((s.slot y).cancelRequested = true ∧ jobsBesidesStaged s y = 0) := by
            rintro ⟨hc', hj⟩
            rcases hc with hc | ⟨hp, hjobs⟩
            · rw [hc] at hc'
              cases hc'
            · exact hjobs (jobsBesidesStaged_of_point hp ▸ hj)
          rw [if_neg hno, ite_self]
      dsimp only
      rw [hg]
      exact ⟨hend, rfl⟩
    · dsimp only
      rw [hg]
      refine ⟨rfl, ?_⟩
      rcases h with hj | ⟨hheld, st, hs, hd⟩
      · exact if_neg fun k => hj k.2
      · have hpost : canPost s = false := by
          refine Bool.eq_false_iff.mpr fun k => ?_
          rw [((canPost_iff s).mp k).1] at hheld
          cases hheld
        rw [completionDue_of_retiring hg hs hd, hpost, if_pos hheld]
        simp
  rw [advance, hkeeps.1, hkeeps.2]
  rfl

theorem Stays.followed_eq {s : State} {p : PointId} {y : SlotId} (h : Stays s p y) (w : Bool) (ys : List SlotId) :
    followed w p (y :: ys) s = s := by
  have hno : (s.slot y).state ≠ .queued ∨ (s.slot y).cancelRequested = false := by
    rcases h with ⟨-, hc⟩ | ⟨hg, -⟩ | ⟨hg, -⟩
    · exact .inr hc
    · exact .inl (by rw [hg]; nofun)
    · exact .inl (by rw [hg]; nofun)
  unfold followed
  exact if_pos hno

/-- Whether the first exchange stays depends on its slot, its point, the buffers, the transaction and the held list. -/
theorem Stays.congr {s u : State} {p : PointId} {y : SlotId} (h : Stays s p y) (hs : u.slot y = s.slot y)
    (hp : u.point p = s.point p) (hb : ∀ b, u.buffer b = s.buffer b) (hl : u.le = s.le) (hc : u.cu.held = s.cu.held) :
    Stays u p y := by
  have hi : inFlight u y = inFlight s y := by rw [inFlight, hl]; rfl
  have hj : (s.slot y).point = some p → ((stagedFreed u y p).slot y).jobs = ((stagedFreed s y p).slot y).jobs := by
    intro hy
    have hbuffer : stagedBuffer u y = stagedBuffer s y := by
      unfold stagedBuffer
      rw [hs, hy]
      dsimp only
      rw [hp]
      cases (s.point p).staged with
      | none => rfl
      | some b =>
        have hfor : stagedFor u y b = stagedFor s y b := by
          unfold stagedFor
          rw [hb]
        dsimp only
        rw [hfor]
    rw [← jobsBesidesStaged_of_point hy, ← jobsBesidesStaged_of_point (hs ▸ hy), jobsBesidesStaged, jobsBesidesStaged,
      hbuffer, hs]
  unfold Stays
  rw [hs, hi, hc]
  rcases h with h | ⟨hg, h⟩ | h
  · exact .inl h
  · refine .inr (.inl ⟨hg, h.imp_right fun ⟨hf, k⟩ => ⟨hf, k.imp_right fun ⟨hy, k⟩ => ⟨hy, ?_⟩⟩⟩)
    rw [hj hy]
    exact k
  · exact .inr (.inr h)

/-- What is left of a queue once an exchange has gone: its first exchange stays, or every exchange waits. -/
def LeftInOrder (s : State) (p : PointId) (x : SlotId) (left : List SlotId) : Prop :=
  (∃ y, left.head? = some y ∧ y ≠ x ∧ Stays s p y) ∨ p ∉ s.cu.held ∧ ∀ y ∈ left, y ≠ x ∧ Waits s p y

theorem LeftInOrder.advancePoint_eq {s u : State} {p : PointId} {x : SlotId} {left : List SlotId}
    (h : LeftInOrder s p x left) (hs : ∀ y, u.slot y = s.slot y) (hp : u.point p = s.point p)
    (hb : ∀ b, u.buffer b = s.buffer b) (hl : u.le = s.le) (hc : u.cu.held = s.cu.held) :
    advancePoint p (slotGone u p x left) = slotFreed u p x left := by
  unfold advancePoint slotFreed
  rw [slotGone_queue]
  rcases h with ⟨y, hy, hyx, hstays⟩ | ⟨hh, hw⟩
  · obtain ⟨ys, rfl⟩ := List.head?_eq_some_iff.mp hy
    have hgone : Stays (slotGone u p x (y :: ys)) p y :=
      hstays.congr ((slotGone_slot ..).trans ((if_neg (Ne.symm hyx)).trans (hs y))) hp hb hl hc
    rw [hgone.advance_eq, hgone.followed_eq]
  · exact advance_eq_followed false p left _ (slotGone_queue ..) (by rw [← hc] at hh; exact hh)
      (waits_slotGone (fun y hy => .inl (hw y hy).2) hs hp hb)

/-! ### The two rows that end an exchange -/

section

variable {x : SlotId} {p : PointId} {s : State} (hd : deaf s = false) (hx : (s.param 0).toNat % 65536 = x.val)
  (hp : (s.slot x).point = some p) (hc : (s.slot x).cancelRequested = false)
include hd hx hp hc

theorem cancelExchange_queued {u : State} (hg : (s.slot x).state = .queued)
    (hq : cancelQueued x p s = (choose (settle u), .removed)) (hw : u.hw = s.hw) {g : SlotState}
    (hu : (u.slot x).state = g) (hleft : g ≠ .queued ∧ g ≠ .active) (hm : (u.slot x).cancelRequested = false) :
    ∃ t, exec .cancelExchange s = .next t ∧
      ServiceOnly { u with hw := answeredWindow s.hw 0x11 0x02 g.code 0 0 } t := by
  obtain ⟨q, hq', hdec⟩ := cancelDecision_queued hg (by rw [hp]; nofun)
  obtain rfl := Option.some.inj (hp.symm.trans hq')
  rw [if_neg (ne_true_of_eq_false hc), hq] at hdec
  exact cancelExchange_removes hd hx hdec hw hu hleft hm

/-- The slot of the exchange is freed, and the queue is followed. -/
theorem cancelExchange_frees {u : State} (hg : (s.slot x).state = .queued)
    (hq : cancelQueued x p s = (choose (settle (advancePoint p (slotGone u p x ((s.queue p).erase x)))), .removed))
    (horder : LeftInOrder s p x ((s.queue p).erase x)) (hs : u.sp = s.sp) (hpt : u.pt = s.pt) (hb : u.bp = s.bp)
    (hl : u.le = s.le) (hh : u.cu.held = s.cu.held) (hw : u.hw = s.hw) :
    ∃ t, exec .cancelExchange s = .next t ∧
      ServiceOnly { slotFreed u p x ((s.queue p).erase x) with hw := answeredWindow s.hw 0x11 0x02 0 0 0 } t := by
  have hfree : (slotFreed u p x ((s.queue p).erase x)).slot x = Slot.free :=
    followed_slot_free false p _ _ ((slotGone_slot ..).trans (if_pos rfl))
  have hwindow : (slotFreed u p x ((s.queue p).erase x)).hw = s.hw := by
    rw [← horder.advancePoint_eq (u := u) (fun y => by rw [State.slot, hs]; rfl) (by rw [State.point, hpt]; rfl)
      (fun b => by rw [State.buffer, hb]; rfl) hl hh]
    exact (advancePoint_frame p _).2.2.1.trans hw
  rw [horder.advancePoint_eq (fun y => by rw [State.slot, hs]; rfl) (by rw [State.point, hpt]; rfl)
    (fun b => by rw [State.buffer, hb]; rfl) hl hh] at hq
  exact cancelExchange_queued hd hx hp hc hg hq hwindow (g := .free) (by rw [hfree]; rfl) ⟨nofun, nofun⟩
    (by rw [hfree]; rfl)

end

/-- What an ending whose jobs are done leaves of its slot. -/
theorem ended_slot {s : State} {p : PointId} {x : SlotId} {rest : List SlotId} {st : Status} (hj : (s.slot x).jobs = 0) :
    (ended s p x rest st).slot x = Slot.free ∨
      (ended s p x rest st).slot x = { s.slot x with state := .retiring, status := some st } := by
  have hfreed : ∀ u : State, (slotFreed u p x rest).slot x = Slot.free := fun u =>
    followed_slot_free false p rest _ ((slotGone_slot ..).trans (if_pos rfl))
  unfold ended
  dsimp only
  rw [if_neg (not_not.mpr hj)]
  split
  · exact .inl (hfreed s)
  · split
    · exact .inl (hfreed _)
    · exact .inr (State.slot_setSlot_same ..)

section

variable {x : SlotId} {p : PointId} {s : State} (hd : deaf s = false) (hx : (s.param 0).toNat % 65536 = x.val)
  (hp : (s.slot x).point = some p) (hc : (s.slot x).cancelRequested = false)
include hd hx hp hc

section

variable (hg : (s.slot x).state = .queued) (hend : endWith x (cancelStatus s x) s = retired s x (cancelGives s p))
include hg hend

/-- With no record due, or with room in the ring, the exchange leaves its queue (R43, R44). -/
theorem cancelExchange_leaves (horder : LeftInOrder s p x ((s.queue p).erase x))
    (hroom : ¬ ((s.slot x).notify = true ∧ 64 ≤ s.cu.count)) : ∃ t, exec .cancelExchange s = .next t ∧
      ServiceOnly { slotFreed (if (s.slot x).notify = true then recordPosted s p x (cancelGives s p) else s) p x
        ((s.queue p).erase x) with hw := answeredWindow s.hw 0x11 0x02 0 0 0 } t := by
  by_cases hn : (s.slot x).notify = true
  · have hcount : s.cu.count < 64 := Nat.lt_of_not_le fun h => hroom ⟨hn, h⟩
    rw [if_pos hn]
    refine cancelExchange_frees hd hx hp hc hg ?_ horder rfl rfl rfl rfl rfl rfl
    unfold cancelQueued
    dsimp only
    rw [if_neg (by rw [hn]; nofun), if_pos hcount, hend, freeSlot_postRecord]
  · rw [if_neg hn]
    refine cancelExchange_frees hd hx hp hc hg ?_ horder rfl rfl rfl rfl rfl rfl
    unfold cancelQueued
    dsimp only
    rw [if_pos (Bool.eq_false_iff.mpr hn), hend, retired, freeSlot_setSlot]

/-- With its record due and the ring full, the first of a queue is held (R155, R156). -/
theorem cancelExchange_holds (hn : (s.slot x).notify = true) (hcount : 64 ≤ s.cu.count) (hfirst : s.first p = some x)
    (hjobs : (s.slot x).jobs = 0) (hheld : p ∉ s.cu.held) : ∃ t, exec .cancelExchange s = .next t ∧
      ServiceOnly { joinHeld false p (retired s x (cancelGives s p)) with
        hw := answeredWindow s.hw 0x11 0x02 3 0 0 } t := by
  obtain ⟨rest, hqueue⟩ := List.head?_eq_some_iff.mp hfirst
  have hdue : CompletionIsDue (s.slot x) (cancelGives s p) := .inl hn
  have hring : ¬ (s.cu.held = [] ∧ s.cu.count < 64) := fun h => absurd h.2 (Nat.not_lt.mpr hcount)
  have hadvance : advancePoint p (retired s x (cancelGives s p)) = joinHeld false p (retired s x (cancelGives s p)) := by
    unfold advancePoint
    rw [show (retired s x (cancelGives s p)).queue p = x :: rest from hqueue, advance, endPending_retired,
      retireFirst_retired false _ hqueue hheld, if_neg (not_not.mpr hjobs), if_neg (not_not.mpr hdue), if_neg hring]
    rfl
  have hqueued : cancelQueued x p s = (choose (settle (joinHeld false p (retired s x (cancelGives s p)))), .removed) := by
    unfold cancelQueued
    dsimp only
    rw [if_neg (by rw [hn]; nofun), if_neg (Nat.not_lt.mpr hcount), if_pos hfirst, hend, hadvance]
  have hslot : (joinHeld false p (retired s x (cancelGives s p))).slot x =
      { s.slot x with state := .retiring, status := some (cancelGives s p) } := by
    rw [joinHeld_eq]
    exact retired_slot ..
  exact cancelExchange_queued hd hx hp hc hg hqueued (joinHeld_hw ..) (g := .retiring) (by rw [hslot]) ⟨nofun, nofun⟩
    (by rw [hslot]; exact hc)

end

/-- With its record due and the ring full, a later one takes cancel_requested (R43). -/
theorem cancelExchange_waits (hg : (s.slot x).state = .queued) (hn : (s.slot x).notify = true) (hcount : 64 ≤ s.cu.count)
    (hfirst : s.first p ≠ some x) : ∃ t, exec .cancelExchange s = .next t ∧
      StagingOnly { s.setSlot x { s.slot x with cancelRequested := true } with
        hw := answeredWindow s.hw 0x11 0x03 1 1 0 } t := by
  obtain ⟨q, hq, hdec⟩ := cancelDecision_queued hg (by rw [hp]; nofun)
  obtain rfl := Option.some.inj (hp.symm.trans hq)
  rw [if_neg (ne_true_of_eq_false hc), cancelQueued, if_neg (by rw [hn]; nofun), if_neg (Nat.not_lt.mpr hcount),
    if_neg hfirst] at hdec
  exact cancelExchange_marks (g := .queued) hd hx hg hdec

/-- An ACTIVE exchange with nothing in flight and nothing outstanding but its STAGED buffer ends (R43, R44). -/
theorem cancelExchange_ends {rest : List SlotId} (hg : (s.slot x).state = .active) (hleads : Leads s p x rest)
    (hf : (s.slot x).faultMark = false) (hi : inFlight s x = false) (hj : ((stagedFreed s x p).slot x).jobs = 0) :
    ∃ t, exec .cancelExchange s = .next t ∧ ServiceOnly { ended (stagedFreed s x p) p x rest (cancelGives s p) with
      hw := answeredWindow s.hw 0x11 0x02
        ((ended (stagedFreed s x p) p x rest (cancelGives s p)).slot x).state.code 0 0 } t := by
  obtain ⟨q, hq, hdec⟩ := cancelDecision_active hg (by rw [hp]; nofun)
  obtain rfl := Option.some.inj (hp.symm.trans hq)
  rw [if_neg (ne_true_of_eq_false hf), if_neg (ne_true_of_eq_false hc), cancelActive,
    if_pos ⟨hi, hleads.jobsBesidesStaged_eq.trans hj⟩, cancelStatus_eq hp, hleads.advancePoint_endWith] at hdec
  have hw : (ended (stagedFreed s x p) p x rest (cancelGives s p)).hw = s.hw := by
    rw [← hleads.advancePoint_endWith]
    exact (advancePoint_frame p _).2.2.1.trans ((walkFrame_closed s).endWith _ _ _ (.refl s)).2.2.1
  have hmark : ((stagedFreed s x p).slot x).cancelRequested = false := by
    obtain ⟨j, hj⟩ := stagedFreed_slot_jobs (s := s) (x := x) (p := p) x
    rw [hj]
    exact hc
  rcases ended_slot (p := p) (rest := rest) (st := cancelGives s p) hj with hslot | hslot
  · exact cancelExchange_removes hd hx hdec hw rfl (by rw [hslot]; exact ⟨nofun, nofun⟩) (by rw [hslot]; rfl)
  · exact cancelExchange_removes hd hx hdec hw rfl (by rw [hslot]; exact ⟨nofun, nofun⟩) (by rw [hslot]; exact hmark)

end

/-- Settles O16: a QUEUED exchange by the rows of `cancelQueued`, an ACTIVE one by `Leads.advancePoint_endWith`. -/
theorem cancelRemovesAQueuedExchange : Obligations.CancelRemovesAQueuedExchange := by
  unfold Obligations.CancelRemovesAQueuedExchange
  intro x p s hd hx hp hc
  dsimp only
  refine ⟨fun hg hb horder => ?_, fun rest hg hleads hf hi hj => cancelExchange_ends hd hx hp hc hg hleads hf hi hj⟩
  have hend : endWith x (cancelStatus s x) s = retired s x (cancelGives s p) := by
    rw [cancelStatus_eq hp, endWith_unstaged hp hb]
  refine ⟨cancelExchange_leaves hd hx hp hc hg hend horder, fun ⟨hn, hcount⟩ hfirst hjobs hheld => ?_,
    fun ⟨hn, hcount⟩ hfirst => cancelExchange_waits hd hx hp hc hg hn hcount hfirst⟩
  have key := cancelExchange_holds hd hx hp hc hg hend hn hcount hfirst hjobs hheld
  rw [joinHeld_eq] at key
  simp only [and_true] at key
  exact key

end Sys2Proof.Machine
end

section
/-! PROOF. An error answer, or a retry at the limit: the job and the queued jobs of its exchange fault (R46, R113, R147,
R148). -/

namespace Sys2Proof.Machine

set_option Elab.async false

/-! ### The mover stays FAULTED -/

/-- The mover as it was, but for stage jobs that have joined its queue. -/
def StagesJoined (m : Mover) (t : State) : Prop :=
  ∃ more, t.pm = { m with stageQueue := m.stageQueue ++ more }

theorem StagesJoined.of_pm {m : Mover} {s t : State} (h : StagesJoined m s) (ht : t.pm = s.pm) : StagesJoined m t :=
  h.imp fun _ k => ht.trans k

/-- A mover that is not IDLE takes no job (R139), so the walks and the staging only queue stage jobs for it. -/
theorem stagesJoined_closed {m : Mover} (hm : m.state ≠ .idle) : Closed (StagesJoined m) where
  free b _ h := h.of_pm (freeBuffer_pm b _)
  retire _ _ _ h := h.of_pm rfl
  freeSlot _ _ _ h := h.of_pm (freeSlot_pm ..)
  post _ _ _ _ h := h.of_pm (postRecord_pm ..)
  hold _ _ _ h := h.of_pm (joinHeld_pm ..)
  close _ _ h := h.of_pm (reachDisabled_pm ..)
  halt _ _ _ h := h.of_pm (haltPoint_pm ..)
  wait _ _ h := h.of_pm rfl
  grant p b x s h := by
    obtain ⟨more, hmore⟩ := h
    refine ⟨more ++ [b].filter fun c => decide ((grantedBuffer s p x c).state = .staging), ?_⟩
    rw [grant_pm, hmore, ← List.append_assoc]
  job s h := by
    refine h.of_pm ?_
    obtain ⟨more, hmore⟩ := h
    unfold takeJob
    rw [if_neg (by rw [hmore]; exact hm)]

theorem haltTaken_pm (s : State) : (haltTaken s).pm = s.pm := by
  unfold haltTaken
  dsimp only
  repeat' split
  all_goals rfl

theorem ChoiceOnly.pm_eq {s t : State} (h : ChoiceOnly s t) : t.pm = s.pm := by
  have hbegins : ∀ p f, Begins s p f t → t.pm = s.pm := by
    rintro p f ⟨x, b, n, -, ht, -⟩
    have hpm := congrArg State.pm ht
    exact hpm
  rcases h.choice with rfl | ⟨-, p, before, after, -, -, ⟨-, k⟩ | ⟨-, -, -, -, -, -, -, -, -, k, -⟩⟩
  · rfl
  · exact hbegins _ _ k
  · exact hbegins _ _ k

theorem faultExchange_stagesJoined {m : Mover} (hm : m.state ≠ .idle) (x : SlotId) {s : State}
    (h : StagesJoined m s) : StagesJoined m (faultExchange x s) := by
  unfold faultExchange
  split
  · split
    · exact h.of_pm rfl
    · exact (stagesJoined_closed hm).endWith _ _ _ h
  · exact (stagesJoined_closed hm).endWith _ _ _ h
  · exact h.of_pm rfl
  · exact h

theorem advanceOwner_stagesJoined {m : Mover} (hm : m.state ≠ .idle) (x : SlotId) {s : State}
    (h : StagesJoined m s) : StagesJoined m (advanceOwner x s) := by
  unfold advanceOwner
  split
  · exact (stagesJoined_closed hm).advancePoint _ _ h
  · exact h

theorem faultJob_stagesJoined (j : Job) (b : Burst) (c : FaultCause) (s : State) :
    StagesJoined (jobFaulted j b c s).pm (faultJob j b c s) := by
  have hm : (jobFaulted j b c s).pm.state ≠ .idle := nofun
  have hclosed := stagesJoined_closed hm
  have hstart : StagesJoined (jobFaulted j b c s).pm (countMemory j.slot j.moved (jobFaulted j b c s)) :=
    ⟨[], by rw [List.append_nil]; rfl⟩
  have hfreed := foldl_keeps (fun t i => freeBuffer i t) (fun t i ht => hclosed.free i t ht) (faultedBuffers j s) _ hstart
  have hraised := (faultExchange_stagesJoined hm j.slot hfreed).of_pm (t := raise .moverFault (faultExchange j.slot _)) rfl
  have hadvanced := advanceOwner_stagesJoined hm j.slot hraised
  rw [faultJob_eq, takeHaltRequests_eq]
  exact (hclosed.settle _ (hadvanced.of_pm (haltTaken_pm _))).of_pm (choose_only _).pm_eq

/-! ### The buffers and the exchange -/

theorem withoutJobsOf_eq (s : State) (x : SlotId) (q : List BufId) :
    withoutJobsOf s x q = q.filter fun i => decide ((s.buffer i).slot ≠ some x) := by
  unfold withoutJobsOf
  simp only [ne_eq, decide_not]

/-- Buffers of one exchange are freed one after the other. -/
theorem foldl_freeBuffer_eq {x : SlotId} {p : PointId} (bs : List BufId) :
    ∀ w : State, bs.Nodup → (∀ b ∈ bs, (w.buffer b).point = some p ∧ (w.buffer b).slot = some x) →
      bs.foldl (fun t b => freeBuffer b t) w = bs.foldl (fun t b => bufferFreed t b x p) w := by
  induction bs with
  | nil => exact fun _ _ _ => rfl
  | cons b bs ih =>
    intro w hnodup hgiven
    obtain ⟨hb, hbs⟩ := List.nodup_cons.mp hnodup
    obtain ⟨hpoint, hslot⟩ := hgiven b List.mem_cons_self
    rw [List.foldl_cons, List.foldl_cons, freeBuffer_eq hpoint hslot]
    refine ih _ hbs fun c hc => ?_
    rw [bufferFreed_buffer, if_neg fun (hbc : b = c) => hb (hbc ▸ hc)]
    exact hgiven c (List.mem_cons_of_mem _ hc)

/-- The buffers of the first exchange are freed: what the freeing leaves. -/
structure BuffersGone (p : PointId) (x : SlotId) (rest : List SlotId) (w t : State) : Prop where
  leads : Leads t p x rest
  slot : ∃ n, t.slot x = { w.slot x with jobs := n }
  events : t.eu = w.eu
  window : t.hw = w.hw
  line : t.le = w.le

theorem buffersGone {p : PointId} {x : SlotId} {rest : List SlotId} {w : State} (h : Leads w p x rest) (bs : List BufId) :
    BuffersGone p x rest w (bs.foldl (fun t b => bufferFreed t b x p) w) := by
  refine foldl_keeps _ (fun t b k => ?_) bs w ⟨h, ⟨_, rfl⟩, rfl, rfl, rfl⟩
  refine ⟨k.leads.bufferFreed b, ?_, k.events, k.window, k.line⟩
  obtain ⟨n, hn⟩ := k.slot
  refine ⟨(t.slot x).jobs - 1, (bufferFreed_slot ..).trans ((if_pos rfl).trans ?_)⟩
  rw [hn]

/-- An exchange that has ended, whatever buffer is staged for it, is followed. -/
theorem Leads.advancePoint_ended {s : State} {p : PointId} {x : SlotId} {rest : List SlotId} (h : Leads s p x rest)
    (st : Status) : advancePoint p (retired s x st) = ended s p x rest st := by
  have hw : ∀ y ∈ rest, Waits s p y ∨ s.slot y = Slot.free := fun y hy => .inl (h.behind y hy).2
  have hfollowed : ∀ u : State, u.cu.held = s.cu.held → (∀ y, u.slot y = s.slot y) → u.point p = s.point p →
      (∀ b, u.buffer b = s.buffer b) → advance false p rest (slotGone u p x rest) = slotFreed u p x rest :=
    fun u hh hs hp hb => advance_eq_followed false p rest _ (slotGone_queue ..) (by
      have hnot := h.notHeld
      rw [← hh] at hnot
      exact hnot) (waits_slotGone hw hs hp hb)
  unfold advancePoint
  rw [show (retired s x st).queue p = x :: rest from h.queue, advance, endPending_retired,
    retireFirst_retired false st h.queue h.notHeld]
  unfold ended
  dsimp only
  split
  · rfl
  · split
    · exact hfollowed s rfl (fun _ => rfl) rfl fun _ => rfl
    · split
      · exact hfollowed (recordPosted s p x st) rfl (fun _ => rfl) rfl fun _ => rfl
      · rw [joinHeld_eq]
        simp only [and_true]
        rfl

/-! ### The fault of the exchange (R46) -/

section

variable {w : State} {p : PointId} {x : SlotId} {rest : List SlotId} (h : Leads w p x rest)
include h

theorem Leads.faultExchange_marks (ha : (w.slot x).state = .active) (hi : inFlight w x = true) :
    advanceOwner x (raise .moverFault (faultExchange x w)) =
      (raise .moverFault w).setSlot x { w.slot x with faultMark := true } := by
  have hfault : faultExchange x w = w.setSlot x { w.slot x with faultMark := true } := by
    unfold faultExchange
    rw [ha]
    exact if_pos hi
  generalize hv : raise .moverFault (faultExchange x w) = v
  have hslot : v.slot x = { w.slot x with faultMark := true } := by
    rw [← hv, hfault]
    exact State.slot_setSlot_same ..
  have hqueue : v.queue p = x :: rest := by
    rw [← hv, hfault]
    exact h.queue
  have hstays : Stays v p x := by
    refine .inr (.inl ⟨by rw [hslot]; exact ha, .inl ?_⟩)
    rw [← hv, hfault]
    exact hi
  have howner : advanceOwner x v = v := by
    unfold advanceOwner advancePoint
    rw [hslot]
    dsimp only
    rw [h.point]
    dsimp only
    rw [hqueue, hstays.advance_eq]
  rw [howner, ← hv, hfault]
  rfl

/-- The exchange has ended with MOVER_FAULT, and its queue is followed. -/
theorem Leads.faultExchange_retired (hf : faultExchange x w = retired w x .moverFault) :
    advanceOwner x (raise .moverFault (faultExchange x w)) = ended (raise .moverFault w) p x rest .moverFault := by
  have hraised : Leads (raise .moverFault w) p x rest := h.of_frame rfl rfl rfl rfl
  rw [← hraised.advancePoint_ended, hf]
  unfold advanceOwner
  have hpoint : ((raise .moverFault (retired w x .moverFault)).slot x).point = some p := by
    have hslot : (raise .moverFault (retired w x .moverFault)).slot x = _ := retired_slot w x .moverFault
    rw [hslot]
    exact h.point
  rw [hpoint]
  rfl

theorem Leads.faultExchange_active (ha : (w.slot x).state = .active) (hi : inFlight w x = false)
    (hs : ∀ b, (w.point p).staged = some b → (w.buffer b).state ≠ .staged) :
    faultExchange x w = retired w x .moverFault := by
  have hstaged : Machine.stagedFreed w x p = w := by
    unfold Machine.stagedFreed
    split
    · next b hb => exact if_neg fun k => hs b hb k.1
    · rfl
  unfold faultExchange
  rw [ha]
  dsimp only
  rw [if_neg (ne_true_of_eq_false hi), h.endWith_eq, hstaged]

omit h in
theorem faultExchange_retiring (hg : (w.slot x).state = .retiring) : faultExchange x w = retired w x .moverFault := by
  have hslot : ({ w.slot x with state := .retiring, status := some .moverFault } : Slot) =
      { w.slot x with status := some .moverFault } := by rw [← hg]
  unfold faultExchange retired
  rw [hslot, hg]
  rfl

end

theorem exec_burstError (s : State) : exec .burstError s = execBurstError s := by rfl

theorem exec_burstRetry (s : State) : exec .burstRetry s = execBurstRetry s := by rfl

/-- An error answer, or a retry at the limit, faults the job of the burst in progress (R144, R148). -/
theorem exec_faults {j : Job} {b : Burst} {c : Instr} {cause : FaultCause} {s : State} (hburst : s.pm.state = .burst)
    (hjob : s.pm.job = some j) (hb : s.pm.burst = some b) (hreset : s.hw.access.resetPending = false)
    (hc : (c, cause) ∈ [(Instr.burstError, FaultCause.busError), (.burstRetry, .retryExhausted)])
    (hretry : c = .burstRetry → s.hw.config.busRetryLimit ≤ j.retries + 1) :
    exec c s = .next (faultJob j b cause s) := by
  have hanswer : ∀ f : Job → Burst → State → Out, onAnswer f s = f j b s := fun f => by
    unfold onAnswer
    rw [if_pos hburst, if_neg (ne_true_of_eq_false hreset), hjob, hb]
  rcases List.mem_pair.mp hc with hpair | hpair <;> obtain ⟨rfl, rfl⟩ := Prod.mk.inj hpair
  · rw [exec_burstError, execBurstError, hanswer]
  · rw [exec_burstRetry, execBurstRetry, hanswer, answerRetry, if_pos (hretry rfl)]

/-- Settles O54: what answers is `faultJob`; the mover by `faultJob_stagesJoined`, the exchange by its state. -/
theorem busErrorsFaultTheJob : Obligations.BusErrorsFaultTheJob := by
  unfold Obligations.BusErrorsFaultTheJob
  intro j b c cause s hburst hjob hb hreset hc hretry
  have hexec := exec_faults hburst hjob hb hreset hc hretry
  have hmover : (jobFaulted j b cause s).pm = { s.pm with
      state := .faulted, job := none, burst := none
      faultRecord := some { kind := j.kind, buffer := j.buffer, slot := j.slot, addr := b.addr, cause := cause }
      drainQueue := s.pm.drainQueue.filter fun i => decide ((s.buffer i).slot ≠ some j.slot)
      stageQueue := s.pm.stageQueue.filter fun i => decide ((s.buffer i).slot ≠ some j.slot) } := by
    rw [← withoutJobsOf_eq, ← withoutJobsOf_eq]
    rfl
  refine ⟨?_, fun p rest hleads hslot hpoint => ?_⟩
  · obtain ⟨more, hmore⟩ := faultJob_stagesJoined j b cause s
    rw [hmover] at hmore
    exact ⟨_, more, hexec, hmore⟩
  · intro others hnew hnodup hothers e faulted freed u
    have hfaulted : countMemory j.slot j.moved (jobFaulted j b cause s) = faulted := by
      simp only [faulted, ← hmover]
      rfl
    have hbuffers : faultedBuffers j s = j.buffer :: others := congrArg _ (List.filter_append ..).symm
    have hgiven : ∀ i ∈ j.buffer :: others, (faulted.buffer i).point = some p ∧
        (faulted.buffer i).slot = some j.slot := by
      intro i hi
      rcases List.mem_cons.mp hi with rfl | hi
      · exact ⟨hpoint, hslot⟩
      · exact ⟨hothers i hi, of_decide_eq_true (List.mem_filter.mp hi).2⟩
    have hlead : Leads faulted p j.slot rest :=
      Leads.of_frame (s := s.setSlot j.slot { e with bytesMemory := e.bytesMemory + j.moved }) (hleads.setSlot rfl) rfl rfl
        rfl rfl
    have hgone := buffersGone hlead (j.buffer :: others)
    have hfold := foldl_freeBuffer_eq _ faulted (List.nodup_cons.mpr ⟨hnew, hnodup⟩) hgiven
    have hjobEnds : faultJob j b cause s = choose (settle (haltTaken
        (advanceOwner j.slot (raise .moverFault (faultExchange j.slot freed))))) := by
      rw [faultJob_eq, takeHaltRequests_eq, hbuffers, hfaulted, hfold]
    have hevents : freed.eu.take freed.hw.config .moverFault = s.eu.take s.hw.config .moverFault := by
      rw [hgone.events, hgone.window]
      rfl
    have hu : raise .moverFault freed = u := congrArg (fun v => { freed with eu := v }) hevents
    have hserves : ∀ v, advanceOwner j.slot (raise .moverFault (faultExchange j.slot freed)) = v →
        ServiceOnly (haltTaken v) (faultJob j b cause s) := fun v hv => by
      rw [hjobEnds, hv]
      exact choose_settle_only _
    obtain ⟨n, hn⟩ := hgone.slot
    have hstate : (freed.slot j.slot).state = e.state := by
      have hcounted : faulted.slot j.slot = { e with bytesMemory := e.bytesMemory + j.moved } :=
        State.slot_setSlot_same s j.slot { e with bytesMemory := e.bytesMemory + j.moved }
      rw [hn, hcounted]
    have hflight : inFlight freed j.slot = inFlight s j.slot := by
      unfold inFlight
      rw [hgone.line]
      rfl
    refine ⟨_, hexec, fun ha hi => ?_, fun ha hi hs => ?_, fun hg => ?_⟩
    · have key := hgone.leads.faultExchange_marks (hstate.trans ha) (hflight.trans hi)
      rw [hu] at key
      exact hserves _ key
    · have key := hgone.leads.faultExchange_retired
        (hgone.leads.faultExchange_active (hstate.trans ha) (hflight.trans hi) hs)
      rw [hu] at key
      exact hserves _ key
    · have key := hgone.leads.faultExchange_retired (faultExchange_retiring (hstate.trans hg))
      rw [hu] at key
      exact hserves _ key

end Sys2Proof.Machine
end

section
/-! SUPPORT. The scheduler's agreement with the points (O59): what it reads of a state (`ScheduleStands`), and the three changes
that move a point into or out of the lists or change the parameters (R8, R10, R20, R61, R63, R66, R69, R70, R122). -/

namespace Sys2Proof.Machine

set_option Elab.async false

/-! ### The rotation pointer (R70) -/

/-- The rotation pointer names a member of the ring, and is absent only over an empty ring (R70). -/
def PointerAgrees (ring : List PointId) (pointer : Option PointId) : Prop :=
  (pointer = none ↔ ring = []) ∧ ∀ p, pointer = some p → p ∈ ring

theorem pointerAgrees_some {ring : List PointId} {p : PointId} (h : p ∈ ring) : PointerAgrees ring (some p) :=
  ⟨iff_of_false nofun (List.ne_nil_of_mem h), fun _ hq => Option.some.inj hq ▸ h⟩

/-- The successor of a member is another member, unless there is none (R69, R70). -/
theorem successor_cases {ring : List PointId} {p : PointId} (hn : ring.Nodup) (hp : p ∈ ring) :
    (successor ring p = some p ∧ ring.erase p = []) ∨ ∃ q ∈ ring.erase p, q ≠ p ∧ successor ring p = some q := by
  obtain ⟨a, c, rfl⟩ := List.append_of_mem hp
  have hsucc := successor_rotation (before := []) (after := c ++ a) hn rfl
  have hpa : p ∉ a := fun h => (List.nodup_append.mp hn).2.2 p h p List.mem_cons_self rfl
  have herase : (a ++ p :: c).erase p = a ++ c := by rw [List.erase_append_right _ hpa, List.erase_cons_head]
  rw [hsucc]
  cases hca : c ++ a with
  | nil =>
    obtain ⟨rfl, rfl⟩ := List.append_eq_nil_iff.mp hca
    exact .inl ⟨rfl, herase⟩
  | cons q l =>
    have hq : q ∈ (a ++ p :: c).erase p := by
      rw [herase, List.mem_append, or_comm, ← List.mem_append, hca]
      exact List.mem_cons_self
    exact .inr ⟨q, hq, (hn.mem_erase_iff.mp hq).1, rfl⟩

/-- A member chosen moves the pointer to its successor (R70). -/
theorem pointerAgrees_successor {ring : List PointId} {p : PointId} (hn : ring.Nodup) (hp : p ∈ ring) :
    PointerAgrees ring (successor ring p) := by
  obtain ⟨h, -⟩ | ⟨q, hq, -, h⟩ := successor_cases hn hp
  · rw [h]
    exact pointerAgrees_some hp
  · rw [h]
    exact pointerAgrees_some (List.mem_of_mem_erase hq)

/-- A member that joins an empty ring takes the pointer (R8, R70). -/
theorem PointerAgrees.join {ring : List PointId} {pointer : Option PointId} (h : PointerAgrees ring pointer) (p : PointId) :
    PointerAgrees (ring ++ [p]) (if ring = [] then some p else pointer) := by
  obtain ⟨hnone, hmem⟩ := h
  split
  · exact pointerAgrees_some (List.mem_append_right _ List.mem_cons_self)
  · next hring =>
    obtain ⟨r, hr⟩ := Option.ne_none_iff_exists'.mp (mt hnone.mp hring)
    rw [hr]
    exact pointerAgrees_some (List.mem_append_left _ (hmem r hr))

/-- A member that leaves gives the pointer on to its successor (R20, R70). -/
theorem PointerAgrees.leave {ring : List PointId} {pointer : Option PointId} (h : PointerAgrees ring pointer)
    (hn : ring.Nodup) {p : PointId} (hp : p ∈ ring) : PointerAgrees (ring.erase p)
      (if pointer = some p then (if successor ring p = some p then none else successor ring p) else pointer) := by
  obtain ⟨hnone, hmem⟩ := h
  split
  · obtain ⟨hs, he⟩ | ⟨q, hq, hqp, hs⟩ := successor_cases hn hp
    · rw [if_pos hs, he]
      exact ⟨iff_of_true rfl rfl, nofun⟩
    · rw [if_neg (fun k => hqp (Option.some.inj (hs.symm.trans k))), hs]
      exact pointerAgrees_some hq
  · next hne =>
    obtain ⟨r, hr⟩ := Option.ne_none_iff_exists'.mp (mt hnone.mp (List.ne_nil_of_mem hp))
    rw [hr]
    exact pointerAgrees_some (hn.mem_erase_iff.mpr ⟨fun k => hne (k ▸ hr), hmem r hr⟩)

/-! ### The load table (R59, R62, R63) -/

/-- What a point of a configuration adds to the load of a residue (R63). -/
def loadShare (q : SegParams) (r : Residue) (c : PointConfig) : Nat :=
  if r.val % c.period = c.phase then 152 + 10 * c.maxPayload.bytes + q.replyTimeout else 0

/-- The load that the points of the periodic list make at a residue (R63). -/
def listLoad (s : State) (l : List PointId) (r : Residue) : Nat :=
  (l.map fun p => loadShare s.sc.params r (s.point p).cfg).sum

theorem listLoad_congr {s t : State} {l : List PointId} (hq : t.sc.params = s.sc.params)
    (hc : ∀ p ∈ l, (t.point p).cfg = (s.point p).cfg) (r : Residue) : listLoad t l r = listLoad s l r := by
  unfold listLoad
  rw [List.map_congr_left fun p hp => by rw [hq, hc p hp]]

/-- A point inserted in the list adds its share, wherever it stands. -/
theorem listLoad_insert (s : State) (l : List PointId) (n : Nat) (p : PointId) (r : Residue) :
    listLoad s (l.take n ++ p :: l.drop n) r = listLoad s l r + loadShare s.sc.params r (s.point p).cfg := by
  have hl : listLoad s l r = listLoad s (l.take n ++ l.drop n) r := by rw [List.take_append_drop]
  rw [hl]
  simp only [listLoad, List.map_append, List.map_cons, List.sum_append, List.sum_cons]
  omega

/-- A member erased from the list takes its share away. -/
theorem listLoad_erase (s : State) {l : List PointId} {p : PointId} (hp : p ∈ l) (r : Residue) :
    listLoad s (l.erase p) r = listLoad s l r - loadShare s.sc.params r (s.point p).cfg :=
  Nat.eq_sub_of_add_eq' (List.sum_map_erase (fun p => loadShare s.sc.params r (s.point p).cfg) hp)

/-! ### What the agreement reads -/

/-- The point is enabled, of a kind: it belongs in the list of that kind (R61, R69). -/
def Placed (s : State) (p : PointId) (k : Kind) : Prop := (s.point p).state ≠ .disabled ∧ (s.point p).cfg.kind = k

/-- The agreement of the scheduler with the points, field by field (`scheduled_iff`). -/
structure Scheduled (s : State) : Prop where
  periodicNodup : s.fs.periodic.Nodup
  atMost : s.fs.periodic.length ≤ 32
  ringNodup : s.fs.ring.Nodup
  periodic : ∀ p, p ∈ s.fs.periodic ↔ Placed s p .periodic
  ring : ∀ p, p ∈ s.fs.ring ↔ Placed s p .async
  due : s.fs.due.Sublist s.fs.periodic
  pointer : PointerAgrees s.fs.ring s.fs.pointer
  load : ∀ r : Residue, s.fs.load[r] = listLoad s s.fs.periodic r
  limit : ∀ r : Residue, s.fs.load[r] ≤ admissionLimit s.sc.params

theorem scheduled_iff (s : State) : Scheduled s ↔ SchedulerAgrees s := by
  constructor
  · intro h
    exact ⟨h.periodicNodup, h.atMost, h.ringNodup, fun p => ⟨h.periodic p, h.ring p⟩, h.due, h.pointer.1, h.pointer.2,
      fun r => ⟨h.load r, h.limit r⟩⟩
  · rintro ⟨hperiodic, hlen, hring, hmem, hdue, hnone, hsome, hload⟩
    exact ⟨hperiodic, hlen, hring, fun p => (hmem p).1, fun p => (hmem p).2, hdue, ⟨hnone, hsome⟩, fun r => (hload r).1,
      fun r => (hload r).2⟩

/-- The record of a point is as the scheduler's lists know it: DISABLED as before, and with its configuration if it is not. -/
def PlaceStands (v w : Point) : Prop :=
  (w.state = .disabled ↔ v.state = .disabled) ∧ (v.state ≠ .disabled → w.cfg = v.cfg)

theorem PlaceStands.refl (v : Point) : PlaceStands v v := ⟨.rfl, fun _ => rfl⟩

theorem PlaceStands.trans {v w z : Point} (h : PlaceStands v w) (k : PlaceStands w z) : PlaceStands v z :=
  ⟨k.1.trans h.1, fun hv => (k.2 (mt h.1.mp hv)).trans (h.2 hv)⟩

theorem PlaceStands.of_eq {v w : Point} (hs : w.state = v.state) (hc : w.cfg = v.cfg) : PlaceStands v w :=
  ⟨by rw [hs], fun _ => hc⟩

/-- A record written out, with the state and the configuration it had. -/
theorem PlaceStands.of_record {v w z : Point} (hw : w = z) (hs : z.state = v.state := by rfl)
    (hc : z.cfg = v.cfg := by rfl) : PlaceStands v w := hw ▸ .of_eq hs hc

/-- The periodic list, the load table, the async ring, the parameters and the places of the points stand, and the due list
and the rotation pointer still agree with the lists if they did. -/
structure ScheduleStands (s t : State) : Prop where
  points : ∀ p, PlaceStands (s.point p) (t.point p)
  params : t.sc.params = s.sc.params
  periodic : t.fs.periodic = s.fs.periodic
  load : t.fs.load = s.fs.load
  ring : t.fs.ring = s.fs.ring
  due : s.fs.due.Sublist s.fs.periodic → t.fs.due.Sublist s.fs.periodic
  pointer : s.fs.ring.Nodup → PointerAgrees s.fs.ring s.fs.pointer → PointerAgrees s.fs.ring t.fs.pointer

namespace ScheduleStands

variable {s t u : State}

theorem refl (s : State) : ScheduleStands s s := ⟨fun _ => .refl _, rfl, rfl, rfl, rfl, id, fun _ => id⟩

theorem trans (h : ScheduleStands s t) (k : ScheduleStands t u) : ScheduleStands s u where
  points p := (h.points p).trans (k.points p)
  params := k.params.trans h.params
  periodic := k.periodic.trans h.periodic
  load := k.load.trans h.load
  ring := k.ring.trans h.ring
  due hd := h.periodic ▸ k.due (h.periodic ▸ h.due hd)
  pointer hn hp := h.ring ▸ k.pointer (h.ring ▸ hn) (h.ring ▸ h.pointer hn hp)

/-- The scheduler's own fields and the parameters stand. -/
theorem of_fs (hf : t.fs = s.fs) (hq : t.sc.params = s.sc.params) (hp : ∀ p, PlaceStands (s.point p) (t.point p)) :
    ScheduleStands s t := by
  refine ⟨hp, hq, ?_, ?_, ?_, ?_, ?_⟩ <;> rw [hf]
  · exact id
  · exact fun _ => id

/-- The points stand, and of the scheduler no more changes than the timer, the frame number and the due list. -/
theorem of_pt (hpt : t.pt = s.pt := by rfl) (hq : t.sc.params = s.sc.params := by rfl)
    (hf : ∃ run n f d, t.fs = { s.fs with running := run, elapsed := n, frame := f, due := d } ∧
      (d = s.fs.due ∨ d = []) := by exact ⟨_, _, _, _, rfl, .inl rfl⟩) : ScheduleStands s t := by
  obtain ⟨run, n, f, d, hf, hd⟩ := hf
  refine ⟨fun p => ?_, hq, ?_, ?_, ?_, fun h => ?_, fun _ h => ?_⟩
  · unfold State.point
    rw [hpt]
    exact .refl _
  · rw [hf]
  · rw [hf]
  · rw [hf]
  · rw [hf]
    obtain rfl | rfl := hd
    · exact h
    · exact List.nil_sublist _
  · rw [hf]
    exact h

theorem setPoint {p : PointId} {v : Point} (h : PlaceStands (s.point p) v) : ScheduleStands s (s.setPoint p v) :=
  .of_fs rfl rfl fun q => by
    rw [State.point_setPoint]
    split
    · next hpq => exact hpq ▸ h
    · exact .refl _

theorem placed (k : ScheduleStands s t) (p : PointId) (d : Kind) : Placed t p d ↔ Placed s p d := by
  obtain ⟨hstate, hcfg⟩ := k.points p
  unfold Placed
  rw [ne_eq, hstate]
  exact and_congr_right fun hv => by rw [hcfg hv]

end ScheduleStands

/-- The agreement reads no more than what stands. -/
theorem Scheduled.stands {s t : State} (h : Scheduled s) (k : ScheduleStands s t) : Scheduled t where
  periodicNodup := k.periodic ▸ h.periodicNodup
  atMost := k.periodic ▸ h.atMost
  ringNodup := k.ring ▸ h.ringNodup
  periodic p := by rw [k.periodic, h.periodic, k.placed]
  ring p := by rw [k.ring, h.ring, k.placed]
  due := k.periodic ▸ k.due h.due
  pointer := k.ring ▸ k.pointer h.ringNodup h.pointer
  load r := by
    have hcfg : ∀ p ∈ s.fs.periodic, (t.point p).cfg = (s.point p).cfg := fun p hp =>
      (k.points p).2 ((h.periodic p).mp hp).1
    rw [k.load, k.periodic, h.load, listLoad_congr k.params hcfg]
  limit r := by
    rw [k.load, k.params]
    exact h.limit r

/-! ### A point reaches DISABLED (R20) -/

theorem pointClosed_cfg (s : State) (p q : PointId) : ((pointClosed s p).point q).cfg = (s.point q).cfg := by
  change ((s.setPoint p _).point q).cfg = _
  rw [State.point_setPoint]
  split
  · next hpq => rw [hpq]
  · rfl

theorem pointClosed_placed (s : State) (p q : PointId) (k : Kind) :
    Placed (pointClosed s p) q k ↔ q ≠ p ∧ Placed s q k := by
  unfold Placed
  rw [pointClosed_cfg]
  change ((s.setPoint p _).point q).state ≠ _ ∧ _ ↔ _
  rw [State.point_setPoint]
  split
  · next hpq => exact iff_of_false (fun h => h.1 rfl) (fun h => h.1 hpq.symm)
  · next hpq => rw [and_iff_right (Ne.symm hpq)]

theorem listLoad_pointClosed (s : State) (p : PointId) (l : List PointId) (r : Residue) :
    listLoad (pointClosed s p) l r = listLoad s l r := listLoad_congr (by rfl) (fun q _ => pointClosed_cfg s p q) r

theorem pointClosed_fs_async {s : State} {p : PointId} (hk : (s.point p).cfg.kind = .async) : (pointClosed s p).fs =
    { s.fs with
      ring := s.fs.ring.erase p
      pointer := if s.fs.pointer = some p then
        (if successor s.fs.ring p = some p then none else successor s.fs.ring p) else s.fs.pointer } := by
  unfold pointClosed
  dsimp only
  rw [hk]

theorem pointClosed_fs_periodic {s : State} {p : PointId} (hk : (s.point p).cfg.kind = .periodic) : (pointClosed s p).fs =
    { s.fs with
      periodic := s.fs.periodic.erase p
      load := Vector.ofFn fun r => s.fs.load[r] - loadShare s.sc.params r (s.point p).cfg
      due := s.fs.due.erase p } := by
  unfold pointClosed
  dsimp only
  rw [hk]
  rfl

/-- A list without a point is as it was once the point is out of it. -/
theorem mem_iff_of_not_mem {l : List PointId} {p : PointId} (hp : p ∉ l) (q : PointId) : q ∈ l ↔ q ≠ p ∧ q ∈ l :=
  Iff.symm (and_iff_right_of_imp fun hq (hqp : q = p) => hp (hqp ▸ hq))

theorem Scheduled.pointClosed_async {s : State} (h : Scheduled s) {p : PointId} (hp : Placed s p .async) :
    Scheduled (pointClosed s p) := by
  have hnot : p ∉ s.fs.periodic := fun k => nomatch hp.2.symm.trans ((h.periodic p).mp k).2
  have hpointer := h.pointer.leave h.ringNodup ((h.ring p).mpr hp)
  constructor <;> rw [pointClosed_fs_async hp.2]
  case periodicNodup => exact h.periodicNodup
  case atMost => exact h.atMost
  case ringNodup => exact h.ringNodup.erase p
  case periodic =>
    intro q
    rw [pointClosed_placed, ← h.periodic]
    exact mem_iff_of_not_mem hnot q
  case ring =>
    intro q
    rw [pointClosed_placed, ← h.ring]
    exact h.ringNodup.mem_erase_iff
  case due => exact h.due
  case pointer => exact hpointer
  case load =>
    intro r
    rw [listLoad_pointClosed]
    exact h.load r
  case limit => exact h.limit

theorem Scheduled.pointClosed_periodic {s : State} (h : Scheduled s) {p : PointId} (hp : Placed s p .periodic) :
    Scheduled (pointClosed s p) := by
  have hnot : p ∉ s.fs.ring := fun k => nomatch hp.2.symm.trans ((h.ring p).mp k).2
  constructor <;> rw [pointClosed_fs_periodic hp.2]
  case periodicNodup => exact h.periodicNodup.erase p
  case atMost => exact le_trans List.length_erase_le h.atMost
  case ringNodup => exact h.ringNodup
  case periodic =>
    intro q
    rw [pointClosed_placed, ← h.periodic]
    exact h.periodicNodup.mem_erase_iff
  case ring =>
    intro q
    rw [pointClosed_placed, ← h.ring]
    exact mem_iff_of_not_mem hnot q
  case due => exact h.due.erase p
  case pointer => exact h.pointer
  case load =>
    intro r
    rw [listLoad_pointClosed, listLoad_erase s ((h.periodic p).mpr hp), ← h.load]
    exact Vector.getElem_ofFn ..
  case limit =>
    intro r
    exact (Vector.getElem_ofFn ..).trans_le (le_trans (Nat.sub_le _ _) (h.limit r))

/-- A point that is not DISABLED leaves the list it is in, with its load. -/
theorem Scheduled.reachDisabled {s : State} (h : Scheduled s) {p : PointId} (hp : (s.point p).state ≠ .disabled) :
    Scheduled (reachDisabled p s) := by
  rw [reachDisabled_eq]
  cases hk : (s.point p).cfg.kind with
  | async => exact h.pointClosed_async ⟨hp, hk⟩
  | periodic => exact h.pointClosed_periodic ⟨hp, hk⟩

/-! ### ENABLE POINT and SET SEGMENT PARAMETERS (R8, R10, R122) -/

section

variable (n : Nat) (p : PointId) (s : State)

theorem admitPoint_cfg (q : PointId) : ((admitPoint n p s).point q).cfg = (s.point q).cfg := by
  rw [admitPoint_point]
  split
  · next hpq => rw [← hpq]
  · rfl

theorem admitPoint_placed (q : PointId) (k : Kind) :
    Placed (admitPoint n p s) q k ↔ (q = p ∧ (s.point p).cfg.kind = k) ∨ (q ≠ p ∧ Placed s q k) := by
  unfold Placed
  rw [admitPoint_cfg, admitPoint_point]
  split
  · next hpq =>
    subst hpq
    simp
  · next hpq => simp [Ne.symm hpq]

theorem listLoad_admitPoint (l : List PointId) (r : Residue) : listLoad (admitPoint n p s) l r = listLoad s l r :=
  listLoad_congr (by rw [admitPoint_sc]) (fun q _ => admitPoint_cfg n p s q) r

end

/-- The entry of a residue with a new point: its share is added where it is due (R63). -/
theorem loadShare_added (q : SegParams) (c : PointConfig) (r : Residue) (m : Nat) :
    (if dueAt c r.val then m + cost q c else m) = m + loadShare q r c := by
  unfold loadShare dueAt cost
  by_cases h : r.val % c.period = c.phase
  · rw [if_pos h, if_pos (decide_eq_true h)]
  · rw [if_neg h, if_neg (by simpa using h)]
    rfl

section

variable {s : State} (h : Scheduled s) {p : PointId} (n : Nat) (hp : (s.point p).state = .disabled)
include h hp

/-- A DISABLED point is in neither list. -/
theorem Scheduled.not_mem : p ∉ s.fs.periodic ∧ p ∉ s.fs.ring :=
  ⟨fun k => ((h.periodic p).mp k).1 hp, fun k => ((h.ring p).mp k).1 hp⟩

/-- An ASYNC point joins the tail of the ring (R8). -/
theorem Scheduled.admitPoint_async (hk : (s.point p).cfg.kind = .async) : Scheduled (admitPoint n p s) := by
  obtain ⟨hout, hnot⟩ := h.not_mem hp
  have hfs : (admitPoint n p s).fs = { s.fs with
      ring := s.fs.ring ++ [p], pointer := if s.fs.ring = [] then some p else s.fs.pointer } := by
    rw [Machine.admitPoint_async hk]
  constructor <;> rw [hfs]
  case periodicNodup => exact h.periodicNodup
  case atMost => exact h.atMost
  case ringNodup => exact List.concat_eq_append ▸ h.ringNodup.concat hnot
  case periodic =>
    intro q
    rw [admitPoint_placed, hk, or_iff_right (fun k => nomatch k.2), ← h.periodic]
    exact mem_iff_of_not_mem hout q
  case ring =>
    intro q
    rw [admitPoint_placed, and_iff_left hk, ← h.ring, ← mem_iff_of_not_mem hnot, or_comm, List.mem_append,
      List.mem_singleton]
  case due => exact h.due
  case pointer => exact h.pointer.join p
  case load =>
    intro r
    rw [listLoad_admitPoint]
    exact h.load r
  case limit =>
    intro r
    rw [admitPoint_sc]
    exact h.limit r

/-- A PERIODIC point that passes the checks of R10 is inserted at its position, with its cost in the load table. -/
theorem Scheduled.admitPoint_periodic (hk : (s.point p).cfg.kind = .periodic) (hroom : s.fs.periodic.length < 32)
    (hfit : admitted s (s.point p).cfg = true) : Scheduled (admitPoint n p s) := by
  obtain ⟨hout, hnot⟩ := h.not_mem hp
  have hfs : (admitPoint n p s).fs = { s.fs with
      periodic := s.fs.periodic.take n ++ p :: s.fs.periodic.drop n
      load := Vector.ofFn fun r : Residue => if dueAt (s.point p).cfg r.val then
        s.fs.load[r] + cost s.sc.params (s.point p).cfg else s.fs.load[r] } := by
    rw [Machine.admitPoint_periodic hk]
  have hperm : (s.fs.periodic.take n ++ p :: s.fs.periodic.drop n).Perm (p :: s.fs.periodic) := by
    simpa only [List.take_append_drop] using
      List.perm_middle (a := p) (l₁ := s.fs.periodic.take n) (l₂ := s.fs.periodic.drop n)
  have hsub : s.fs.periodic.Sublist (s.fs.periodic.take n ++ p :: s.fs.periodic.drop n) := by
    simpa only [List.take_append_drop] using
      (List.sublist_cons_self p (s.fs.periodic.drop n)).append_left (s.fs.periodic.take n)
  constructor <;> rw [hfs]
  case periodicNodup => exact hperm.nodup_iff.mpr (List.nodup_cons.mpr ⟨hout, h.periodicNodup⟩)
  case atMost => exact hperm.length_eq ▸ hroom
  case ringNodup => exact h.ringNodup
  case periodic =>
    intro q
    rw [admitPoint_placed, and_iff_left hk, ← h.periodic, ← mem_iff_of_not_mem hout, hperm.mem_iff, List.mem_cons]
  case ring =>
    intro q
    rw [admitPoint_placed, hk, or_iff_right (fun k => nomatch k.2), ← h.ring]
    exact mem_iff_of_not_mem hnot q
  case due => exact h.due.trans hsub
  case pointer => exact h.pointer
  case load =>
    intro r
    rw [listLoad_admitPoint, listLoad_insert, ← h.load]
    exact (Vector.getElem_ofFn ..).trans (loadShare_added ..)
  case limit =>
    intro r
    rw [admitPoint_sc]
    refine (Vector.getElem_ofFn ..).trans_le ?_
    split
    · next hr => exact (admitted_iff s _).mp hfit r (of_decide_eq_true hr)
    · exact h.limit r

end

/-- With no PERIODIC point enabled the load table is 0 everywhere, and the parameters may change (R122). -/
theorem Scheduled.setParams {s : State} (h : Scheduled s) (hl : s.fs.periodic = []) (q : SegParams) :
    Scheduled { s with sc := { s.sc with params := q } } := by
  have hzero : ∀ r : Residue, s.fs.load[r] = 0 := fun r => by
    rw [h.load, hl]
    rfl
  refine ⟨h.periodicNodup, h.atMost, h.ringNodup, h.periodic, h.ring, h.due, h.pointer, fun r => ?_, fun r => ?_⟩
  · dsimp only
    rw [hzero, hl]
    rfl
  · exact (hzero r).trans_le (Nat.zero_le _)

end Sys2Proof.Machine
end

section
/-! SUPPORT. The operations that leave the schedule as it stands (O59). -/

namespace Sys2Proof.Machine

set_option Elab.async false

/-! ### Changes of one record, and events -/

theorem scheduleStands_setSlot (s : State) (x : SlotId) (e : Slot) : ScheduleStands s (s.setSlot x e) := .of_pt

theorem scheduleStands_setBuffer (s : State) (b : BufId) (r : Buffer) : ScheduleStands s (s.setBuffer b r) := .of_pt

theorem scheduleStands_setStation (s : State) (i : StationId) (x : Station) : ScheduleStands s (s.setStation i x) := .of_pt

theorem scheduleStands_raise (c : Cause) (s : State) : ScheduleStands s (raise c s) := .of_pt

theorem scheduleStands_setElapsed (n : Nat) (s : State) : ScheduleStands s (s.setElapsed n) := .of_pt

theorem scheduleStands_writeResult (code : BitVec 8) (r : Reply) (s : State) : ScheduleStands s (writeResult code r s) := by
  rw [writeResult_blocks]
  exact .of_pt

/-! ### Service (R74, R75, R136) -/

/-- Staging gives points their staged buffers and reaches no part of the schedule. -/
theorem scheduleStands_settle (s : State) : ScheduleStands s (settle s) := by
  have h := settle_only s
  refine .of_fs h.fs_eq (by rw [h.blocks]) fun p => ?_
  obtain e | ⟨-, b, e, -⟩ := h.points p
  · rw [e]
    exact .refl _
  · rw [e]
    exact .of_eq rfl rfl

theorem Begins.stands {s t : State} {p : PointId} {f : FrameScheduler} (h : Begins s p f t) :
    ScheduleStands { s with fs := f } t := by
  obtain ⟨x, b, n, -, ht, -⟩ := h
  rw [ht]
  exact .of_pt

/-- A choice takes a due entry off the due list, or moves the rotation pointer to the successor of a member (R70, R74). -/
theorem scheduleStands_choose (s : State) : ScheduleStands s (choose s) := by
  obtain h | ⟨-, p, before, after, -, -, ⟨hdue, hb⟩ | ⟨-, r, front, back, -, hring, -, -, hrot, hb, hpointer⟩⟩ :=
    (choose_only s).choice
  · rw [h]
    exact .refl s
  · refine ScheduleStands.trans ?_ hb.stands
    refine ⟨fun _ => .refl _, rfl, rfl, rfl, rfl, fun h => ?_, fun _ => id⟩
    rw [hdue] at h
    exact ((List.sublist_cons_self p after).append_left before).trans h
  · refine ScheduleStands.trans ?_ hb.stands
    refine ⟨fun _ => .refl _, rfl, rfl, rfl, rfl, id, fun hn _ => ?_⟩
    have hmem : ∀ q, q = p ∨ q ∈ after ++ before → q ∈ s.fs.ring := fun q hq => by
      have hperm : (before ++ p :: after).Perm (p :: (after ++ before)) :=
        List.perm_middle.trans (List.perm_append_comm.cons p)
      rw [hring, List.perm_append_comm.mem_iff, hrot, hperm.mem_iff]
      exact List.mem_cons.mpr hq
    change PointerAgrees s.fs.ring (choose s).fs.pointer
    rw [hpointer hn]
    cases hl : after ++ before with
    | nil => exact pointerAgrees_some (hmem p (.inl rfl))
    | cons q l => exact pointerAgrees_some (hmem q (.inr (hl ▸ List.mem_cons_self)))

theorem Scheduled.served {s : State} (h : Scheduled s) : Scheduled (choose (settle s)) :=
  (h.stands (scheduleStands_settle s)).stands (scheduleStands_choose _)

/-! ### Endings (R40, R41, R44, R46, R47) -/

theorem scheduleStands_freeBuffer (b : BufId) (s : State) : ScheduleStands s (freeBuffer b s) := by
  refine .of_fs (freeBuffer_fs b s) (by rw [freeBuffer_sc]) fun p => ?_
  rw [freeBuffer_point]
  split
  · exact .of_eq rfl rfl
  · exact .refl _

theorem scheduleStands_endWith (x : SlotId) (st : Status) (s : State) : ScheduleStands s (endWith x st s) := by
  unfold endWith freeStaged
  split
  · exact (scheduleStands_setSlot s x _).trans (scheduleStands_freeBuffer _ _)
  · exact scheduleStands_setSlot s x _

theorem scheduleStands_endExchange (x : SlotId) (c : Status) (s : State) : ScheduleStands s (endExchange x c s) := by
  unfold endExchange
  split
  · exact scheduleStands_endWith ..
  · exact scheduleStands_endWith ..
  · exact .refl s
  · exact .refl s

theorem scheduleStands_endPending (x : SlotId) (s : State) : ScheduleStands s (endPending x s) := by
  have hend := fun c => scheduleStands_endExchange x c s
  unfold endPending
  dsimp only
  split
  · split
    · exact hend _
    · exact .refl s
  · split_ifs
    · exact .refl s
    · exact hend _
    · exact hend _
    · exact .refl s
  · exact .refl s
  · exact .refl s

theorem scheduleStands_flushFirst (x : SlotId) (s : State) : ScheduleStands s (flushFirst x s) := by
  have hend := scheduleStands_endWith x .flushed s
  unfold flushFirst
  dsimp only
  split
  · exact hend
  · split_ifs
    · exact .refl s
    · exact hend
    · exact scheduleStands_setSlot ..
  · exact .refl s
  · exact .refl s

theorem scheduleStands_freeSlot (x : SlotId) (p : PointId) (s : State) : ScheduleStands s (freeSlot x p s) :=
  .of_fs (freeSlot_fs ..) (by rw [freeSlot_sc]) fun _ => .refl _

theorem scheduleStands_postRecord (x : SlotId) (p : PointId) (s : State) : ScheduleStands s (postRecord x p s) :=
  .of_fs (postRecord_fs ..) (by rw [postRecord_sc]) fun _ => .refl _

theorem scheduleStands_joinHeld (w : Bool) (p : PointId) (s : State) : ScheduleStands s (joinHeld w p s) := by
  rw [joinHeld_eq]
  exact .of_pt

theorem scheduleStands_retireFirst (w : Bool) (p : PointId) (x : SlotId) (s : State) :
    ScheduleStands s (retireFirst w p x s).1 := by
  unfold retireFirst
  split_ifs
  · exact (scheduleStands_postRecord x p s).trans (scheduleStands_freeSlot x p _)
  · exact .refl s
  · exact scheduleStands_joinHeld w p s
  · exact scheduleStands_freeSlot x p s
  · exact .refl s

/-- Only a point that is enabled is halted (R14). -/
theorem scheduleStands_haltPoint (c : HaltCause) (p : PointId) (s : State) : ScheduleStands s (haltPoint c p s) := by
  rw [haltPoint_eq]
  unfold pointHalted
  split
  · next h =>
    have hstate : (s.point p).state ≠ .disabled := by rcases h with h | h <;> rw [h] <;> nofun
    exact (ScheduleStands.setPoint (v := { s.point p with state := .halted, haltCause := some c })
      ⟨iff_of_false nofun hstate, fun _ => rfl⟩).trans .of_pt
  · exact .refl s

theorem scheduleStands_faultExchange (x : SlotId) (s : State) : ScheduleStands s (faultExchange x s) := by
  unfold faultExchange
  split
  · split
    · exact scheduleStands_setSlot ..
    · exact scheduleStands_endWith ..
  · exact scheduleStands_endWith ..
  · exact scheduleStands_setSlot ..
  · exact .refl s

/-! ### The segment (R107 to R121) -/

theorem scheduleStands_takeHaltRequests (s : State) : ScheduleStands s (takeHaltRequests s) := by
  rw [takeHaltRequests_eq]
  unfold haltTaken
  dsimp only
  split_ifs
  · exact .refl s
  · exact .of_pt (hf := ⟨_, _, _, _, rfl, .inr rfl⟩)
  · exact .of_pt (hf := ⟨_, _, _, _, rfl, .inr rfl⟩)
  · exact .of_pt
  · exact .of_pt

theorem Scheduled.haltTaken {s : State} (h : Scheduled s) : Scheduled (takeHaltRequests s) :=
  h.stands (scheduleStands_takeHaltRequests s)

theorem scheduleStands_enterHalting (s : State) : ScheduleStands s (enterHalting s) := by
  unfold enterHalting
  dsimp only
  split <;> exact .of_pt (hf := ⟨_, _, _, _, rfl, .inr rfl⟩)

theorem scheduleStands_enterResettingCore (s : State) : ScheduleStands s (enterResettingCore s) := by
  refine .trans (t := { s with pt := (enterResettingCore s).pt })
    (.of_fs rfl rfl fun p => ?_) (.of_pt (hf := ⟨_, _, _, _, rfl, .inr rfl⟩))
  exact .of_record (enterResettingCore_point s p)

theorem scheduleStands_downEntered (s : State) : ScheduleStands s (downEntered s) := by
  refine .trans (t := { s with pt := (downEntered s).pt })
    (.of_fs rfl rfl fun p => ?_) (.of_pt (hf := ⟨_, _, _, _, rfl, .inr rfl⟩))
  exact .of_record (downEntered_point s p)

/-- The due list of a frame is taken from the periodic list (R66). -/
theorem scheduleStands_beginFrame (f : BitVec 12) (s : State) : ScheduleStands s (beginFrame f s) := by
  rw [beginFrame_eq]
  refine ⟨fun p => ?_, rfl, rfl, rfl, rfl, fun _ => ?_, fun _ => id⟩
  · exact .of_record (beginFrame_point f s p)
  · dsimp only
    split
    · exact List.filter_sublist
    · exact List.nil_sublist _

theorem scheduleStands_openAfterSignalling (f : BitVec 12) (s : State) : ScheduleStands s (openAfterSignalling f s) := by
  rw [openAfterSignalling_eq]
  have hsc : ScheduleStands s { s with sc := { s.sc with state := stateAfterSignalling s, haltPending := false } } := .of_pt
  exact ((hsc.trans (scheduleStands_beginFrame f _)).trans (scheduleStands_raise _ _)).trans (scheduleStands_raise _ _)

theorem scheduleStands_watchBit (s : State) (level : Bool) : ScheduleStands s (watchBit s level) := by
  unfold watchBit reportWake
  dsimp only
  split_ifs <;> exact .of_pt

/-! ### The census (R58, R68, R124, R125) -/

theorem scheduleStands_settleDue (s : State) : ScheduleStands s (settleDue s) := by
  have hmisses := foldl_keeps (P := ScheduleStands s) (fun t p => if countsAsMiss s p then chargeMiss p t else t)
    (fun t p ht => by
      split
      · exact (ht.trans (.setPoint (p := p) (v := { t.point p with missCount := min 255 ((t.point p).missCount + 1) })
          (.of_eq rfl rfl))).trans (scheduleStands_raise _ _)
      · exact ht) s.fs.due s (.refl s)
  exact hmisses.trans (.of_pt (hf := ⟨_, _, _, _, rfl, .inr rfl⟩))

theorem scheduleStands_censusAnswered (i : StationId) (s : State) : ScheduleStands s (censusAnswered i s) := by
  unfold censusAnswered
  dsimp only
  split <;> exact .of_pt

theorem scheduleStands_censusAlert (i : StationId) (s : State) : ScheduleStands s (censusAlert i s) := by
  unfold censusAlert
  split <;> exact .of_pt

theorem scheduleStands_censusClash (i : StationId) (s : State) : ScheduleStands s (censusClash i s) := by
  unfold censusClash
  split <;> exact .of_pt

/-! ### Outcomes and the mover -/

theorem scheduleStands_toggleSeq (p : PointId) (s : State) : ScheduleStands s (toggleSeq p s) :=
  .setPoint (v := { s.point p with seq := !(s.point p).seq }) (.of_eq rfl rfl)

theorem scheduleStands_deferPoint (p : PointId) (s : State) : ScheduleStands s (deferPoint p s) := by
  unfold deferPoint
  split
  · exact .setPoint (v := { s.point p with deferCount := (s.point p).cfg.deferInterval }) (.of_eq rfl rfl)
  · exact .refl s

theorem scheduleStands_takeJob (s : State) : ScheduleStands s (takeJob s) := by
  rw [takeJob_blocks]
  exact .of_pt

theorem scheduleStands_countMoved (j : Job) (n : Nat) (w : Vector Word 16) (s : State) :
    ScheduleStands s (countMoved j n w s) :=
  .of_pt (countMoved_pt ..) (by rw [countMoved_sc]) ⟨_, _, _, _, countMoved_fs .., .inl rfl⟩

theorem scheduleStands_nextBurst (s : State) : ScheduleStands s (nextBurst s) :=
  .of_pt (nextBurst_pt ..) (by rw [nextBurst_sc]) ⟨_, _, _, _, nextBurst_fs .., .inl rfl⟩

end Sys2Proof.Machine
end

section
/-! PROOF. Every step keeps the scheduler's lists, its rotation pointer and its load table in agreement with the points (R61,
R63, R66, R69, R70): the walks that can close a point, then each command. -/

namespace Sys2Proof.Machine

set_option Elab.async false

namespace Scheduled

/-! ### The walks (R19, R42, R47, R48, R49, R160) -/

section

variable {s : State} (h : Scheduled s)
include h

/-- Only a CLOSING point is closed, so it is in its list until then (R19, R20). -/
theorem closePoint (p : PointId) : Scheduled (closePoint p s) := by
  unfold Machine.closePoint
  split
  · next hp => exact h.reachDisabled (by rw [hp]; nofun)
  · exact h

theorem advance (w : Bool) (p : PointId) (xs : List SlotId) : Scheduled (advance w p xs s) := by
  induction xs generalizing s with
  | nil => exact h.closePoint p
  | cons x xs ih =>
    have hr := (h.stands (scheduleStands_endPending x s)).stands (scheduleStands_retireFirst w p x _)
    unfold Machine.advance
    dsimp only
    split
    · exact ih hr
    · exact hr

theorem advancePoint (p : PointId) : Scheduled (advancePoint p s) := h.advance _ _ _

theorem endActive (c : Status) (p : PointId) : Scheduled (endActive c p s) := by
  unfold Machine.endActive
  split
  · split
    · exact (h.stands (scheduleStands_endExchange ..)).advancePoint p
    · exact h
  · exact h

theorem endAllActive : Scheduled (endAllActive s) := foldl_keeps _ (fun _ p ht => ht.endActive _ p) _ _ h

theorem stationGonePoint (c : HaltCause) (p : PointId) : Scheduled (stationGonePoint c p s) := by
  have hhalt := h.stands (scheduleStands_haltPoint c p s)
  unfold Machine.stationGonePoint
  split
  · exact hhalt.endActive _ p
  · exact hhalt.endActive _ p
  · exact h.endActive _ p
  · exact h
  · exact h

theorem stationGone (c : HaltCause) (i : StationId) : Scheduled (stationGone c i s) := by
  refine foldl_keeps _ (fun t p ht => ?_) _ _ h
  split
  · exact ht.stationGonePoint c p
  · exact ht

theorem flushWalk (p : PointId) (xs : List SlotId) : Scheduled (flushWalk p xs s) := by
  induction xs generalizing s with
  | nil => exact h.closePoint p
  | cons x xs ih =>
    have hr := (h.stands (scheduleStands_flushFirst x s)).stands (scheduleStands_retireFirst false p x _)
    unfold Machine.flushWalk
    dsimp only
    split
    · exact ih hr
    · exact foldl_keeps _ (fun t y ht => ht.stands (scheduleStands_setSlot t y _)) xs _ hr

theorem postingWalk (n : Nat) : Scheduled (postingWalk n s) := by
  induction n generalizing s with
  | zero => exact h
  | succ n ih =>
    unfold Machine.postingWalk
    split
    · exact h
    · next p rest _ =>
      have hheld : Scheduled { s with cu := { s.cu with held := rest } } := h.stands .of_pt
      split
      · split
        · next x _ =>
          have hposted := (hheld.stands (scheduleStands_postRecord x p _)).stands (scheduleStands_freeSlot x p _)
          exact ih (hposted.advance true p _)
        · exact ih hheld
      · exact h

/-! ### The point and exchange commands -/

/-- CONFIGURE POINT takes a DISABLED point, which is in no list (R6). -/
theorem configurePoint (p : PointId) : Scheduled (configurePoint p s).1 := by
  unfold Machine.configurePoint
  split
  · next hd =>
    split
    · exact h.stands (.setPoint ⟨.rfl, fun hne => absurd hd hne⟩)
    · exact h
  · exact h

theorem enablePoint (p : PointId) : Scheduled (enablePoint p s).1 := by
  unfold Machine.enablePoint
  dsimp only
  split
  · next hd =>
    split
    · split
      · next hk => exact (h.admitPoint_async _ hd hk).served
      · next hk =>
        split
        · next hc =>
          unfold periodicCheck at hc
          split_ifs at hc with _ hroom hfit
          exact (h.admitPoint_periodic _ hd hk (Nat.not_le.mp hroom) hfit).served
        · exact h
    · exact h
  · exact h

/-- A point that is not DISABLED moves to another such state. -/
theorem setState {p : PointId} {v : Point} (hp : (s.point p).state ≠ .disabled) (hv : v.state ≠ .disabled)
    (hc : v.cfg = (s.point p).cfg) : Scheduled (s.setPoint p v) :=
  h.stands (.setPoint ⟨iff_of_false hv hp, fun _ => hc⟩)

theorem pausePoint (p : PointId) : Scheduled (pausePoint p s).1 := by
  unfold Machine.pausePoint
  split
  · next hp =>
    have hpaused : Scheduled (s.setPoint p { s.point p with state := .paused }) :=
      h.setState (by rw [hp]; nofun) nofun rfl
    exact hpaused.stands (scheduleStands_settle _)
  · exact h

theorem continuePoint (p : PointId) : Scheduled (continuePoint p s).1 := by
  unfold Machine.continuePoint
  split
  · next hp =>
    have hready : Scheduled (s.setPoint p { s.point p with state := .ready }) :=
      h.setState (by rw [hp]; nofun) nofun rfl
    exact hready.served
  · exact h

theorem clearPoint (p : PointId) : Scheduled (clearPoint p s).1 := by
  unfold Machine.clearPoint
  split
  · next hp =>
    have hready : Scheduled (s.setPoint p { s.point p with state := .ready, haltCause := none, seq := false }) :=
      h.setState (by rw [hp]; nofun) nofun rfl
    exact hready.served
  · exact h

theorem closeAndFlush {p : PointId} (hp : (s.point p).state ≠ .disabled) : Scheduled (closeAndFlush p s) :=
  ((h.setState hp (v := { s.point p with state := .closing, haltCause := none }) nofun rfl).flushWalk p _).served

theorem disablePoint (p : PointId) : Scheduled (disablePoint p s).1 := by
  unfold Machine.disablePoint
  split
  · exact h
  · exact h
  all_goals
    next hp =>
    dsimp only
    exact h.closeAndFlush (by rw [hp]; nofun)

theorem postExchange (p : PointId) : Scheduled (postExchange p s).1 := by
  unfold Machine.postExchange
  split
  · exact h
  · split
    · exact h
    · exact (h.stands (.of_fs (enqueue_fs ..) (by rw [enqueue_sc]) fun _ => .refl _)).served

theorem cancelQueued (x : SlotId) (p : PointId) : Scheduled (cancelQueued x p s).1 := by
  have hend := h.stands (scheduleStands_endWith x (cancelStatus s x) s)
  unfold Machine.cancelQueued
  split_ifs <;> dsimp only
  · exact ((hend.stands (scheduleStands_freeSlot x p _)).advancePoint p).served
  · exact (((hend.stands (scheduleStands_postRecord x p _)).stands (scheduleStands_freeSlot x p _)).advancePoint p).served
  · exact (hend.advancePoint p).served
  · exact (h.stands (scheduleStands_setSlot s x _)).stands (scheduleStands_settle _)

theorem cancelActive (x : SlotId) (p : PointId) : Scheduled (cancelActive x p s).1 := by
  unfold Machine.cancelActive
  split <;> dsimp only
  · exact ((h.stands (scheduleStands_endWith ..)).advancePoint p).served
  · exact (h.stands (scheduleStands_setSlot s x _)).stands (scheduleStands_settle _)

theorem cancelExchange : Scheduled (cancelExchange s).1 := by
  unfold Machine.cancelExchange
  split
  · exact h
  · dsimp only
    unfold cancelDecision
    dsimp only
    split
    · exact h
    · exact h
    · split
      · exact h
      · exact h.cancelQueued _ _
    · split_ifs
      · exact h
      · exact h
      · exact h.cancelActive _ _
    · exact h

/-! ### The segment and station commands, and the resets -/

theorem enterResettingByReset : Scheduled (enterResettingByReset s) :=
  (h.stands (scheduleStands_enterResettingCore s)).endAllActive

theorem enterDown : Scheduled (enterDown s) := by
  rw [enterDown_walk]
  exact ((h.stands (scheduleStands_downEntered s)).endAllActive).stands (scheduleStands_raise _ _)

theorem carryOutWaiting : Scheduled (carryOutWaiting s) := by
  unfold Machine.carryOutWaiting
  split
  · exact h.enterDown
  · exact h.enterResettingByReset
  · split
    · exact h.stands .of_pt
    · exact h

/-- The parameters change only with no PERIODIC point enabled (R122). -/
theorem setSegmentParameters : Scheduled (setSegmentParameters s).1 := by
  unfold Machine.setSegmentParameters
  dsimp only
  split_ifs with _ _ hl
  · exact h.setParams hl _
  · exact h
  · exact h
  · exact h

theorem startSegment : Scheduled (startSegment s).1 := by
  unfold Machine.startSegment
  split
  · exact (h.stands (scheduleStands_enterResettingCore s)).stands .of_pt
  · exact h

theorem stopSegment : Scheduled (stopSegment s).1 := by
  unfold Machine.stopSegment
  split_ifs
  · exact h
  · exact h.stands .of_pt
  · dsimp only
    exact h.enterDown.stands (scheduleStands_settle _)

theorem resetSegment : Scheduled (resetSegment s).1 := by
  unfold Machine.resetSegment
  split_ifs
  · exact h.stands .of_pt
  · dsimp only
    exact h.enterResettingByReset.stands (scheduleStands_settle _)
  · exact h

theorem haltSegment : Scheduled (haltSegment s).1 := by
  unfold Machine.haltSegment
  split
  · exact h.stands (scheduleStands_enterHalting s)
  · exact h

theorem resumeSegment : Scheduled (resumeSegment s).1 := by
  have hrun : ScheduleStands s (raise .segmentChanged (s.setSeg .running)) := .of_pt
  unfold Machine.resumeSegment
  split_ifs
  · exact h
  · exact (h.stands hrun).stands (scheduleStands_choose _)
  · exact h

theorem clearStation : Scheduled (clearStation s).1 := by
  unfold Machine.clearStation
  split
  · exact h
  · exact (h.stands (scheduleStands_setStation s _ _)).stands (scheduleStands_choose _)

theorem resumeMover : Scheduled (resumeMover s).1 := by
  have hidle : ScheduleStands s { s with pm := { s.pm with state := .idle, faultRecord := none } } := .of_pt
  unfold Machine.resumeMover
  split
  · exact (h.stands hidle).stands (scheduleStands_takeJob _)
  · exact h

omit h in
/-- After a reset the lists are empty and every point is DISABLED (R196). -/
theorem completeReset (s : State) : Scheduled (completeReset s) :=
  ((scheduled_iff _).mpr schedulerAgrees_reset).stands
    (.of_fs (completeReset_fs s) (by rw [completeReset_sc]; rfl) fun _ => .refl _)

theorem beginReset : Scheduled (beginReset s) := by
  unfold Machine.beginReset
  dsimp only
  split
  · exact h.stands (.of_pt (hf := ⟨_, _, _, _, rfl, .inr rfl⟩))
  · exact completeReset _

/-! ### The window, the census and the transactions -/

theorem release (w : Word) : Scheduled (release w s) := by
  have hwalk : ∀ u, Scheduled u →
      Scheduled (if u.cu.held = [] then u else choose (settle (Machine.postingWalk 64 u))) := fun u hu => by
    split
    · exact hu
    · exact (hu.postingWalk 64).served
  have hrel : Scheduled (releaseRecords w.toNat s) := h.stands .of_pt
  unfold Machine.release
  refine hwalk _ ?_
  split
  · exact hrel.stands .of_pt
  · exact hrel

theorem acknowledge (w : Word) : Scheduled (acknowledge w s) := by
  unfold Machine.acknowledge
  split
  · exact h.stands .of_pt
  · exact h.stands .of_pt

theorem writeHostConfig (w : Word) : Scheduled (writeHostConfig w s) := by
  unfold Machine.writeHostConfig
  dsimp only
  split
  · exact h.stands .of_pt
  · exact h.stands .of_pt

theorem censusSilence (i : StationId) : Scheduled (censusSilence i s) := by
  unfold Machine.censusSilence
  dsimp only
  split
  · exact (Scheduled.stationGone (h.stands .of_pt) _ i).haltTaken.stands (scheduleStands_settle _)
  · exact h.stands (scheduleStands_setStation s i _)

theorem applyCensus (a : CensusAnswer) (i : StationId) : Scheduled (applyCensus a i s) := by
  have hanswered := h.stands (scheduleStands_censusAnswered i s)
  cases a with
  | silence => exact h.censusSilence i
  | present => exact hanswered.haltTaken
  | alert => exact (hanswered.stands (scheduleStands_censusAlert i _)).haltTaken
  | garbled => exact (hanswered.stands (scheduleStands_censusClash i _)).haltTaken

theorem storeAccept (t : Txn) : Scheduled (storeAccept t s) := by
  have hfreed := ((h.stands (scheduleStands_setSlot s t.slot { s.slot t.slot with
    bytesLine := (s.slot t.slot).bytesLine + t.requested, errors := 0 })).stands
    (scheduleStands_toggleSeq t.point _)).stands (scheduleStands_freeBuffer t.buffer _)
  refine advancePoint ?_ t.point
  split
  · exact hfreed
  · exact hfreed.stands (scheduleStands_endExchange ..)

theorem refuseOutcome (t : Txn) : Scheduled (refuseOutcome t s) :=
  ((h.stands (scheduleStands_endExchange ..)).stands (scheduleStands_haltPoint ..)).advancePoint t.point

theorem errorOutcome (t : Txn) (st : Status) : Scheduled (errorOutcome t st s) := by
  have hcount := h.stands (scheduleStands_setSlot s t.slot { s.slot t.slot with errors := (s.slot t.slot).errors + 1 })
  refine advancePoint ?_ t.point
  split
  · exact (hcount.stands (scheduleStands_endExchange ..)).stands (scheduleStands_haltPoint ..)
  · exact hcount

theorem fetchTaken (t : Txn) (k : Nat) : Scheduled (fetchTaken t k s) := by
  have htaken := (h.stands (scheduleStands_setSlot s t.slot { s.slot t.slot with
    bytesLine := (s.slot t.slot).bytesLine + k, errors := 0 })).stands (scheduleStands_toggleSeq t.point _)
  have hend : ∀ v, Scheduled v → Scheduled
      (if (s.slot t.slot).length ≤ (s.slot t.slot).bytesLine + k then Machine.endExchange t.slot .done v
      else if k < t.requested then Machine.endExchange t.slot (if (s.slot t.slot).shortOk then .done else .short) v
      else v) := fun v hv => by
    split_ifs
    · exact hv.stands (scheduleStands_endExchange ..)
    · exact hv.stands (scheduleStands_endExchange ..)
    · exact hv.stands (scheduleStands_endExchange ..)
    · exact hv
  refine advancePoint (hend _ ?_) t.point
  split
  · exact htaken.stands (scheduleStands_freeBuffer ..)
  · exact htaken.stands .of_pt

theorem fetchDiscarded (t : Txn) (toggles : Bool) : Scheduled (fetchDiscarded t toggles s) := by
  have hslot := h.stands (scheduleStands_setSlot s t.slot { s.slot t.slot with errors := 0 })
  refine advancePoint (stands ?_ (scheduleStands_freeBuffer t.buffer _)) t.point
  split
  · exact hslot.stands (scheduleStands_toggleSeq ..)
  · exact hslot

theorem applyOutcome (t : Txn) (a : Answer) : Scheduled (applyOutcome t a s) := by
  have hdefer : ∀ u, Scheduled u → Scheduled (afterOutcome t (deferPoint t.point u)) := fun u hu =>
    (hu.stands (scheduleStands_deferPoint t.point u)).advancePoint t.point
  have hfreed := h.stands (scheduleStands_freeBuffer t.buffer s)
  unfold Machine.applyOutcome
  split
  · unfold storeOutcome
    split
    · exact h.storeAccept t
    · exact hdefer s h
    · exact hfreed.refuseOutcome t
    all_goals exact h.errorOutcome t _
  · unfold fetchOutcome
    split
    · unfold fetchData
      split_ifs
      · exact h.fetchDiscarded t true
      · exact h.fetchTaken t _
      · exact h.fetchDiscarded t false
    · exact hdefer _ hfreed
    · exact hfreed.refuseOutcome t
    all_goals exact hfreed.errorOutcome t _

theorem applyStreak (i : StationId) (a : Answer) : Scheduled (applyStreak i a s) := by
  unfold Machine.applyStreak
  dsimp only
  split
  · exact Scheduled.stationGone (h.stands .of_pt) _ i
  · exact h.stands (scheduleStands_setStation s i _)

theorem endTxn (t : Txn) (a : Answer) (moment : Nat) : Scheduled (endTxn t a moment s) := by
  have hremoved : Scheduled { s.setElapsed moment with le := { s.le with state := .idle, txn := none } } :=
    h.stands .of_pt
  exact (((hremoved.applyOutcome t a).applyStreak _ a).carryOutWaiting).haltTaken.served

/-! ### The mover -/

theorem advanceOwner (x : SlotId) : Scheduled (advanceOwner x s) := by
  unfold Machine.advanceOwner
  split
  · exact h.advancePoint _
  · exact h

theorem drainJobEnd (j : Job) : Scheduled (drainJobEnd j s) :=
  ((h.stands (scheduleStands_setSlot s j.slot _)).stands (scheduleStands_freeBuffer j.buffer _)).advanceOwner j.slot

theorem stageJobEnd (j : Job) : Scheduled (stageJobEnd j s) := by
  have hcount := h.stands (scheduleStands_setSlot s j.slot { s.slot j.slot with
    bytesMemory := (s.slot j.slot).bytesMemory + (s.buffer j.buffer).count })
  unfold Machine.stageJobEnd
  dsimp only
  split
  · exact hcount.stands (scheduleStands_setBuffer ..)
  · exact (hcount.stands (scheduleStands_freeBuffer j.buffer _)).advanceOwner j.slot

theorem endJob (j : Job) : Scheduled (endJob j s) := by
  have hclear : Scheduled (clearJob s) := h.stands .of_pt
  unfold Machine.endJob
  dsimp only
  split
  · exact (hclear.stageJobEnd j).served
  · exact (hclear.drainJobEnd j).served

theorem faultJob (j : Job) (u : Burst) (c : FaultCause) : Scheduled (faultJob j u c s) := by
  unfold Machine.faultJob
  dsimp only
  refine (advanceOwner (stands (stands ?_ (scheduleStands_faultExchange _ _)) (scheduleStands_raise _ _))
    j.slot).haltTaken.served
  refine foldl_keeps _ (fun t b ht => ht.stands (scheduleStands_freeBuffer b t)) _ _ ?_
  refine stands (stands ?_ (scheduleStands_setSlot _ j.slot _)) (scheduleStands_freeBuffer j.buffer _)
  exact h.stands .of_pt

theorem answerCompleted (w : Vector Word 16) (j : Job) (u : Burst) : Scheduled (answerCompleted w j u s) := by
  have hmoved := h.stands (scheduleStands_countMoved j u.bytes w s)
  unfold Machine.answerCompleted
  dsimp only
  split
  · exact hmoved.endJob j
  · exact hmoved.stands (scheduleStands_nextBurst _)

theorem answerRetry (j : Job) (u : Burst) : Scheduled (answerRetry j u s) := by
  unfold Machine.answerRetry
  split
  · exact h.faultJob j u _
  · exact h.stands .of_pt

/-! ### Every step -/

theorem windowWrite {t : State} {f : State → State} (hw : windowWrite s f = .next t) (hf : Scheduled (f s)) :
    Scheduled t := by
  rcases windowWrite_next hw with rfl | ⟨-, rfl⟩
  · exact h
  · exact hf

theorem command {t : State} {code : BitVec 8} {f : State → State × Reply} (hc : command code f s = .next t)
    (hf : Scheduled (f s).1) : Scheduled t := by
  rcases command_next hc with rfl | ⟨-, rfl⟩
  · exact h
  · exact hf.stands (scheduleStands_writeResult ..)

theorem onPoint {t : State} {code : BitVec 8} {f : PointId → State → State × Reply}
    (hc : Machine.command code (onPoint f) s = .next t) (hf : ∀ p, Scheduled (f p s).1) : Scheduled t := by
  refine h.command hc ?_
  rcases onPoint_eq f s with e | ⟨p, -, e⟩
  · rw [e]
    exact h
  · rw [e]
    exact hf p

omit h in
theorem onAnswer {t : State} {f : Job → Burst → State → Out} (ha : onAnswer f s = .next t)
    (hf : ∀ j u, f j u s = .next t → Scheduled t) : Scheduled t := by
  obtain ⟨-, rfl | ⟨-, j, u, -, -, hj⟩⟩ := onAnswer_next ha
  · exact completeReset s
  · exact hf j u hj

end

theorem exec {i : Instr} {s t : State} (h : Scheduled s) (he : exec i s = .next t) : Scheduled t := by
  cases i with
  | configurePoint => exact h.onPoint (f := Machine.configurePoint) he h.configurePoint
  | enablePoint => exact h.onPoint (f := Machine.enablePoint) he h.enablePoint
  | disablePoint => exact h.onPoint (f := Machine.disablePoint) he h.disablePoint
  | pausePoint => exact h.onPoint (f := Machine.pausePoint) he h.pausePoint
  | continuePoint => exact h.onPoint (f := Machine.continuePoint) he h.continuePoint
  | clearPoint => exact h.onPoint (f := Machine.clearPoint) he h.clearPoint
  | inspectPoint => exact h.onPoint (f := inspectPoint) he fun _ => h
  | postExchange => exact h.onPoint (f := Machine.postExchange) he h.postExchange
  | cancelExchange => exact h.command (f := Machine.cancelExchange) he h.cancelExchange
  | inspectSlot => exact h.command (f := inspectSlot) he (by unfold inspectSlot; split <;> exact h)
  | inspectLoad => exact h.command (f := inspectLoad) he (by unfold inspectLoad; split <;> exact h)
  | setSegmentParameters => exact h.command (f := Machine.setSegmentParameters) he h.setSegmentParameters
  | startSegment => exact h.command (f := Machine.startSegment) he h.startSegment
  | stopSegment => exact h.command (f := Machine.stopSegment) he h.stopSegment
  | resetSegment => exact h.command (f := Machine.resetSegment) he h.resetSegment
  | haltSegment => exact h.command (f := Machine.haltSegment) he h.haltSegment
  | resumeSegment => exact h.command (f := Machine.resumeSegment) he h.resumeSegment
  | suspendSegment => exact h.command (f := suspendSegment) he (by unfold suspendSegment; split <;> exact h.stands .of_pt)
  | wakeSegment => exact h.command (f := wakeSegment) he (by unfold wakeSegment; split <;> exact h.stands .of_pt)
  | clearStation => exact h.command (f := Machine.clearStation) he h.clearStation
  | resumeMover => exact h.command (f := Machine.resumeMover) he h.resumeMover
  | resetController =>
    exact h.windowWrite (show execResetController s = _ from he) (beginReset (h.stands (scheduleStands_writeResult ..)))
  | unknownCommand code =>
    rcases execUnknownCommand_next he with rfl | ⟨r, rfl⟩
    · exact h
    · exact h.stands (scheduleStands_writeResult ..)
  | eventAck w => exact h.windowWrite (show execEventAck w s = _ from he) (h.acknowledge w)
  | completionRelease w => exact h.windowWrite (show execCompletionRelease w s = _ from he) (h.release w)
  | eventQuietWrite w => exact h.windowWrite (show execEventQuietWrite w s = _ from he) (h.stands .of_pt)
  | accessStatusWrite w => exact h.windowWrite (show execAccessStatusWrite w s = _ from he) (h.stands .of_pt)
  | hostConfigWrite w => exact h.windowWrite (show execHostConfigWrite w s = _ from he) (h.writeHostConfig w)
  | reportEnableWrite w => exact h.windowWrite (show execReportEnableWrite w s = _ from he) (h.stands .of_pt)
  | haltEnableWrite w => exact h.windowWrite (show execHaltEnableWrite w s = _ from he) (h.stands .of_pt)
  | routeWrite w => exact h.windowWrite (show execRouteWrite w s = _ from he) (h.stands .of_pt)
  | registerWrite i w => exact h.windowWrite (show execRegisterWrite i w s = _ from he) (h.stands .of_pt)
  | readOnlyWrite r w => exact h.windowWrite (show execReadOnlyWrite r w s = _ from he) (h.stands .of_pt)
  | undefinedOffset w o e =>
    rcases execUndefinedOffset_next (w := w) he with rfl | rfl
    · exact h
    · exact h.stands .of_pt
  | deviceReset =>
    rw [execDeviceReset_next he]
    exact (completeReset s).stands .of_pt
  | markEnd =>
    obtain ⟨-, -, rfl⟩ := execMarkEnd_next he
    exact stands (h.stands .of_pt) (scheduleStands_choose _)
  | censusStart =>
    obtain ⟨-, -, rfl⟩ := execCensusStart_next he
    exact haltTaken (stands ((h.stands (scheduleStands_setElapsed _ s)).stands (scheduleStands_settleDue _)) .of_pt)
  | frameEnd =>
    obtain ⟨-, -, ⟨-, rfl⟩ | ⟨-, rfl⟩⟩ := execFrameEnd_next he
    · exact ((h.stands (scheduleStands_setElapsed _ s)).stands (scheduleStands_beginFrame _ _)).stands
        (scheduleStands_raise _ _)
    · exact h.stands (.of_pt (hf := ⟨_, _, _, _, rfl, .inr rfl⟩))
  | censusSlotEnd i v =>
    obtain ⟨-, -, _, rfl⟩ := execCensusSlotEnd_next he
    exact applyCensus (h.stands .of_pt) _ i
  | suspendMarkEnd =>
    obtain ⟨-, -, rfl⟩ := execSuspendMarkEnd_next he
    exact h.stands .of_pt
  | resetSignallingEnd =>
    obtain ⟨-, -, rfl⟩ := execResetSignallingEnd_next he
    exact h.stands (scheduleStands_openAfterSignalling _ s)
  | wakeSignallingEnd =>
    obtain ⟨-, -, rfl⟩ := execWakeSignallingEnd_next he
    exact h.stands (scheduleStands_openAfterSignalling _ s)
  | wakePattern levels =>
    cases he
    exact foldl_keeps watchBit (fun u level hu => hu.stands (scheduleStands_watchBit u level)) levels s h
  | requestEnd =>
    obtain ⟨_, -, -, rfl⟩ := execRequestEnd_next he
    exact h.stands .of_pt
  | storeDataEnd =>
    obtain ⟨_, _, -, -, rfl⟩ := execStoreDataEnd_next he
    exact h.stands .of_pt
  | answerBegins d =>
    obtain rfl | ⟨_, _, -, -, rfl⟩ := execAnswerBegins_next he
    · exact h
    · exact h.stands .of_pt
  | dataReceived levels =>
    obtain ⟨_, _, _, _, _, -, -, rfl⟩ := execDataReceived_next he
    exact h.stands .of_pt
  | transactionEnd levels =>
    obtain ⟨_, _, _, -, -, -, rfl⟩ := execTransactionEnd_next he
    exact h.endTxn _ _ _
  | busGrant =>
    obtain ⟨-, rfl⟩ := execBusGrant_next he
    exact h.stands .of_pt
  | burstCompleted w =>
    refine onAnswer (show execBurstCompleted w s = _ from he) fun j u hj => ?_
    cases hj
    exact h.answerCompleted w j u
  | burstRetry =>
    refine onAnswer (show execBurstRetry s = _ from he) fun j u hj => ?_
    cases hj
    exact h.answerRetry j u
  | burstCutShort k w =>
    refine onAnswer (show execBurstCutShort k w s = _ from he) fun j u hj => ?_
    split at hj <;> cases hj
    exact (h.stands (scheduleStands_countMoved j _ w s)).stands (scheduleStands_nextBurst _)
  | burstError =>
    refine onAnswer (show execBurstError s = _ from he) fun j u hj => ?_
    obtain rfl := Host.Outcome.next.inj hj
    exact h.faultJob j u .busError
  | releaseIntervalEnd l =>
    obtain ⟨_, _, rfl⟩ := execReleaseIntervalEnd_next he
    exact h.stands .of_pt
  | resetPinReleased =>
    rw [execResetPinReleased_next he]
    exact h.stands .of_pt

theorem tick {s : State} (h : Scheduled s) : Scheduled (tick s) := by
  unfold Machine.tick
  split_ifs
  · exact h.stands (scheduleStands_setElapsed _ s)
  · exact h
  · exact h.stands .of_pt
  · exact h.stands .of_pt
  · exact h

theorem step {s t : State} (h : Scheduled s) (ht : step s = .next t) : Scheduled t := by
  unfold Machine.step at ht
  split at ht
  · cases ht
    exact h.tick
  · next c rest _ => exact Scheduled.exec (h.stands (t := { s with pending := rest }) .of_pt) ht

end Scheduled

/-- Settles O59: `Scheduled` is the agreement field by field, and every step keeps it. -/
theorem schedulerInvariantKept : Obligations.SchedulerInvariantKept := by
  unfold Obligations.SchedulerInvariantKept
  intro s t h ht
  exact (scheduled_iff t).mp (((scheduled_iff s).mpr h).step ht)

end Sys2Proof.Machine
end

section
/-! PROOF. The choice at mark end, INSPECT LOAD, CLEAR STATION and the step of one bit time (R57, R60, R64, R65, R72 to R75,
R85, R128, R193, R194). -/

namespace Sys2Proof.Machine

set_option Elab.async false

/-! ### The choice, where its candidates are known (R70, R74) -/

section

variable {s : State}

/-- With no candidate there is no transaction (R74). -/
theorem choose_of_none (hdue : ∀ p ∈ s.fs.due, ¬ MayBegin s p)
    (hring : s.fs.pointer = none ∨ ∀ p ∈ s.fs.ring, ¬ MayBegin s p) : choose s = s := by
  obtain h | ⟨-, p, before, after, hp, -, ⟨hl, -⟩ | ⟨-, r, front, back, hpointer, hl, -, -, hrot, -⟩⟩ := (choose_only s).choice
  · exact h
  · exact absurd hp (hdue p (hl ▸ List.mem_append_right _ List.mem_cons_self))
  · have hmem : p ∈ s.fs.ring := by
      rw [hl, List.perm_append_comm.mem_iff, hrot]
      exact List.mem_append_right _ List.mem_cons_self
    rcases hring with hnone | hring
    · exact nomatch hnone.symm.trans hpointer
    · exact absurd hp (hring p hmem)

theorem not_mayBegin_iff {p : PointId} : ¬ MayBegin s p ↔ (!(eligible s p && fits s p)) = true := by
  rw [← mayBegin_iff, Bool.not_eq_true, Bool.not_eq_true']

/-- The first member of a list that may begin is the one a search finds. -/
theorem find?_mayBegin {before after : List PointId} {p : PointId} (hbefore : ∀ q ∈ before, ¬ MayBegin s q)
    (hp : MayBegin s p) : (before ++ p :: after).find? (fun q => eligible s q && fits s q) = some p :=
  List.find?_eq_some_iff_append.mpr
    ⟨(mayBegin_iff s p).mpr hp, before, after, rfl, fun q hq => not_mayBegin_iff.mp (hbefore q hq)⟩

/-- The first due entry that may begin leaves the due list and begins (R74 step 1). -/
theorem choose_due (hm : mayChoose s = true) {before after : List PointId} {p : PointId}
    (hdue : s.fs.due = before ++ p :: after) (hbefore : ∀ q ∈ before, ¬ MayBegin s q) (hp : MayBegin s p) :
    Begins s p { s.fs with due := before ++ after } (choose s) := by
  have hpick : pickDue s = some p := by
    unfold pickDue
    rw [hdue]
    exact find?_mayBegin hbefore hp
  have herase : s.fs.due.erase p = before ++ after := by
    rw [hdue, List.erase_append_right _ fun h => hbefore p h hp, List.erase_cons_head]
  unfold choose
  rw [if_pos hm, hpick]
  dsimp only
  rw [herase]
  exact beginTxn_begins hp _ rfl

/-- With no due entry to begin, the first member from the rotation pointer on that may begin does so, and the pointer moves to
its successor (R70, R74 step 2). -/
theorem choose_ring (hm : mayChoose s = true) (hdue : ∀ q ∈ s.fs.due, ¬ MayBegin s q) (hnodup : s.fs.ring.Nodup)
    {front back before after : List PointId} {r p : PointId} (hpointer : s.fs.pointer = some r)
    (hring : s.fs.ring = front ++ r :: back) (hrot : r :: back ++ front = before ++ p :: after)
    (hbefore : ∀ q ∈ before, ¬ MayBegin s q) (hp : MayBegin s p) :
    Begins s p { s.fs with pointer := match after ++ before with
      | q :: _ => some q
      | [] => some p } (choose s) := by
  rw [hring] at hnodup
  have hfront : r ∉ front := fun h => (List.nodup_append.mp hnodup).2.2 r h r List.mem_cons_self rfl
  have hnone : pickDue s = none := List.find?_eq_none.mpr fun q hq => by
    rw [mayBegin_iff]
    exact hdue q hq
  have hpick : pickRing s = some p := by
    unfold pickRing ringOrder
    rw [hpointer]
    dsimp only
    rw [hring, ringFrom_append hfront, hrot]
    exact find?_mayBegin hbefore hp
  unfold choose
  rw [if_pos hm, hnone, hpick]
  dsimp only
  rw [hring, successor_rotation hnodup hrot]
  exact beginTxn_begins hp _ rfl

end

/-! ### Mark end (R57) -/

/-- The state in which the choice of mark end is made (R57). -/
def markEnded (s : State) : State :=
  { s with fs := { s.fs with elapsed := 64 }, le := { s.le with state := .idle } }

section

variable {s : State} (hl : s.le.state = .marking) (hr : s.fs.running = true) (he : s.fs.elapsed ≤ 64)

include hl hr he in
theorem exec_markEnd : exec .markEnd s = .next (choose (markEnded s)) := by
  have htimed : timedAt 64 s = true := by
    unfold timedAt
    rw [hr, decide_eq_true he]
    rfl
  exact if_pos ⟨hl, htimed⟩

theorem mayChoose_markEnded_serves (h : mayChoose (markEnded s) = true) :
    s.sc.state = .running ∨ s.sc.state = .suspending := by
  simp only [mayChoose, segServes, Bool.and_eq_true, Bool.or_eq_true, decide_eq_true_iff] at h
  exact h.1.2

include hr in
/-- Where a point fits before the census, the transaction region has begun (R60, R73). -/
theorem mayChoose_markEnded (hs : s.sc.state = .running ∨ s.sc.state = .suspending) {p : PointId}
    (hp : MayBegin (markEnded s) p) : mayChoose (markEnded s) = true := by
  obtain ⟨-, -, -, -, -, -, hfit⟩ := hp
  have hroom : 64 + 168 < s.sc.params.frameLength := by
    change 64 + _ + 168 ≤ s.sc.params.frameLength at hfit
    omega
  have hregion : inRegion (markEnded s) = true := by
    simp only [inRegion, Bool.and_eq_true, decide_eq_true_iff]
    exact ⟨⟨hr, le_refl 64⟩, hroom⟩
  have hserves : segServes (markEnded s) = true := by
    simp only [segServes, Bool.or_eq_true, decide_eq_true_iff]
    exact hs
  unfold mayChoose
  rw [hregion, hserves]
  rfl

end

/-- Settles O41: the choice is made in the state `markEnded s`, where `MayBegin` is the statement's condition on a point. -/
theorem markEndChoosesDueThenRing : Obligations.MarkEndChoosesDueThenRing := by
  unfold Obligations.MarkEndChoosesDueThenRing
  intro s hl hr he hn u ok begins serves
  have hexec := exec_markEnd hl hr he
  have hbegins : ∀ p f, Begins (markEnded s) p f (choose (markEnded s)) → begins p f :=
    fun p f ⟨x, b, n, hx, ht, hstore, hfetch⟩ => ⟨_, x, b, n, hexec, hx, ht, hstore, hfetch⟩
  have hnothing : choose (markEnded s) = markEnded s → exec .markEnd s = .next u := fun h => hexec.trans (congrArg _ h)
  refine ⟨fun hs => hnothing ?_, fun hs hdue hpointer => hnothing ?_, fun hs p before after hdue hbefore hp => ?_,
    fun hs hdue r front back hpointer hring => ⟨fun hnone => hnothing ?_, fun p before after hrot hbefore hp => ?_⟩⟩
  · exact choose_of_not _ (Bool.eq_false_iff.mpr fun h => hs (mayChoose_markEnded_serves h))
  · exact choose_of_none hdue (.inl hpointer)
  · exact hbegins p _ (choose_due (mayChoose_markEnded hr hs hp) hdue hbefore hp)
  · exact choose_of_none hdue (.inr hnone)
  · exact hbegins p _ (choose_ring (mayChoose_markEnded hr hs hp) hdue hn hpointer hring hrot hbefore hp)

/-! ### INSPECT LOAD (R65, R193) -/

theorem dueCount_eq (s : State) (r : Residue) : dueCount s r =
    s.fs.periodic.countP fun p => decide (r.val % (s.point p).cfg.period = (s.point p).cfg.phase) :=
  List.countP_eq_length_filter.symm

/-- Settles O19: INSPECT LOAD returns the state it was given, and its words are those of the statement. -/
theorem inspectLoadReportsTheResidue : Obligations.InspectLoadReportsTheResidue := by
  unfold Obligations.InspectLoadReportsTheResidue
  refine ⟨fun s hd hr => ?_, fun r s hd hr => ?_⟩
  · refine (command_eq 0x18 inspectLoad s hd).trans (congrArg _ ?_)
    rw [inspectLoad, residueOperand_none hr]
    exact writeResult_refusal 0x18 .badParameter s
  · intro due word1 word2
    refine (command_eq 0x18 inspectLoad s hd).trans (congrArg _ ?_)
    rw [inspectLoad, residueOperand_eq hr]
    dsimp only
    rw [writeResult_eq _ _ (show 0 < 256 by decide), dueCount_eq]
    rfl

/-! ### CLEAR STATION (R128, R194) -/

theorem ChoiceOnly.hw_eq {s t : State} (h : ChoiceOnly s t) : t.hw = s.hw := by
  rcases h.eq_or_begins with rfl | ⟨p, f, hb, -⟩
  · rfl
  · exact hb.hw_eq

/-- The entry after CLEAR STATION: a LOST station takes the presence of its last census answer (R128). -/
theorem clearedStation_eq (x : Station) : clearedStation x = { x with
    alert := false, clash := false, streak := 0
    presence := if x.presence = .lost then (if x.answered then .present else .absent) else x.presence } := by
  unfold clearedStation
  cases x.presence <;> rfl

/-- Settles O29: the entry is cleared, the scheduler chooses, and the entry before is returned. -/
theorem clearStationClearsTheEntry : Obligations.ClearStationClearsTheEntry := by
  unfold Obligations.ClearStationClearsTheEntry
  refine ⟨fun s hd hi => ?_, fun i s hd hi => ?_⟩
  · refine (command_eq 0x28 clearStation s hd).trans (congrArg _ ?_)
    rw [clearStation, stationOperand_none (by omega)]
    exact writeResult_refusal 0x28 .badParameter s
  · intro x after word1
    have hafter : clearedStation (s.station i) =
        { x with alert := false, clash := false, streak := 0, presence := after } := clearedStation_eq _
    have hchoice := choose_only (s.setStation i { x with alert := false, clash := false, streak := 0, presence := after })
    have hw := hchoice.hw_eq
    generalize hc : choose (s.setStation i { x with alert := false, clash := false, streak := 0, presence := after }) = t
      at hchoice hw
    refine ⟨{ t with hw := answeredWindow s.hw 0x28 0 0 word1 (BitVec.ofNat 32 after.code) }, ?_, hchoice.withWindow _⟩
    refine (command_eq 0x28 clearStation s hd).trans (congrArg _ ?_)
    rw [clearStation, stationOperand_eq hi]
    dsimp only
    rw [hafter, hc, writeResult_eq _ _ (show 0 < 256 by decide), hw]
    dsimp only
    rw [place, Nat.pow_zero, Nat.mul_one]
    rfl

/-! ### One bit time (log 1) -/

theorem windowOpens_eq (t : Txn) :
    windowOpens t = t.began + (if t.direction = .store then 114 + 10 * t.requested else 58) := by
  unfold windowOpens
  cases t.direction
  · rfl
  · exact Nat.add_assoc ..

section

variable {s : State} (hp : s.pending = [])
include hp

theorem step_tick : step s = .next (tick s) := by
  unfold step
  rw [hp]

/-- With the timer running a bit time moves the elapsed time towards the next moment. -/
theorem step_timer (hr : s.fs.running = true) {moment : Nat} (hm : nextMoment s = moment) : step s = .next { s with
    fs := { s.fs with elapsed := if s.fs.elapsed < moment then s.fs.elapsed + 1 else s.fs.elapsed } } := by
  rw [step_tick hp, tick, if_pos hr, hm]
  split <;> rfl

/-- With the timer stopped and the line not watched a bit time is one of the signalling under way. -/
theorem step_signalling (hr : s.fs.running = false) (hl : s.le.state ≠ .idle) {span : Nat} (hs : signalSpan s = span) :
    step s = .next { s with
      le := { s.le with lineBits := if s.le.lineBits < span then s.le.lineBits + 1 else s.le.lineBits } } := by
  have hwatch : watchesLine s = false := by
    unfold watchesLine
    rw [decide_eq_false hl, Bool.and_false]
  rw [step_tick hp, tick, if_neg (by rw [hr]; nofun), hs, hwatch]
  split <;> rfl

end

/-- Settles O2: the next moment and the length of the signalling in each state of the line engine. -/
theorem emptyQueuePassesABitTime : Obligations.EmptyQueuePassesABitTime := by
  unfold Obligations.EmptyQueuePassesABitTime
  intro s hp length timeout opens timer bits
  have hopens : ∀ t, windowOpens t = opens t := windowOpens_eq
  refine ⟨fun hr => ?_, fun hr => ?_⟩
  · have htimer : ∀ moment, nextMoment s = moment → timer moment := fun _ => step_timer hp hr
    have hzero : nextMoment s = 0 → step s = .next s := fun h => step_timer hp hr h
    refine ⟨fun hl => htimer _ ?_, fun hl => htimer _ ?_, fun hl h30 => htimer _ ?_, fun hl h30 => htimer _ ?_,
      fun hl => hzero ?_, fun t ht => ⟨fun hl => htimer _ ?_, fun hl => htimer _ ?_, fun hl => htimer _ ?_,
        fun hl ha => htimer _ ?_, fun a ha => ⟨fun hl => htimer _ ?_, fun hl => htimer _ ?_,
          fun k seq hk hl => htimer _ ?_⟩⟩⟩
    all_goals unfold nextMoment
    · rw [hl]
    · rw [hl]
    · rw [hl]
      exact if_pos h30
    · rw [hl]
      exact if_neg (Nat.not_lt.mpr h30)
    · rcases hl with hl | hl <;> rw [hl]
    · rw [hl, ht]
      rfl
    · rw [hl, ht, ← hopens]
      rfl
    · rw [hl, ht, ← hopens]
      rfl
    · rw [hl, ht, ← hopens]
      simp only [Option.map_some, Option.getD_some, ha]
      rfl
    · rw [hl, ht]
      simp only [Option.map_some, Option.getD_some, ha]
    · rw [hl, ht]
      simp only [Option.map_some, Option.getD_some, ha]
    · rw [hl, ht]
      simp only [Option.map_some, Option.getD_some, ha, hk]
  · refine ⟨fun hl hg => ?_, fun hl hg => ?_, fun hl hg => ?_, fun hl hg => ?_, fun hl => ?_⟩
    · exact step_signalling hp hr (by rw [hl]; nofun) (by rw [signalSpan, hl, hg])
    · exact step_signalling hp hr (by rw [hl]; nofun) (by rw [signalSpan, hl, hg])
    · exact step_signalling hp hr (by rw [hl]; nofun) (by rw [signalSpan, hl, hg])
    · have hspan : signalSpan s = 0 := by rw [signalSpan, hl, hg]
      have hwatch : watchesLine s = true := by
        unfold watchesLine
        rw [hl, hg]
        rfl
      rw [step_tick hp, tick, if_neg (by rw [hr]; nofun), hspan, if_neg (Nat.not_lt_zero _), if_pos hwatch]
    · exact step_signalling hp hr (by rw [hl]; nofun) (span := 0) (by rw [signalSpan, hl])

end Sys2Proof.Machine
end

section
/-! PROOF. The agreement of the segment state, the line engine and the frame timer (R83, R104, R105). -/

namespace Sys2Proof.Machine

/-- Settles O56: the agreement is kept command by command (`segmentAgrees_exec`) and by the bit time (`segmentAgrees_tick`). -/
theorem segmentInvariantKept : Obligations.SegmentInvariantKept := by
  unfold Obligations.SegmentInvariantKept
  exact fun _ _ h e => segmentAgrees_step h e

end Sys2Proof.Machine
end

section
/-! PROOF. SUSPEND and WAKE SEGMENT, the end of the SUSPEND MARK and the watch for the wake pattern (R100, R102, R117, R119,
R120). -/

namespace Sys2Proof.Machine

/-! ### One bit time of the watched line (R102) -/

/-- The line is watched with a station's hold at 0 of `n` bt behind it. -/
def holdAt (n : Nat) (s : State) : State := { s with le := { s.le with lowBits := n } }

theorem watchesLine_iff (s : State) : watchesLine s = true ↔ s.sc.state = .suspended ∧ s.le.state = .idle := by
  simp only [watchesLine, Bool.and_eq_true, decide_eq_true_iff]

theorem watchBit_unwatched {s : State} (h : watchesLine s = false) (level : Bool) : watchBit s level = s := by
  rw [watchBit, h, if_neg nofun]

section

variable {s : State} (h : watchesLine s = true)
include h

/-- A level of 1 ends the hold. -/
theorem watchBit_high : watchBit s true = holdAt 0 s := by
  rw [watchBit, if_pos h]
  rfl

/-- A hold of fewer than 99 bt goes on. -/
theorem watchBit_low (hn : s.le.lowBits < 99) : watchBit s false = holdAt (s.le.lowBits + 1) s := by
  rw [watchBit, if_pos h]
  dsimp only
  rw [if_neg fun hc => hn.ne hc.2, if_neg nofun, Nat.min_eq_right (by omega)]
  rfl

/-- The hundredth bit time of a hold reports the wake pattern. -/
theorem watchBit_hundredth (hn : s.le.lowBits = 99) : watchBit s false = reportWake (holdAt 100 s) := by
  rw [watchBit, if_pos h]
  dsimp only
  rw [if_pos ⟨rfl, hn⟩, if_neg nofun, hn]
  rfl

/-- A hold of 100 bt that goes on changes nothing. -/
theorem watchBit_reported (hn : s.le.lowBits = 100) : watchBit s false = s := by
  rw [watchBit, if_pos h]
  dsimp only
  rw [if_neg fun hc => absurd (hn.symm.trans hc.2) (by decide), if_neg nofun,
    show min 100 (s.le.lowBits + 1) = s.le.lowBits by omega]

end

/-- After its report a hold that goes on changes nothing, whether the segment is woken or watches on. -/
theorem watchBit_reportWake {s : State} (h : watchesLine s = true) (hn : s.le.lowBits = 100) :
    watchBit (reportWake s) false = reportWake s := by
  have hon : watchBit (raise .stationWake s) false = raise .stationWake s := watchBit_reported (s := raise .stationWake s) h hn
  unfold reportWake
  dsimp only
  split
  · exact watchBit_unwatched rfl false
  · exact hon

/-! ### A hold of several bit times (R102, R119) -/

/-- Bit times that change nothing leave the state as it is, however many they are. -/
theorem foldl_watchBit_same {s : State} {level : Bool} (h : watchBit s level = s) (k : Nat) :
    (List.replicate k level).foldl watchBit s = s := by
  induction k with
  | zero => rfl
  | succ k ih => rw [List.replicate_succ, List.foldl_cons, h, ih]

section

variable {s : State} (h : watchesLine s = true)
include h

/-- A hold of at most 99 bt is counted and not reported. -/
theorem foldl_watchBit_short (k : Nat) (hk : s.le.lowBits + k < 100) :
    (List.replicate k false).foldl watchBit s = holdAt (s.le.lowBits + k) s := by
  induction k with
  | zero => rfl
  | succ k ih =>
    have hlow : watchBit (holdAt (s.le.lowBits + k) s) false = holdAt (s.le.lowBits + k + 1) s :=
      watchBit_low (s := holdAt (s.le.lowBits + k) s) h (show s.le.lowBits + k < 99 by omega)
    rw [List.replicate_succ', List.foldl_append, ih (by omega)]
    exact hlow

/-- A hold that reaches 100 bt is reported, once. -/
theorem foldl_watchBit_reports (k : Nat) (hn : s.le.lowBits < 100) (hk : 100 ≤ s.le.lowBits + k) :
    (List.replicate k false).foldl watchBit s = reportWake (holdAt 100 s) := by
  obtain ⟨j, rfl⟩ : ∃ j, k = (99 - s.le.lowBits) + (j + 1) := ⟨k - (100 - s.le.lowBits), by omega⟩
  have hshort := foldl_watchBit_short h (99 - s.le.lowBits) (by omega)
  rw [show s.le.lowBits + (99 - s.le.lowBits) = 99 by omega] at hshort
  have hreport : watchBit (holdAt 99 s) false = reportWake (holdAt 100 s) := watchBit_hundredth (s := holdAt 99 s) h rfl
  rw [List.replicate_add, List.foldl_append, hshort, List.replicate_succ, List.foldl_cons, hreport]
  exact foldl_watchBit_same (watchBit_reportWake (s := holdAt 100 s) h rfl) j

end

/-! ### The statement -/

/-- Settles O27: the commands by their tables, and a hold bit time by bit time (`foldl_watchBit_short`,
`foldl_watchBit_reports`). -/
theorem suspendAndWakeMoveTheSegment : Obligations.SuspendAndWakeMoveTheSegment := by
  unfold Obligations.SuspendAndWakeMoveTheSegment
  intro s waking low
  refine ⟨fun hd hg => ?_, fun hd hg => ?_, fun hg hl => if_pos ⟨hl, hg⟩, fun hg hl _ => ?_, fun hno levels => ?_⟩
  · refine (command_eq 0x26 suspendSegment s hd).trans (congrArg _ ?_)
    rw [suspendSegment, if_pos hg]
    exact writeResult_eq _ _ (show 5 < 256 by decide) _
  · refine (command_eq 0x27 wakeSegment s hd).trans (congrArg _ ?_)
    rw [wakeSegment, if_pos hg]
    exact writeResult_eq _ _ (show 7 < 256 by decide) _
  · have hw : watchesLine s = true := (watchesLine_iff s).mpr ⟨hg, hl⟩
    refine ⟨fun k hk => ?_, fun k hn hk => ?_, fun k hn => ?_, fun rest => ?_⟩
    · exact congrArg Host.Outcome.next (foldl_watchBit_short hw k hk)
    · exact congrArg Host.Outcome.next (foldl_watchBit_reports hw k hn hk)
    · exact congrArg Host.Outcome.next (foldl_watchBit_same (watchBit_reported hw hn) k)
    · exact congrArg (fun t => Host.Outcome.next (rest.foldl watchBit t)) (watchBit_high hw)
  · have hw : watchesLine s = false := Bool.eq_false_iff.mpr fun h => by
      obtain ⟨hg, hl⟩ := (watchesLine_iff s).mp h
      exact hno.elim (· hg) (· hl)
    exact congrArg Host.Outcome.next (List.foldl_fixed' (watchBit_unwatched hw) levels)

end Sys2Proof.Machine
end


section
/-! PROOF. An answer in a census slot (R101, R113, R124). -/

namespace Sys2Proof.Machine

/-! ### What a slot shows (R101) -/

theorem readSlot_silence_iff (v : SlotLevels) : readSlot v = .silence ↔ v = ⟨true, true, true, true⟩ := by
  obtain ⟨a, b, c, d⟩ := v
  revert a b c d
  decide

theorem readSlot_alert_iff (v : SlotLevels) : readSlot v = .alert ↔ v = ⟨false, true, false, true⟩ := by
  obtain ⟨a, b, c, d⟩ := v
  revert a b c d
  decide

/-- What is neither silence, nor the symbol of presence, nor that of an alert is garbled. -/
theorem readSlot_garbled_iff (v : SlotLevels) : readSlot v = .garbled ↔
    v ≠ ⟨true, true, true, true⟩ ∧ v ≠ ⟨false, false, true, true⟩ ∧ v ≠ ⟨false, true, false, true⟩ := by
  obtain ⟨a, b, c, d⟩ := v
  revert a b c d
  decide

/-! ### What an answer does to the entry and to the event unit (R124) -/

theorem State.setStation_self (s : State) (i : StationId) : s.setStation i (s.station i) = s := by
  simp [State.setStation, State.station]

/-- The event unit when a station answers: one that was ABSENT is attached. -/
def attachedEvents (x : Station) (cfg : HostConfig) (e : EventUnit) : EventUnit :=
  if x.presence = .absent then e.take cfg .stationAttached else e

/-- The event unit after an answer: a first alert and a first clash are raised. -/
def heardEvents (a : CensusAnswer) (x : Station) (cfg : HostConfig) (e : EventUnit) : EventUnit :=
  match a with
  | .alert => if x.alert = false then (attachedEvents x cfg e).take cfg .stationAlert else attachedEvents x cfg e
  | .garbled => if x.clash = false then (attachedEvents x cfg e).take cfg .addressClash else attachedEvents x cfg e
  | .silence | .present => attachedEvents x cfg e

/-- The entry of a station after an answer. -/
def heardEntry (a : CensusAnswer) (x : Station) : Station :=
  { presence := if x.presence = .absent then .present else x.presence, silent := 0
    streak := if x.presence = .absent then 0 else x.streak
    alert := x.alert || decide (a = .alert), clash := x.clash || decide (a = .garbled), answered := true }

/-- The state after an answer, before its halt request is taken. -/
def heard (a : CensusAnswer) (i : StationId) (s : State) : State :=
  { s.setStation i (heardEntry a (s.station i)) with eu := heardEvents a (s.station i) s.hw.config s.eu }

theorem censusAnswered_eq (i : StationId) (s : State) : censusAnswered i s = heard .present i s := by
  unfold censusAnswered heard heardEntry heardEvents attachedEvents
  dsimp only
  by_cases h : (s.station i).presence = .absent
  · simp only [if_pos h]
    rw [modStation_eq, State.station_setStation_same, State.setStation_setStation]
    simp [raise, State.setStation]
  · simp only [if_neg h]
    simp [State.setStation]

theorem heard_station (a : CensusAnswer) (i : StationId) (s : State) :
    (heard a i s).station i = heardEntry a (s.station i) := State.station_setStation_same s i _

/-- A flag of the entry of a station that has answered is set, with an occurrence raised. -/
theorem raise_heard (a : CensusAnswer) (i : StationId) (s : State) (c : Cause) (f : Station → Station) :
    raise c ((heard a i s).modStation i f) =
      { s.setStation i (f (heardEntry a (s.station i))) with
        eu := (heardEvents a (s.station i) s.hw.config s.eu).take s.hw.config c } := by
  rw [modStation_eq, heard_station]
  simp [raise, heard, State.setStation]

theorem censusAlert_answered (i : StationId) (s : State) : censusAlert i (censusAnswered i s) = heard .alert i s := by
  unfold censusAlert
  rw [censusAnswered_eq, heard_station, raise_heard]
  cases hx : (s.station i).alert <;> simp [heard, heardEntry, heardEvents, hx]

theorem censusClash_answered (i : StationId) (s : State) : censusClash i (censusAnswered i s) = heard .garbled i s := by
  unfold censusClash
  rw [censusAnswered_eq, heard_station, raise_heard]
  cases hx : (s.station i).clash <;> simp [heard, heardEntry, heardEvents, hx]

/-- An answer leaves the state `heard`, and its halt request is taken (R113, R115). -/
theorem applyCensus_heard {a : CensusAnswer} (ha : a ≠ .silence) (i : StationId) (s : State) :
    applyCensus a i s = haltTaken (heard a i s) := by
  rw [← takeHaltRequests_eq]
  cases a with
  | silence => exact absurd rfl ha
  | present => exact congrArg takeHaltRequests (censusAnswered_eq i s)
  | alert => exact congrArg takeHaltRequests (censusAlert_answered i s)
  | garbled => exact congrArg takeHaltRequests (censusClash_answered i s)

theorem attachedEvents_haltRequest (x : Station) (cfg : HostConfig) (e : EventUnit) :
    (attachedEvents x cfg e).haltRequest = e.haltRequest := by
  unfold attachedEvents
  split
  · exact take_haltRequest_of_not e cfg _ rfl
  · rfl

theorem attachedEvents_haltEnable (x : Station) (cfg : HostConfig) (e : EventUnit) :
    (attachedEvents x cfg e).haltEnable = e.haltEnable := by
  unfold attachedEvents
  split
  · exact take_haltEnable ..
  · rfl

/-- Only a first clash leaves a halt request, where ADDRESS_CLASH is halting (R166, R171). -/
theorem heardEvents_haltRequest {a : CensusAnswer} {x : Station} {cfg : HostConfig} {e : EventUnit}
    (he : e.haltRequest = false) : (heardEvents a x cfg e).haltRequest = true ↔
      a = .garbled ∧ x.clash = false ∧ e.haltEnable.getLsbD 6 = true := by
  have hattached : (attachedEvents x cfg e).haltRequest = false := (attachedEvents_haltRequest x cfg e).trans he
  unfold heardEvents
  cases a with
  | silence | present => simp [hattached]
  | alert =>
    dsimp only
    split
    · rw [take_haltRequest_of_not _ _ _ rfl, hattached]
      simp
    · simp [hattached]
  | garbled =>
    have hclass : (attachedEvents x cfg e).halting .addressClash = e.haltEnable.getLsbD 6 := by
      rw [halting_congr (attachedEvents_haltEnable x cfg e)]
      rfl
    dsimp only
    split
    · next hx =>
      cases hh : e.haltEnable.getLsbD 6 with
      | false =>
        rw [take_haltRequest_of_not _ _ _ (hclass.trans hh), hattached]
        simp
      | true =>
        rw [take_haltRequest_of_halting _ _ _ (hclass.trans hh)]
        simp [hx]
    · next hx => simp [hattached, hx]

/-! ### The statement -/

section

variable {p q : Prop} [Decidable p] [Decidable q] {a : CensusAnswer} (hp : p ↔ a = .alert) (hq : q ↔ a = .garbled)
include hp hq

theorem heardEvents_eq (x : Station) (cfg : HostConfig) (e : EventUnit) : heardEvents a x cfg e =
    if p ∧ x.alert = false then (attachedEvents x cfg e).take cfg .stationAlert
    else if q ∧ x.clash = false then (attachedEvents x cfg e).take cfg .addressClash
    else attachedEvents x cfg e := by
  simp only [hp, hq]
  cases a <;> simp [heardEvents]

theorem heardEntry_eq (x : Station) : heardEntry a x =
    { presence := if x.presence = .absent then .present else x.presence, silent := 0
      streak := if x.presence = .absent then 0 else x.streak
      alert := x.alert || decide p, clash := x.clash || decide q, answered := true } := by
  simp only [hp, hq]
  rfl

end

/-- Settles O44: the slot leaves the state `heard` (`applyCensus_heard`), and a halting clash its halt request
(`heardEvents_haltRequest`), which is taken. -/
theorem censusAnswersMakeAStationPresent : Obligations.CensusAnswersMakeAStationPresent := by
  unfold Obligations.CensusAnswersMakeAStationPresent
  intro i v s hl hr hm hn hh htxn hv alert garbled x cfg e1 e2 y u halts
  have halert : alert ↔ readSlot v = .alert := (readSlot_alert_iff v).symm
  have hgarbled : garbled ↔ readSlot v = .garbled := by
    rw [readSlot_garbled_iff]
    exact ⟨fun h => ⟨hv, h⟩, And.right⟩
  have hsilence : readSlot v ≠ .silence := fun h => hv ((readSlot_silence_iff v).mp h)
  have he : heardEvents (readSlot v) x cfg s.eu = e2 := heardEvents_eq halert hgarbled x cfg s.eu
  have hy : heardEntry (readSlot v) x = y := heardEntry_eq halert hgarbled x
  have hu : u.eu.haltRequest = true ↔ halts := by
    change e2.haltRequest = true ↔ _
    rw [← he, heardEvents_haltRequest hh, ← hgarbled]
  have hexec : exec (.censusSlotEnd i v) s = .next (haltTaken u) := by
    refine (execCensusSlotEnd_due hl hr hm hn).trans (congrArg _ ?_)
    rw [applyCensus_heard hsilence]
    change haltTaken { s.setStation i (heardEntry (readSlot v) x) with
      fs := _, le := _, eu := heardEvents (readSlot v) x cfg s.eu } = _
    rw [he, hy]
    rfl
  have hline : u.le.txn = none := htxn
  have hsame : u.sc.state = s.sc.state := rfl
  refine ⟨fun hno => hexec.trans (congrArg _ ?_), fun hyes hg => hexec.trans (congrArg _ ?_),
    fun hyes hg => hexec.trans (congrArg _ ?_)⟩
  · rw [← takeHaltRequests_eq]
    exact takeHaltRequests_none (Bool.eq_false_iff.mpr (mt hu.mp hno))
  · unfold haltTaken
    dsimp only
    rw [if_neg (by rw [hu.mpr hyes]; nofun), hsame, if_pos hg, if_pos hline]
    rfl
  · unfold haltTaken
    dsimp only
    rw [if_neg (by rw [hu.mpr hyes]; nofun), hsame, hg, if_neg (by decide), if_neg (by decide)]

end Sys2Proof.Machine
end


section
/-! PROOF. The moments of a transaction (R82, R83, R87). -/

namespace Sys2Proof.Machine

/-- A happening of the running timer that has not passed its moment is due (log 2). -/
theorem timedAt_due {s : State} {moment : Nat} (hr : s.fs.running = true) (hm : s.fs.elapsed ≤ moment) :
    timedAt moment s = true := by rw [timedAt, hr, Bool.true_and, decide_eq_true hm]

section

variable {s : State} {t : Txn} (ht : s.le.txn = some t) (hr : s.fs.running = true)
include ht hr

/-- The end of the REQUEST: a STORE sends its DATA, a FETCH waits for its answer (R83). -/
theorem execRequestEnd_due (hl : s.le.state = .requesting) (hm : s.fs.elapsed ≤ t.began + 58) :
    execRequestEnd s = .next ((s.setElapsed (t.began + 58)).setLine
      (if t.direction = .store then .sendingData else .awaitAnswer)) := by
  unfold execRequestEnd
  rw [if_pos hl, ht]
  dsimp only
  rw [if_pos (timedAt_due hr hm)]
  cases t.direction <;> rfl

/-- The end of the DATA of a STORE opens the answer window (R87). -/
theorem execStoreDataEnd_due (hl : s.le.state = .sendingData) (hm : s.fs.elapsed ≤ windowOpens t) :
    execStoreDataEnd s = .next ((s.setElapsed (windowOpens t)).setLine .awaitReply) := by
  unfold execStoreDataEnd
  rw [if_pos hl, ht]
  exact if_pos (timedAt_due hr hm)

/-- An answer within the reply timeout begins (R82). -/
theorem execAnswerBegins_due {delay : Nat} (hl : s.le.state = .awaitReply ∨ s.le.state = .awaitAnswer)
    (hb : t.answerBegan = none) (hd : delay ≤ s.sc.params.replyTimeout)
    (hm : s.fs.elapsed ≤ windowOpens t + delay) :
    execAnswerBegins delay s = .next (answerAt t (windowOpens t + delay) s) := by
  unfold execAnswerBegins
  rw [if_pos hl, ht]
  dsimp only
  rw [hb, if_neg nofun]
  exact if_pos ⟨hd, timedAt_due hr hm⟩

end

theorem answerAt_eq (t : Txn) (moment : Nat) (s : State) : answerAt t moment s = { s with
    fs := { s.fs with elapsed := moment }
    le := { s.le with
      state := if t.direction = .store then .awaitReply else .receiving
      txn := some { t with answerBegan := some moment } } } := by
  unfold answerAt
  cases t.direction <;> rfl

/-- Settles O46: each moment by the lemma of its command, with the opening of the answer window spelled out
(`windowOpens_eq`). -/
theorem transactionMomentsMoveTheLineEngine : Obligations.TransactionMomentsMoveTheLineEngine := by
  unfold Obligations.TransactionMomentsMoveTheLineEngine
  intro t delay s opens
  have hopens : windowOpens t = opens := windowOpens_eq t
  refine ⟨fun ht hr => ⟨fun hl hm => ?_, fun hl _ hm => ?_, fun hl hb hd hm => ?_⟩, fun hreply hanswer => ?_⟩
  · exact execRequestEnd_due ht hr hl hm
  · rw [← hopens] at hm ⊢
    exact execStoreDataEnd_due ht hr hl hm
  · rw [← hopens] at hm ⊢
    exact (execAnswerBegins_due ht hr hl hb hd hm).trans (congrArg _ (answerAt_eq t _ s))
  · exact if_neg fun h => h.elim hreply hanswer

end Sys2Proof.Machine
end


section
/-! PROOF. Sending and receiving agree (R78 to R81, R87, R91, R94, R96): the levels of a packet are read back byte by byte. -/

namespace Sys2Proof.Machine

/-! ### The levels of a list of bytes (R78) -/

theorem byteLevels_length (x : Byte) : (byteLevels x).length = 10 := rfl

theorem flatMap_byteLevels_length (bs : List Byte) : (bs.flatMap byteLevels).length = 10 * bs.length := by
  simp [List.length_flatMap, byteLevels_length, Nat.mul_comm]

theorem levels_length (p : Packet) : p.levels.length = 8 + 10 * p.bytes.length := by
  rw [Packet.levels, List.length_append, flatMap_byteLevels_length]
  rfl

/-- Bit time `j` of byte `i` in the levels of a list of bytes. -/
theorem flatMap_byteLevels_getD (bs : List Byte) {i j : Nat} (hi : i < bs.length) (hj : j < 10) :
    (bs.flatMap byteLevels).getD (10 * i + j) true = (byteLevels bs[i]).getD j true := by
  induction bs generalizing i with
  | nil => exact absurd hi (Nat.not_lt_zero i)
  | cons x bs ih =>
    have hx := byteLevels_length x
    rw [List.flatMap_cons]
    cases i with
    | zero =>
      rw [Nat.mul_zero, Nat.zero_add]
      exact List.getD_append _ _ _ _ (by omega)
    | succ i =>
      rw [List.getD_append_right _ _ _ _ (by omega), hx, show 10 * (i + 1) + j - 10 = 10 * i + j by omega]
      exact ih (Nat.lt_of_succ_lt_succ hi)

/-- The data bits of a byte make it up again. -/
theorem sum_testBit (v n : Nat) : ((List.range n).map fun j => if v.testBit j then 2 ^ j else 0).sum = v % 2 ^ n := by
  induction n with
  | zero => exact (Nat.mod_one v).symm
  | succ n ih =>
    rw [List.range_succ, List.map_append, List.sum_append, ih, Nat.mod_pow_succ, ← Nat.toNat_testBit]
    cases hb : v.testBit n <;> simp [hb]

/-! ### A packet as it is received (R81) -/

section

variable {p : Packet}

theorem levelAt_levels {i j : Nat} (hi : i < p.bytes.length) (hj : j < 10) :
    levelAt p.levels (8 + 10 * i + j) = (byteLevels p.bytes[i]).getD j true := by
  rw [← flatMap_byteLevels_getD p.bytes hi hj, levelAt, Packet.levels, Nat.add_assoc,
    List.getD_append_right _ _ _ _ (Nat.le_add_right 8 _)]
  exact congrArg (List.getD _ · true) (Nat.add_sub_cancel_left 8 _)

theorem startOk_levels (p : Packet) : startOk p.levels = true := decide_eq_true rfl

theorem framedAt_levels {i : Nat} (hi : i < p.bytes.length) : framedAt p.levels i = true := by
  have hstart : levelAt p.levels (8 + 10 * i) = false := levelAt_levels hi (show 0 < 10 by decide)
  have hstop : levelAt p.levels (8 + 10 * i + 9) = true := levelAt_levels hi (show 9 < 10 by decide)
  rw [framedAt, hstart, hstop]
  rfl

theorem byteLevels_dataBit (x : Byte) {j : Nat} (hj : j < 8) : (byteLevels x).getD (1 + j) true = x.getLsbD j := by
  interval_cases j <;> rfl

theorem byteAt_levels {i : Nat} (hi : i < p.bytes.length) : byteAt p.levels i = p.bytes[i] := by
  have hbit : ∀ j ∈ List.range 8, (if levelAt p.levels (8 + 10 * i + 1 + j) then 2 ^ j else 0) =
      if (p.bytes[i]).toNat.testBit j then 2 ^ j else 0 := fun j hj => by
    have hj : j < 8 := List.mem_range.mp hj
    rw [Nat.add_assoc, levelAt_levels hi (show 1 + j < 10 by omega), byteLevels_dataBit _ hj]
    rfl
  rw [byteAt, List.map_congr_left hbit, sum_testBit, Nat.mod_eq_of_lt p.bytes[i].isLt, BitVec.ofNat_toNat,
    BitVec.setWidth_eq]

theorem receivedBytes_levels {n : Nat} (hn : n ≤ p.bytes.length) : receivedBytes p.levels n = p.bytes.take n := by
  refine List.ext_getElem (by simp [receivedBytes, hn]) fun i hi _ => ?_
  have hi : i < n := by simpa [receivedBytes] using hi
  simp [receivedBytes, byteAt_levels (Nat.lt_of_lt_of_le hi hn)]

theorem bytes_length (p : Packet) : p.bytes.length = p.body.length + 2 := List.length_append

/-- A packet is received well-formed: its check bytes are those of its body (R79, R81). -/
theorem wellFormedRx_levels (p : Packet) : wellFormedRx p.levels p.bytes.length = true := by
  have hlen := bytes_length p
  have hframes : (List.range p.bytes.length).all (framedAt p.levels) = true :=
    List.all_eq_true.mpr fun i hi => framedAt_levels (List.mem_range.mp hi)
  have hbody : receivedBytes p.levels (p.bytes.length - 2) = p.body := by
    rw [receivedBytes_levels (Nat.sub_le ..), hlen, Nat.add_sub_cancel]
    exact List.take_left
  have hcheck : checkBytes p.body =
      [byteAt p.levels (p.bytes.length - 2), byteAt p.levels (p.bytes.length - 1)] := by
    rw [byteAt_levels (by omega), byteAt_levels (by omega)]
    simp [Packet.bytes, checkBytes]
  rw [wellFormedRx, startOk_levels, hframes, hbody, hcheck]
  simp

end

/-! ### A DATA packet (R80, R91, R94) -/

section

variable (seq : Bool) (payload : List Byte)

theorem data_bytes_length : (Packet.data seq payload).bytes.length = 4 + payload.length := by
  rw [bytes_length, Packet.body, List.length_cons, List.length_cons]
  omega

theorem data_header : byteAt (Packet.data seq payload).levels 0 = headerByte 6 seq.toNat :=
  byteAt_levels (by rw [data_bytes_length]; omega)

theorem data_framed : framedAt (Packet.data seq payload).levels 1 = true :=
  framedAt_levels (by rw [data_bytes_length]; omega)

theorem data_kind : kindOf (byteAt (Packet.data seq payload).levels 0) = 6 := by
  rw [data_header]
  cases seq <;> rfl

theorem data_seq : (byteAt (Packet.data seq payload).levels 0).getLsbD 0 = seq := by
  rw [data_header]
  cases seq <;> rfl

theorem data_wellFormed : wellFormedRx (Packet.data seq payload).levels (4 + payload.length) = true :=
  data_bytes_length seq payload ▸ wellFormedRx_levels (.data seq payload)

/-- The payload is read back as it was sent. -/
theorem rxPayload_data : rxPayload (Packet.data seq payload).levels payload.length = payload := by
  refine List.ext_getElem (by simp [rxPayload]) fun i hi hp => ?_
  have hlt : 2 + i < (Packet.data seq payload).bytes.length := by
    rw [data_bytes_length]
    omega
  simp only [rxPayload, List.getElem_map, List.getElem_range, byteAt_levels hlt]
  simp [Packet.bytes, Packet.body, Nat.add_comm 2 i, List.getElem_append_left hp]

variable {seq payload}

theorem data_lengthByte (hk : payload.length < 256) :
    (byteAt (Packet.data seq payload).levels 1).toNat = payload.length := by
  have hbyte : byteAt (Packet.data seq payload).levels 1 = BitVec.ofNat 8 payload.length :=
    byteAt_levels (by rw [data_bytes_length]; omega)
  rw [hbyte, BitVec.toNat_ofNat, Nat.mod_eq_of_lt hk]

/-- A DATA within the requested length is received whole (R91). -/
theorem fetchAnswer_data {m : Nat} (hk : payload.length < 256) (hm : payload.length ≤ m) :
    fetchAnswer m (Packet.data seq payload).levels = (.data payload.length seq, 48 + 10 * payload.length) := by
  unfold fetchAnswer
  dsimp only
  rw [if_pos (data_kind ..), if_pos (data_framed ..), data_lengthByte hk, if_pos hm, if_pos (data_wellFormed ..), data_seq]

/-- A longer DATA is OVERLENGTH at the end of the requested bytes (R94). -/
theorem fetchAnswer_overlength {m : Nat} (hk : payload.length < 256) (hm : m < payload.length) :
    fetchAnswer m (Packet.data seq payload).levels = (.overlength, 48 + 10 * m) := by
  unfold fetchAnswer
  dsimp only
  rw [if_pos (data_kind ..), if_pos (data_framed ..), data_lengthByte hk, if_neg (Nat.not_le.mpr hm)]

end

/-! ### A REPLY packet (R87, R96) -/

theorem reply_bytes_length (c : ReplyCode) : (Packet.reply c).bytes.length = 3 := rfl

theorem reply_header (c : ReplyCode) : byteAt (Packet.reply c).levels 0 = headerByte 7 c.code :=
  byteAt_levels (by rw [reply_bytes_length]; decide)

theorem reply_kind (c : ReplyCode) : kindOf (byteAt (Packet.reply c).levels 0) = 7 := by
  rw [reply_header]
  cases c <;> rfl

/-- The code of a REPLY is read back as it was sent. -/
theorem shortAnswer_reply (c : ReplyCode) : shortAnswer (Packet.reply c).levels = .reply c := by
  have hformed : wellFormedRx (Packet.reply c).levels 3 = true := wellFormedRx_levels (.reply c)
  unfold shortAnswer
  rw [if_pos hformed, if_pos (reply_kind c), reply_header]
  cases c <;> rfl

/-- A REPLY ACCEPT is no answer to a FETCH (R96). -/
theorem fetchAnswer_accept (m : Nat) : fetchAnswer m (Packet.reply .accept).levels = (.check true, 38) := by
  unfold fetchAnswer
  rw [if_neg (by rw [reply_kind]; decide), shortAnswer_reply]

theorem fetchAnswer_reply (m : Nat) {c : ReplyCode} (hc : c ≠ .accept) :
    fetchAnswer m (Packet.reply c).levels = (.reply c, 38) :=
  fetchAnswer_short (by rw [reply_kind]; decide) (shortAnswer_reply c) fun h => hc (Answer.reply.inj h)

/-- Settles O48: the levels of a packet are read back byte by byte (`byteAt_levels`) and are well-formed
(`wellFormedRx_levels`). -/
theorem packetsReadBackAsSent : Obligations.PacketsReadBackAsSent := by
  unfold Obligations.PacketsReadBackAsSent
  refine ⟨fun m seq payload hk => ⟨?_, fun hm => ⟨fetchAnswer_data hk hm, rxPayload_data seq payload⟩,
    fetchAnswer_overlength hk⟩, fun m c => ⟨?_, shortAnswer_reply c, fetchAnswer_reply m, ?_⟩⟩
  · rw [levels_length, data_bytes_length]
    omega
  · rw [levels_length, reply_bytes_length]
  · rintro rfl
    exact fetchAnswer_accept m

end Sys2Proof.Machine
end

section
/-! PROOF. The reception of a DATA packet into the buffer of its transaction (R78 to R81, R91). -/

namespace Sys2Proof.Machine

/-- Bytes written from a byte on: each place from there that they reach holds its byte, and the others are as they were. -/
theorem getElem_writeBytes (d : Vector Byte 64) (start : Nat) (bytes : List Byte) (i : Fin 64) :
    (writeBytes d start bytes)[i] = if start ≤ i.val then bytes.getD (i.val - start) d[i] else d[i] := by
  have key : ∀ (bytes : List Byte) (k : Nat) (d : Vector Byte 64),
      ((bytes.zipIdx k).foldl (fun v x => v.setIfInBounds (start + x.2) x.1) d)[i] =
        if start + k ≤ i.val then bytes.getD (i.val - (start + k)) d[i] else d[i] := by
    intro bytes
    induction bytes with
    | nil => intro k d; exact (ite_self _).symm
    | cons x bytes ih =>
      intro k d
      rw [List.zipIdx_cons, List.foldl_cons, ih]
      simp only [Fin.getElem_fin, Vector.getElem_setIfInBounds]
      rcases Nat.lt_trichotomy i.val (start + k) with h | h | h
      · rw [if_neg (by omega), if_neg (by omega), if_neg (by omega)]
      · rw [if_neg (by omega), if_pos h.symm, if_pos (by omega),
          show i.val - (start + k) = 0 by omega]
        rfl
      · rw [if_pos (by omega), if_neg (by omega), if_pos (by omega),
          show i.val - (start + k) = (i.val - (start + (k + 1))) + 1 by omega]
        rfl
  exact key bytes 0 d

/-- The state in which a DATA of `k` bytes waits to be acknowledged, with the bytes `d` in the buffer. -/
def dataHeld (t : Txn) (k : Nat) (seq : Bool) (moment : Nat) (d : Vector Byte 64) (s : State) : State := { s with
  bp := (s.setBuffer t.buffer { s.buffer t.buffer with data := d }).bp
  fs := { s.fs with elapsed := moment }
  le := { s.le with state := .acknowledging, txn := some { t with received := some (k, seq) } } }

theorem dataHeld_data (t : Txn) (k : Nat) (seq : Bool) (moment : Nat) (d : Vector Byte 64) (s : State) :
    ((dataHeld t k seq moment d s).buffer t.buffer).data = d :=
  congrArg Buffer.data (State.buffer_setBuffer_same s t.buffer _)

theorem receiveData_eq (t : Txn) (k : Nat) (seq : Bool) (payload : List Byte) (moment : Nat) (s : State) :
    receiveData t k seq payload moment s = dataHeld t k seq moment (writeBytes (s.buffer t.buffer).data 0 payload) s := rfl

/-- A DATA within the requested length is received at the end of its reception (R91). -/
theorem execDataReceived_due {s : State} {t : Txn} {a k length : Nat} {seq : Bool} {levels : List Bool}
    (hl : s.le.state = .receiving) (ht : s.le.txn = some t) (hb : t.answerBegan = some a)
    (hf : fetchAnswer t.requested levels = (.data k seq, length)) (hr : s.fs.running = true)
    (hm : s.fs.elapsed ≤ a + length) :
    execDataReceived levels s = .next (receiveData t k seq (rxPayload levels k) (a + length) s) := by
  unfold execDataReceived
  rw [if_pos hl, ht]
  dsimp only
  rw [hb]
  dsimp only
  rw [hf]
  exact if_pos (timedAt_due hr hm)

/-- Settles O47: the packet is read back as it was sent (`fetchAnswer_data`, `rxPayload_data`), and its payload is written
from the first byte of the buffer on (`getElem_writeBytes`). -/
theorem fetchDataIsReceivedIntoTheBuffer : Obligations.FetchDataIsReceivedIntoTheBuffer := by
  unfold Obligations.FetchDataIsReceivedIntoTheBuffer
  intro t a seq payload s hl ht hb hk h64 hr hm
  have hexec := execDataReceived_due hl ht hb (fetchAnswer_data (seq := seq) (by omega) hk) hr (by omega)
  rw [rxPayload_data, receiveData_eq, ← Nat.add_assoc] at hexec
  refine ⟨_, hexec, congrArg (dataHeld t _ seq _ · s) (dataHeld_data ..).symm, fun i => ?_⟩
  rw [dataHeld_data, getElem_writeBytes, if_pos (Nat.zero_le _), Nat.sub_zero]

end Sys2Proof.Machine
end

section
/-! PROOF. The commands that move the segment, and SET SEGMENT PARAMETERS (R106, R107, R112, R116, R122). -/

namespace Sys2Proof.Machine

/-! ### What a segment command answers (R106, R189) -/

section

variable {s t : State} {f : State → State × Reply} (code : BitVec 8) (hd : deaf s = false)
include hd

/-- A command that its checks refuse. -/
theorem command_refused {c : ResultCode} (hf : f s = refuse c s) :
    command code f s = .next { s with hw := answeredWindow s.hw code c.code 0 0 0 } := by
  rw [command_eq _ _ _ hd, hf]
  exact congrArg _ (writeResult_refusal code c s)

/-- A segment command that is carried out answers with the segment state after it. -/
theorem command_segReply {g : SegState} (hf : f s = (t, segReply t)) (hg : t.sc.state = g) (ht : t.hw = s.hw) :
    command code f s = .next { t with hw := answeredWindow s.hw code 0 g.code 0 0 } := by
  have hv : (segReply t).value < 256 := by
    unfold segReply
    cases t.sc.state <;> decide
  rw [command_eq _ _ _ hd, hf]
  dsimp only
  rw [writeResult_eq _ _ hv, ht, ← hg]
  rfl

end

/-! ### The states in which a segment command is taken (R106) -/

theorem segServes_iff (s : State) : segServes s = true ↔ s.sc.state ∈ [SegState.running, .suspending] := by
  simp only [segServes, Bool.or_eq_true, decide_eq_true_iff, List.mem_cons, List.not_mem_nil, or_false]

theorem resetTaken_iff (g : SegState) :
    resetTaken g = true ↔ g ∈ [SegState.running, .halting, .halted, .suspending, .suspended] := by
  cases g <;> decide

/-- STOP SEGMENT is taken in every state but DOWN. -/
theorem eq_down_of_not_stopped {g : SegState}
    (hg : g ∉ [SegState.resetting, .running, .halting, .halted, .suspending, .suspended, .waking]) : g = .down := by
  revert hg
  cases g <;> decide

/-- Settles O28: each command looks at the segment state first, and refuses where its row of the table has no entry
(`command_refused`). -/
theorem segmentCommandsCheckTheState : Obligations.SegmentCommandsCheckTheState := by
  unfold Obligations.SegmentCommandsCheckTheState
  intro code c taken s hrow hd hg
  have hno (code : BitVec 8) {f : State → State × Reply} (hf : f s = refuse .wrongSegmentState s) :
      command code f s = .next { s with hw := answeredWindow s.hw code 0x1A 0 0 0 } :=
    command_refused code hd (c := .wrongSegmentState) hf
  simp only [List.mem_cons, List.not_mem_nil, or_false, Prod.mk.injEq] at hrow
  rcases hrow with ⟨rfl, rfl, rfl⟩ | ⟨rfl, rfl, rfl⟩ | ⟨rfl, rfl, rfl⟩ | ⟨rfl, rfl, rfl⟩ | ⟨rfl, rfl, rfl⟩ |
    ⟨rfl, rfl, rfl⟩ | ⟨rfl, rfl, rfl⟩
  · exact hno 0x21 (f := startSegment) (if_neg fun h => hg (List.mem_singleton.mpr h))
  · exact hno 0x23 (f := resetSegment) (if_neg fun h => hg ((resetTaken_iff _).mp h))
  · exact hno 0x22 (f := stopSegment) (if_pos (eq_down_of_not_stopped hg))
  · exact hno 0x24 (f := haltSegment) (if_neg fun h => hg ((segServes_iff s).mp h))
  · exact hno 0x25 (f := resumeSegment) (if_neg fun h => hg (List.mem_singleton.mpr h))
  · exact hno 0x26 (f := suspendSegment) (if_neg fun h => hg (List.mem_singleton.mpr h))
  · exact hno 0x27 (f := wakeSegment) (if_neg fun h => hg (List.mem_singleton.mpr h))

/-! ### START SEGMENT (R107, R108) -/

/-- Settles O21: the entry is `enterResettingCore`, and a dropped suspend is forgotten. -/
theorem startSegmentEntersResetting : Obligations.StartSegmentEntersResetting := by
  unfold Obligations.StartSegmentEntersResetting
  intro s hd hg
  obtain ⟨-, hpoints, hstations⟩ := enterResettingCore_entered s
  have hstart : startSegment s = (enterResettingByStart s, segReply (enterResettingByStart s)) := if_pos hg
  exact ⟨_, command_segReply 0x21 hd hstart rfl (enterResettingByStart_hw s), rfl, hpoints, hstations⟩

/-! ### HALT SEGMENT (R112) -/

/-- With a transaction in flight the segment waits in HALTING. -/
theorem enterHalting_waits {s : State} (hn : s.le.txn ≠ none) : enterHalting s = { s with
    sc := { s.sc with
      state := .halting, suspendDropped := s.sc.suspendDropped || decide (s.sc.state = .suspending) }
    fs := { s.fs with due := [] } } := if_pos (txnInFlight_some hn)

/-- With none it is HALTED at once. -/
theorem enterHalting_halts {s : State} (hn : s.le.txn = none) : enterHalting s = { s with
    sc := { s.sc with
      state := .halted, haltPending := false
      suspendDropped := s.sc.suspendDropped || decide (s.sc.state = .suspending) }
    fs := { s.fs with due := [] }
    eu := s.eu.take s.hw.config .segmentChanged } := if_neg (ne_true_of_eq_false (txnInFlight_none hn))

/-- Settles O25: HALT SEGMENT is the entry to HALTING, which goes on to HALTED where nothing is in flight. -/
theorem haltSegmentHaltsOrWaits : Obligations.HaltSegmentHaltsOrWaits := by
  unfold Obligations.HaltSegmentHaltsOrWaits
  intro s hd hg dropped
  have hserves : segServes s = true := by simpa only [segServes, Bool.or_eq_true, decide_eq_true_iff] using hg
  have hhalt : haltSegment s = (enterHalting s, segReply (enterHalting s)) := if_pos hserves
  refine ⟨fun hn => ?_, fun hn => ?_⟩
  · rw [enterHalting_halts hn] at hhalt
    exact command_segReply (g := .halted) 0x24 hd hhalt rfl rfl
  · rw [enterHalting_waits hn] at hhalt
    exact command_segReply (g := .halting) 0x24 hd hhalt rfl rfl

/-! ### RESUME SEGMENT (R116, R121) -/

theorem ChoiceOnly.sc_eq {s t : State} (h : ChoiceOnly s t) : t.sc = s.sc := by
  rcases h.eq_or_begins with rfl | ⟨p, f, ⟨_, _, _, _, ht, _⟩, -⟩
  · rfl
  · rw [ht]

/-- Settles O26: the segment is RUNNING before the scheduler chooses, and the choice leaves it so. -/
theorem resumeSegmentRunsUnlessMoverFaulted : Obligations.ResumeSegmentRunsUnlessMoverFaulted := by
  unfold Obligations.ResumeSegmentRunsUnlessMoverFaulted
  intro s hd hg
  refine ⟨fun hm => ?_, fun hm => ?_⟩
  · exact command_refused (f := resumeSegment) (c := .moverFaulted) 0x25 hd ((if_pos hg).trans (if_pos hm))
  · have hresume : resumeSegment s = _ := (if_pos hg).trans (if_neg hm)
    have hchoice := choose_only (raise .segmentChanged (s.setSeg .running))
    have hrunning := congrArg SegmentControl.state hchoice.sc_eq
    exact ⟨_, command_segReply 0x25 hd hresume hrunning hchoice.hw_eq, hchoice.withWindow _⟩

/-! ### SET SEGMENT PARAMETERS (R122, R193) -/

theorem getLsbD_place (n lo i : Nat) :
    (place n lo).getLsbD i = (decide (i < 32) && (decide (lo ≤ i) && n.testBit (i - lo))) := by
  rw [place, BitVec.getLsbD_ofNat, Nat.testBit_mul_two_pow]

/-- A field put back in its place is what the word holds there. -/
theorem place_field (w : Word) (lo len : Nat) : place (field w lo len) lo = w &&& place (2 ^ len - 1) lo := by
  refine BitVec.eq_of_getLsbD_eq fun i hi => ?_
  rw [BitVec.getLsbD_and, getLsbD_place, getLsbD_place, field, Nat.testBit_mod_two_pow, Nat.testBit_div_two_pow,
    Nat.testBit_two_pow_sub_one]
  by_cases hlo : lo ≤ i
  · rw [Nat.sub_add_cancel hlo, decide_eq_true hi, decide_eq_true hlo, Bool.true_and, Bool.true_and, Bool.true_and,
      Bool.true_and, Bool.and_comm]
    rfl
  · rw [decide_eq_false hlo, Bool.false_and, Bool.false_and, Bool.and_false, Bool.and_false]

/-- The four fields of the first word fill it. -/
theorem paramsOperand_word0 (s : State) : (paramsOperand s).word0 = s.param 0 := by
  have hfull : (place (2 ^ 16 - 1) 0 ||| place (2 ^ 8 - 1) 16 ||| place (2 ^ 4 - 1) 24 ||| place (2 ^ 4 - 1) 28 : Word) =
      BitVec.allOnes 32 := by decide
  unfold SegParams.word0 paramsOperand
  dsimp only
  rw [place_field, place_field, place_field, place_field, ← BitVec.and_or_distrib_left, ← BitVec.and_or_distrib_left,
    ← BitVec.and_or_distrib_left, hfull, BitVec.and_allOnes]

theorem bitRate_code_ofCode (n : Nat) : (BitRate.ofCode n).code = n % 4 := by
  have hn : n % 4 < 4 := Nat.mod_lt _ (by decide)
  unfold BitRate.ofCode
  interval_cases n % 4 <;> rfl

theorem placeBit_bitAt (w : Word) (i : Nat) : placeBit (bitAt w i) i = place (field w i 1) i := by
  unfold placeBit field bitAt
  rw [BitVec.getLsbD, Nat.testBit_eq_decide_div_mod_eq]
  rcases Nat.mod_two_eq_zero_or_one (w.toNat / 2 ^ i) with h | h <;> rw [Nat.pow_one, h] <;> rfl

/-- The second word holds auto wake and the bit rate, and zeros elsewhere. -/
theorem paramsOperand_word1 (s : State) : (paramsOperand s).word1 = s.param 1 &&& 0x31#32 := by
  have hrate : field (s.param 1) 4 2 % 4 = field (s.param 1) 4 2 := Nat.mod_mod _ _
  have hmask : (place (2 ^ 1 - 1) 0 ||| place (2 ^ 2 - 1) 4 : Word) = 0x31#32 := by decide
  unfold SegParams.word1 paramsOperand
  dsimp only
  rw [bitRate_code_ofCode, hrate, placeBit_bitAt, place_field, place_field, ← BitVec.and_or_distrib_left, hmask]

/-- The upper bounds of R122 are those of the fields themselves. -/
theorem paramsOperand_inRange_iff (s : State) : (paramsOperand s).inRange = true ↔
    1280 ≤ (s.param 0).toNat % 65536 ∧ 16 ≤ (s.param 0).toNat / 65536 % 256 ∧
      1 ≤ (s.param 0).toNat / 2 ^ 24 % 16 ∧ 1 ≤ (s.param 0).toNat / 2 ^ 28 % 16 := by
  unfold SegParams.inRange
  rw [decide_eq_true_iff]
  unfold paramsOperand field
  dsimp only
  omega

/-- Settles O20: the three checks in turn; the words returned are read back from the parameters in force
(`paramsOperand_word0`, `paramsOperand_word1`). -/
theorem setSegmentParametersChecksAndReturns : Obligations.SetSegmentParametersChecksAndReturns := by
  unfold Obligations.SetSegmentParametersChecksAndReturns
  intro s hd p0 p1 legal refused
  have hlegal : (paramsOperand s).inRange = true ↔ legal := paramsOperand_inRange_iff s
  have hexec : exec .setSegmentParameters s =
      .next (writeResult 0x20 (setSegmentParameters s).2 (setSegmentParameters s).1) :=
    command_eq 0x20 setSegmentParameters s hd
  have hrefused (c : ResultCode) (h : setSegmentParameters s = (s, ⟨c, 0, s.sc.params.word0, s.sc.params.word1⟩)) :
      exec .setSegmentParameters s = .next (refused c.code) := by
    rw [hexec, h]
    exact congrArg _ (writeResult_eq _ _ (show 0 < 256 by decide) s)
  refine ⟨fun hg => hrefused .wrongSegmentState (if_neg hg), fun hg hl => hrefused .badParameter ?_,
    fun hg hl hp => hrefused .periodicActive ?_, fun hg hl hp => ⟨paramsOperand s, ?_, ?_⟩⟩
  · exact (if_pos hg).trans (if_neg (hlegal.not.mpr hl))
  · exact (if_pos hg).trans ((if_pos (hlegal.mpr hl)).trans (if_neg hp))
  · have hset : setSegmentParameters s = _ := (if_pos hg).trans ((if_pos (hlegal.mpr hl)).trans (if_pos hp))
    rw [hexec, hset]
    refine congrArg _ ((writeResult_eq _ _ (show 0 < 256 by decide) _).trans ?_)
    dsimp only
    rw [paramsOperand_word0, paramsOperand_word1]
    rfl
  · have hrate : (paramsOperand s).bitRate.code = p1.toNat / 16 % 4 :=
      (bitRate_code_ofCode _).trans (Nat.mod_mod _ _)
    simp only [paramsOperand, field, Nat.pow_zero, Nat.div_one] at hrate ⊢
    exact ⟨rfl, rfl, rfl, rfl, rfl, hrate⟩

end Sys2Proof.Machine
end

section
/-! PROOF. RESUME MOVER and RESET CONTROLLER (R139, R140, R150, R152, R195, R196). -/

namespace Sys2Proof.Machine

/-! ### RESUME MOVER (R150) -/

/-- The mover IDLE with its fault record gone, before it takes a job. -/
def faultCleared (s : State) : State := { s with pm := { s.pm with state := .idle, faultRecord := none } }

theorem faultCleared_served (s : State) :
    MoverServed (faultCleared s) (takeJob (faultCleared s)) s.pm.stageQueue := takeJob_served _ rfl rfl

theorem takeJob_buffer (s : State) (b : BufId) : (takeJob s).buffer b = s.buffer b := by
  rw [takeJob_blocks]
  rfl

/-- In FAULTED the mover takes a job, and the value is its state then. -/
theorem exec_resumeMover_faulted {s : State} {g : MoverState} (hd : deaf s = false) (hf : s.pm.state = .faulted)
    (hg : (takeJob (faultCleared s)).pm.state = g) :
    exec .resumeMover s = .next { s with
      pm := (takeJob (faultCleared s)).pm, hw := answeredWindow s.hw 0x30 0 g.code 0 0 } := by
  have hexec : exec .resumeMover s = .next (writeResult 0x30 (resumeMover s).2 (resumeMover s).1) :=
    command_eq 0x30 resumeMover s hd
  have hresume : resumeMover s = (takeJob (faultCleared s), ⟨.ok, (takeJob (faultCleared s)).pm.state.code, 0, 0⟩) :=
    if_pos hf
  have hvalue : g.code < 256 := by cases g <;> decide
  rw [hexec, hresume, hg]
  dsimp only
  rw [writeResult_eq _ _ hvalue, takeJob_blocks]
  rfl

/-- Settles O30: the mover, IDLE again, is served as at the end of any happening (`takeJob_served`). -/
theorem resumeMoverClearsTheFault : Obligations.ResumeMoverClearsTheFault := by
  unfold Obligations.ResumeMoverClearsTheFault
  intro s hd
  have hserved := faultCleared_served s
  refine ⟨fun hf => ?_, fun hf hdrain hstage => ?_, fun k b drains stages hf hqueues => ?_⟩
  · exact command_refused (f := resumeMover) (c := .notFaulted) 0x30 hd (if_neg hf)
  · have hidle := hserved.waits (.inr ⟨hdrain, hstage⟩)
    refine (exec_resumeMover_faulted hd hf (g := .idle) (by rw [hidle]; rfl)).trans ?_
    rw [hidle]
    rfl
  · have hjob : JobTaken { s.pm with faultRecord := none } s.hw.config.maxWords k b (s.buffer b) drains stages
        (takeJob (faultCleared s)).pm := by
      have hbuffer := takeJob_buffer (faultCleared s) b
      rcases hqueues with ⟨rfl, hdrain, rfl⟩ | ⟨rfl, hdrain, rfl, hstage⟩
      · exact hbuffer ▸ hserved.drain b drains rfl hdrain
      · exact hbuffer ▸ hserved.stage b stages rfl hdrain hstage
    have hwaits : (takeJob (faultCleared s)).pm.state = .waitGrant := by
      obtain ⟨j, u, hpm, -⟩ := hjob
      rw [hpm]
    exact ⟨_, exec_resumeMover_faulted hd hf hwaits, rfl, hjob⟩

/-! ### RESET CONTROLLER (R195, R196) -/

/-- The state in which a controller reset waits for the burst, after its result is written (R195). -/
def resetWaiting (s : State) : State := { s with
  le := LineEngine.reset
  sc := { s.sc with state := .down, waiting := .none }
  fs := { s.fs with running := false, due := [] }
  eu := { s.eu with attn := .released, alarm := .released }
  hw := { answeredWindow s.hw 0x5A 0 0 0 0 with access := { s.hw.access with resetPending := true } } }

theorem exec_resetController {s : State} (hd : deaf s = false) : exec .resetController s =
    .next (if s.pm.state = .burst then resetWaiting s else completeReset (resetWaiting s)) := by
  have hexec : exec .resetController s = .next (beginReset (writeResult 0x5A (Reply.plain .ok) s)) :=
    windowWrite_eq s (fun s => beginReset (writeResult 0x5A (Reply.plain .ok) s)) hd
  rw [hexec, writeResult_plain]
  rfl

/-- While a controller reset is pending any answer to the burst completes it (R196). -/
theorem onAnswer_completesReset {s : State} (f : Job → Burst → State → Out) (hb : s.pm.state = .burst)
    (hr : s.hw.access.resetPending = true) : onAnswer f s = .next (completeReset s) :=
  (if_pos hb).trans (if_pos hr)

theorem exec_burstCompleted (w : Vector Word 16) (s : State) :
    exec (.burstCompleted w) s = execBurstCompleted w s := by rfl

theorem exec_burstCutShort (k : Nat) (w : Vector Word 16) (s : State) :
    exec (.burstCutShort k w) s = execBurstCutShort k w s := by rfl

theorem exec_answer_completesReset {s : State} (hb : s.pm.state = .burst) (hr : s.hw.access.resetPending = true)
    {w : Vector Word 16} {k : Nat} {c : Instr}
    (hc : c ∈ [Instr.burstCompleted w, .burstRetry, .burstCutShort k w, .burstError]) :
    exec c s = .next (completeReset s) := by
  simp only [List.mem_cons, List.not_mem_nil, or_false] at hc
  rcases hc with rfl | rfl | rfl | rfl
  · exact (exec_burstCompleted w s).trans (onAnswer_completesReset _ hb hr)
  · exact (exec_burstRetry s).trans (onAnswer_completesReset _ hb hr)
  · exact (exec_burstCutShort k w s).trans (onAnswer_completesReset _ hb hr)
  · exact (exec_burstError s).trans (onAnswer_completesReset _ hb hr)

theorem completeReset_buffer (s : State) (b : BufId) :
    (completeReset s).buffer b = { Buffer.reset with data := (s.buffer b).data } := getElem_mapTable ..

/-- Settles O31: outside a burst the reset completes at once, and in one any answer completes it
(`exec_answer_completesReset`); what a completed reset leaves is that of `completeReset`. -/
theorem resetControllerResetsOrWaits : Obligations.ResetControllerResetsOrWaits := by
  unfold Obligations.ResetControllerResetsOrWaits
  intro s hd fresh
  have hpin : s.hw.resetPin = false := (Bool.or_eq_false_iff.mp hd).1
  have hfresh : fresh (resetWaiting s) (completeReset (resetWaiting s)) := by
    refine ⟨rfl, rfl, rfl, rfl, rfl, rfl, rfl, rfl, ?_, rfl, completeReset_buffer _, rfl⟩
    rw [completeReset_hw, show (resetWaiting s).hw.resetPin = false from hpin]
    rfl
  have hexec := exec_resetController hd
  refine ⟨fun hb => ⟨_, hexec.trans (congrArg _ (if_neg hb)), hfresh⟩,
    fun hb => ⟨_, hexec.trans (congrArg _ (if_pos hb)), rfl, fun w k c hc => ?_⟩⟩
  exact ⟨_, exec_answer_completesReset (s := resetWaiting s) hb rfl hc, hfresh⟩

end Sys2Proof.Machine
end

section
/-! PROOF. The bus partner's answers short of a fault: the bytes of a burst, the next burst and the end of a job (R140 to
R146, R182). -/

namespace Sys2Proof.Machine

/-! ### The bytes and the lanes of a burst (R140, R182) -/

theorem drainBytes_eq {s : State} {j : Job} {b : Burst} (hjob : s.pm.job = some j) (hburst : s.pm.burst = some b)
    (hk : j.kind = .drain) : drainBytes s =
      (List.range b.bytes).map fun i => (s.buffer j.buffer).data.toList.getD (j.moved + i) 0 := by
  unfold drainBytes
  rw [hjob, hburst]
  dsimp only
  rw [hk]

/-- The bytes of a read burst stand from the first one not yet moved on, each from its lane. -/
theorem getElem_burstWritten (d : Vector Byte 64) (start n : Nat) (w : Vector Word 16) (a : Word) (i : Fin 64) :
    (writeBytes d start (burstBytes w a n))[i] =
      if start ≤ i.val ∧ i.val < start + n then laneByte w a.toNat (a.toNat + (i.val - start)) else d[i] := by
  rw [getElem_writeBytes]
  by_cases hi : start ≤ i.val
  · by_cases hn : i.val < start + n
    · have hlt : i.val - start < n := by omega
      rw [if_pos hi, if_pos ⟨hi, hn⟩, burstBytes, List.getD_eq_getElem _ _ (by simpa using hlt), List.getElem_map,
        List.getElem_range]
    · have hge : n ≤ i.val - start := by omega
      rw [if_pos hi, if_neg fun h => hn h.2, List.getD_eq_default _ _ (by simpa [burstBytes] using hge)]
  · rw [if_neg hi, if_neg fun h => hi h.1]

/-- A chosen burst of less than a word stays within its word. -/
theorem BurstChosen.within_word {m r : Nat} {a : Word} {u : Burst} (h : BurstChosen m a r u) (hu : u.bytes < 4) :
    a.toNat % 4 + u.bytes ≤ 4 := by
  obtain ⟨-, hpartial, -, -⟩ := h
  by_cases ha : a.toNat % 4 = 0
  · omega
  · have hbytes := (hpartial ha).2
    omega

/-- The enabled lanes are those of the bytes of the burst. -/
theorem burstEnables_lane {m r : Nat} {a : Word} {u : Burst} (h : BurstChosen m a r u) {lane : Nat} (hl : lane < 4) :
    (burstEnables u)[lane]? = some true ↔ ∃ i, i < u.bytes ∧ (u.addr.toNat + i) % 4 = lane := by
  have haddr : u.addr = a := h.1
  have hlane : (burstEnables u)[lane]? = some true ↔
      4 ≤ u.bytes ∨ u.addr.toNat % 4 ≤ lane ∧ lane < u.addr.toNat % 4 + u.bytes := by
    simp [burstEnables, List.getElem?_range hl]
  rw [hlane, haddr]
  constructor
  · rintro (hword | hpart)
    · exact ⟨(lane + 4 - a.toNat % 4) % 4, by omega, by omega⟩
    · exact ⟨lane - a.toNat % 4, by omega, by omega⟩
  · rintro ⟨i, hi, hmod⟩
    by_cases hword : 4 ≤ u.bytes
    · exact .inl hword
    · have := h.within_word (Nat.not_le.mp hword)
      exact .inr (by omega)

/-! ### The bytes move (R144, R145) -/

theorem State.setBuffer_self (s : State) (b : BufId) : s.setBuffer b (s.buffer b) = s := by
  simp [State.setBuffer, State.buffer]

/-- The buffer of a job with the bytes `d` in it, which a stage job alone changes. -/
def jobBuffer (j : Job) (d : Vector Byte 64) (s : State) : Buffer :=
  { s.buffer j.buffer with data := if j.kind = .stage then d else (s.buffer j.buffer).data }

theorem jobBuffer_drain {j : Job} (hk : j.kind = .drain) (d : Vector Byte 64) (s : State) :
    jobBuffer j d s = s.buffer j.buffer := by
  unfold jobBuffer
  rw [hk]
  rfl

theorem jobBuffer_stage {j : Job} (hk : j.kind = .stage) (d : Vector Byte 64) (s : State) :
    jobBuffer j d s = { s.buffer j.buffer with data := d } := by
  unfold jobBuffer
  rw [hk]
  rfl

/-- What a burst of a job writes into its buffer. -/
def burstWritten (j : Job) (n : Nat) (w : Vector Word 16) (s : State) : Vector Byte 64 :=
  writeBytes (s.buffer j.buffer).data j.moved (burstBytes w j.nextAddr n)

/-- The job with `n` bytes more moved. -/
def jobAdvanced (j : Job) (n : Nat) : Job :=
  { j with nextAddr := j.nextAddr + BitVec.ofNat 32 n, remaining := j.remaining - n, moved := j.moved + n, retries := 0 }

theorem countMoved_eq (j : Job) (n : Nat) (w : Vector Word 16) (s : State) : countMoved j n w s =
    { s.setBuffer j.buffer (jobBuffer j (burstWritten j n w s) s) with
      pm := { s.pm with job := some (jobAdvanced j n) } } := by
  obtain ⟨k, _⟩ := j
  cases k with
  | stage => rfl
  | drain =>
    rw [jobBuffer_drain rfl, State.setBuffer_self]
    rfl

/-- The mover asks for the next burst, chosen afresh. -/
theorem nextBurst_countMoved (j : Job) (n : Nat) (w : Vector Word 16) (s : State) : nextBurst (countMoved j n w s) =
    { s.setBuffer j.buffer (jobBuffer j (burstWritten j n w s) s) with
      pm := { s.pm with
        state := .waitGrant, job := some (jobAdvanced j n)
        burst := some (chooseBurst s.hw.config.maxWords (j.nextAddr + BitVec.ofNat 32 n) (j.remaining - n)) } } := by
  rw [countMoved_eq]
  rfl

/-! ### The end of a job (R141, R146) -/

/-- The job has ended with the bytes `d` in its buffer: they count, and the mover is IDLE. -/
def jobDone (j : Job) (d : Vector Byte 64) (s : State) : State :=
  { s.setSlot j.slot { s.slot j.slot with
      bytesMemory := (s.slot j.slot).bytesMemory + (s.buffer j.buffer).count } with
    pm := { s.pm with state := .idle, job := none, burst := none }
    bp := (s.setBuffer j.buffer (jobBuffer j d s)).bp }

theorem jobDone_buffer (j : Job) (d : Vector Byte 64) (s : State) (c : BufId) :
    (jobDone j d s).buffer c = if j.buffer = c then jobBuffer j d s else s.buffer c := State.buffer_setBuffer ..

theorem jobDone_slot (j : Job) (d : Vector Byte 64) (s : State) : (jobDone j d s).slot j.slot = { s.slot j.slot with
    bytesMemory := (s.slot j.slot).bytesMemory + (s.buffer j.buffer).count } := State.slot_setSlot_same ..

theorem countMemory_jobDone (j : Job) (n : Nat) (w : Vector Word 16) (s : State) :
    countMemory j.slot ((clearJob (countMoved j n w s)).buffer j.buffer).count (clearJob (countMoved j n w s)) =
      jobDone j (burstWritten j n w s) s := by
  have hbuffer : (clearJob (countMoved j n w s)).buffer j.buffer = jobBuffer j (burstWritten j n w s) s := by
    rw [countMoved_eq]
    exact State.buffer_setBuffer_same ..
  rw [hbuffer, countMoved_eq]
  rfl

/-- The exchange of a job goes on, so that its stage job leaves a STAGED buffer (R141). -/
def GoesOn (e : Slot) : Prop := e.state = .active ∧ e.cancelRequested = false

theorem endJob_stages {j : Job} {s : State} {n : Nat} {w : Vector Word 16} (hk : j.kind = .stage)
    (hg : GoesOn (s.slot j.slot)) : endJob j (countMoved j n w s) =
      choose (settle ((jobDone j (burstWritten j n w s) s).modBuffer j.buffer fun r => { r with state := .staged })) := by
  have hon : GoesOn ((jobDone j (burstWritten j n w s) s).slot j.slot) := by
    rw [jobDone_slot]
    exact hg
  have hend : stageJobEnd j (clearJob (countMoved j n w s)) =
      (jobDone j (burstWritten j n w s) s).modBuffer j.buffer fun r => { r with state := .staged } := by
    unfold stageJobEnd
    rw [countMemory_jobDone]
    exact if_pos hon
  unfold endJob
  rw [hk]
  exact congrArg (fun t => choose (settle t)) hend

theorem endJob_frees {j : Job} {s : State} {n : Nat} {w : Vector Word 16}
    (hg : ¬ (j.kind = .stage ∧ GoesOn (s.slot j.slot))) : endJob j (countMoved j n w s) =
      choose (settle (advanceOwner j.slot (freeBuffer j.buffer (jobDone j (burstWritten j n w s) s)))) := by
  unfold endJob
  cases hk : j.kind with
  | stage =>
    have hend : stageJobEnd j (clearJob (countMoved j n w s)) =
        advanceOwner j.slot (freeBuffer j.buffer (jobDone j (burstWritten j n w s) s)) := by
      unfold stageJobEnd
      rw [countMemory_jobDone]
      refine if_neg fun hon => hg ⟨hk, ?_⟩
      rw [jobDone_slot] at hon
      exact hon
    exact congrArg (fun t => choose (settle t)) hend
  | drain =>
    have hend : drainJobEnd j (clearJob (countMoved j n w s)) =
        advanceOwner j.slot (freeBuffer j.buffer (jobDone j (burstWritten j n w s) s)) := by
      unfold drainJobEnd
      rw [countMemory_jobDone]
    exact congrArg (fun t => choose (settle t)) hend

/-! ### The exchange whose job has ended (R41, R44) -/

section

variable {s : State} {p : PointId} {j : Job} {rest : List SlotId} (h : Leads s p j.slot rest)
include h

theorem Leads.jobDone (d : Vector Byte 64) : Leads (jobDone j d s) p j.slot rest := by
  refine h.congr rfl ?_ (fun y hy => ?_) (fun c hc => ⟨hc, ?_⟩) id
  · rw [jobDone_slot]
  · exact State.slot_setSlot_other s (h.behind y hy).1.symm _
  · rw [jobDone_buffer]
    split
    · next hb => exact hb ▸ ⟨rfl, rfl⟩
    · exact ⟨rfl, rfl⟩

theorem Leads.freeBuffer_jobDone (hpoint : (s.buffer j.buffer).point = some p)
    (hslot : (s.buffer j.buffer).slot = some j.slot) (d : Vector Byte 64) :
    advanceOwner j.slot (freeBuffer j.buffer (Machine.jobDone j d s)) =
      advancePoint p (Machine.bufferFreed (Machine.jobDone j d s) j.buffer j.slot p) := by
  have hbuffer : (Machine.jobDone j d s).buffer j.buffer = jobBuffer j d s := (jobDone_buffer ..).trans (if_pos rfl)
  rw [freeBuffer_eq (by rw [hbuffer]; exact hpoint) (by rw [hbuffer]; exact hslot)]
  unfold advanceOwner
  rw [((h.jobDone d).bufferFreed j.buffer).point]

/-- An exchange that is in flight is followed no further. -/
theorem Leads.advancePoint_inFlight (ha : (s.slot j.slot).state = .active) (hi : inFlight s j.slot = true) :
    advancePoint p s = s := by
  have hstays : Stays s p j.slot := .inr (.inl ⟨ha, .inl hi⟩)
  unfold advancePoint
  rw [h.queue, hstays.advance_eq]

/-- A RETIRING exchange is followed with the status it has. -/
theorem Leads.advancePoint_retiring {st : Status} (hg : (s.slot j.slot).state = .retiring)
    (hs : (s.slot j.slot).status = some st) : advancePoint p s = ended s p j.slot rest st := by
  have hself : retired s j.slot st = s := by
    unfold retired
    rw [← hg, ← hs]
    exact State.setSlot_self ..
  rw [← h.advancePoint_ended, hself]

end

/-! ### The answers (R143 to R145) -/

theorem exec_busGrant (s : State) : exec .busGrant s = execBusGrant s := by rfl

section

variable {s : State} {j : Job} {b : Burst} (hjob : s.pm.job = some j) (hburst : s.pm.burst = some b)
  (hreset : s.hw.access.resetPending = false) (hstate : s.pm.state = .burst)
include hjob hburst hreset hstate

theorem onAnswer_acts (f : Job → Burst → State → Out) : onAnswer f s = f j b s := by
  unfold onAnswer
  rw [if_pos hstate, if_neg (ne_true_of_eq_false hreset), hjob, hburst]

theorem exec_burstCompleted_acts (w : Vector Word 16) : exec (.burstCompleted w) s = .next
    (if j.remaining ≤ b.bytes then endJob j (countMoved j b.bytes w s) else nextBurst (countMoved j b.bytes w s)) :=
  (exec_burstCompleted w s).trans (onAnswer_acts hjob hburst hreset hstate _)

theorem exec_burstCutShort_acts {k : Nat} (w : Vector Word 16) (hk : 1 ≤ k ∧ k < b.beats) :
    exec (.burstCutShort k w) s = .next (nextBurst (countMoved j (4 * k) w s)) :=
  (exec_burstCutShort k w s).trans ((onAnswer_acts hjob hburst hreset hstate _).trans (if_pos hk))

theorem exec_burstRetry_acts (hr : j.retries + 1 < s.hw.config.busRetryLimit) : exec .burstRetry s = .next { s with
    pm := { s.pm with state := .waitGrant, job := some { j with retries := j.retries + 1 } } } :=
  (exec_burstRetry s).trans ((onAnswer_acts hjob hburst hreset hstate _).trans
    (congrArg _ (if_neg (Nat.not_le.mpr hr))))

end

/-- Settles O53: an answer short of the last burst moves its bytes and asks for the next burst (`nextBurst_countMoved`), and
the last one ends the job (`endJob_stages`, `endJob_frees`), after which the queue of its exchange is followed. -/
theorem burstsMoveAJobToItsEnd : Obligations.BurstsMoveAJobToItsEnd := by
  unfold Obligations.BurstsMoveAJobToItsEnd
  intro j b w s hjob hburst hreset filled moves
  have hwritten : ∀ n, filled n (burstWritten j n w s) := fun n => getElem_burstWritten _ _ _ _ _
  have hmoves : ∀ n c, exec c s = .next (nextBurst (countMoved j n w s)) → moves n c := fun n c hexec => by
    rw [nextBurst_countMoved] at hexec
    refine ⟨_, _, hexec, rfl, chooseBurst_chosen _ _ _, fun hk => ?_, fun hk => ⟨_, hwritten n, ?_⟩⟩
    · dsimp only
      rw [jobBuffer_drain hk, State.setBuffer_self]
    · dsimp only
      rw [jobBuffer_stage hk]
  refine ⟨fun hstate => ?_, fun hk => ⟨?_, fun i hi hb => ?_⟩, fun hchosen lane hl => burstEnables_lane hchosen hl,
    fun hstate => ⟨fun hlt => ?_, fun k hone hk => ?_, fun hr => ?_,
      fun p rest data hlast hleads hpoint hslot hfilled => ?_⟩⟩
  · exact (exec_busGrant s).trans (if_pos hstate)
  · rw [drainBytes_eq hjob hburst hk, List.length_map, List.length_range]
  · rw [drainBytes_eq hjob hburst hk]
    simp [List.getElem?_range hi, List.getD_eq_getElem?_getD, hb]
  · exact hmoves _ _ ((exec_burstCompleted_acts hjob hburst hreset hstate w).trans
      (congrArg _ (if_neg (Nat.not_le.mpr hlt))))
  · exact hmoves _ _ (exec_burstCutShort_acts hjob hburst hreset hstate w ⟨hone, hk⟩)
  · exact exec_burstRetry_acts hjob hburst hreset hstate hr
  · have hdata : data = burstWritten j b.bytes w s := Vector.ext fun i hi =>
      (hfilled ⟨i, hi⟩).trans (hwritten b.bytes ⟨i, hi⟩).symm
    subst hdata
    intro e moved freed goesOn
    have hexec := (exec_burstCompleted_acts hjob hburst hreset hstate w).trans (congrArg _ (if_pos hlast))
    have hfreed : Leads freed p j.slot rest := (hleads.jobDone _).bufferFreed j.buffer
    have hslotFreed : freed.slot j.slot = { moved.slot j.slot with jobs := (moved.slot j.slot).jobs - 1 } :=
      (bufferFreed_slot ..).trans (if_pos rfl)
    have hslotMoved : moved.slot j.slot = { e with bytesMemory := e.bytesMemory + (s.buffer j.buffer).count } :=
      jobDone_slot ..
    rw [hslotMoved] at hslotFreed
    have hserves (t : State) (hno : ¬ (j.kind = .stage ∧ goesOn)) (ht : advancePoint p freed = t) :
        ServiceOnly t (endJob j (countMoved j b.bytes w s)) := by
      rw [endJob_frees hno, hleads.freeBuffer_jobDone hpoint hslot, ← ht]
      exact choose_settle_only _
    refine ⟨_, hexec, fun hk hon => ?_, fun ha hno hi => ?_, fun ha hno hi => ?_, fun st hg hs => ?_⟩
    · rw [endJob_stages hk hon]
      exact choose_settle_only _
    · exact hserves _ hno (hfreed.advancePoint_active (by rw [hslotFreed]; exact ha) hi)
    · exact hserves _ hno (hfreed.advancePoint_inFlight (by rw [hslotFreed]; exact ha) hi)
    · have hno : ¬ (j.kind = .stage ∧ goesOn) := fun ⟨_, hactive, _⟩ => nomatch hg.symm.trans hactive
      exact hserves _ hno (hfreed.advancePoint_retiring (by rw [hslotFreed]; exact hg) (by rw [hslotFreed]; exact hs))

end Sys2Proof.Machine
end

section
/-! PROOF. What the host reads in the register window: each word, the sets of stations and points, and the buffer states
(Tables 7-1, 9-1 and 9-2). -/

namespace Sys2Proof.Machine

/-! ### Words put together bit by bit (Table 9-2) -/

theorem getLsbD_placeBit (b : Bool) (lo : Nat) {i : Nat} (hi : i < 32) :
    (placeBit b lo).getLsbD i = true ↔ i = lo ∧ b = true := by
  unfold placeBit
  rw [getLsbD_place, decide_eq_true hi, Bool.true_and, Bool.and_eq_true, decide_eq_true_iff]
  cases b with
  | false => simp
  | true =>
    rw [Bool.toNat_true, Nat.testBit_one_eq_true_iff_self_eq_zero, Nat.sub_eq_zero_iff_le]
    exact ⟨fun h => ⟨Nat.le_antisymm h.2 h.1, rfl⟩, fun h => ⟨h.1.ge, h.1.le⟩⟩

/-- A code of four bits placed at one of the eight places of four bits. -/
theorem getLsbD_place_nibble {n a b j : Nat} (hn : n < 16) (hb : b < 8) (hj : j < 4) :
    (place n (4 * a)).getLsbD (4 * b + j) = true ↔ a = b ∧ n.testBit j = true := by
  have hi : 4 * b + j < 32 := by omega
  rw [getLsbD_place, decide_eq_true hi, Bool.true_and, Bool.and_eq_true, decide_eq_true_iff]
  constructor
  · rintro ⟨hle, hbit⟩
    have hlow : 4 * b + j - 4 * a < 4 := by
      by_contra hge
      rw [Nat.testBit_lt_two_pow (hn.trans_le (Nat.pow_le_pow_right (by decide) (Nat.not_lt.mp hge) : 2 ^ 4 ≤ _))] at hbit
      cases hbit
    obtain rfl : a = b := by omega
    exact ⟨rfl, by rwa [Nat.add_sub_cancel_left] at hbit⟩
  · rintro ⟨rfl, hbit⟩
    exact ⟨by omega, by rwa [Nat.add_sub_cancel_left]⟩

/-- A bit of a word put together by OR is set where it is in one of the parts. -/
theorem getLsbD_foldl_or {α : Type} (f : α → Word) (l : List α) (i : Nat) :
    (l.foldl (fun w x => w ||| f x) 0).getLsbD i = true ↔ ∃ x ∈ l, (f x).getLsbD i = true := by
  have key : ∀ w : Word, (l.foldl (fun w x => w ||| f x) w).getLsbD i =
      (w.getLsbD i || l.any fun x => (f x).getLsbD i) := by
    induction l with
    | nil => intro w; exact (Bool.or_false _).symm
    | cons x l ih => intro w; rw [List.foldl_cons, ih, BitVec.getLsbD_or, List.any_cons, Bool.or_assoc]
  have hzero : (0 : Word).getLsbD i = false := BitVec.getLsbD_zero
  rw [key, hzero, Bool.false_or, List.any_eq_true]

theorem getLsbD_stationSet (s : State) (f : Station → Bool) {k : Nat} (hk : k < 32) :
    (stationSet s f).getLsbD k = true ↔ ∃ i : StationId, k = i.val + 1 ∧ f (s.station i) = true := by
  unfold stationSet
  rw [getLsbD_foldl_or]
  simp only [List.mem_finRange, true_and, getLsbD_placeBit _ _ hk, stationAddress]

/-- Bits 0 and 31 stand for no station. -/
theorem stationSet_reserved {s : State} {f : Station → Bool} {k : Nat} (hk : k = 0 ∨ k = 31) :
    (stationSet s f).getLsbD k = false := by
  rw [← Bool.not_eq_true, getLsbD_stationSet s f (by omega)]
  rintro ⟨i, hi, -⟩
  omega

theorem stationSet_station (s : State) (f : Station → Bool) (i : StationId) :
    (stationSet s f).getLsbD (i.val + 1) = f (s.station i) := by
  rw [Bool.eq_iff_iff, getLsbD_stationSet s f (by omega)]
  exact ⟨fun ⟨k, hk, hf⟩ => by rwa [Fin.ext (Nat.succ.inj hk)], fun hf => ⟨i, rfl, hf⟩⟩

/-- Each point puts its bit into the set, or nothing where its id is outside it. -/
theorem haltedSet_eq (s : State) (base : Nat) : haltedSet s base = (List.finRange 64).foldl (fun w (p : PointId) =>
    w ||| if base ≤ p.val ∧ p.val < base + 32 then
      placeBit (decide ((s.point p).state = .halted)) (p.val - base) else 0) 0 := by
  unfold haltedSet
  congr 1
  funext w p
  split
  · rfl
  · exact (BitVec.or_zero).symm

theorem getLsbD_haltedSet (s : State) (base : Nat) {k : Nat} (hk : k < 32) : (haltedSet s base).getLsbD k = true ↔
    ∃ p : PointId, p.val = base + k ∧ (s.point p).state = .halted := by
  rw [haltedSet_eq, getLsbD_foldl_or]
  constructor
  · rintro ⟨p, -, hp⟩
    split at hp
    · rw [getLsbD_placeBit _ _ hk, decide_eq_true_iff] at hp
      exact ⟨p, by omega, hp.2⟩
    · exact absurd hp (ne_true_of_eq_false BitVec.getLsbD_zero)
  · rintro ⟨p, hp, hg⟩
    refine ⟨p, List.mem_finRange p, ?_⟩
    rw [if_pos (by omega), getLsbD_placeBit _ _ hk, decide_eq_true_iff]
    exact ⟨by omega, hg⟩

theorem haltedSet_point (s : State) {base : Nat} {p : PointId} (hlow : base ≤ p.val) (hhigh : p.val < base + 32) :
    (haltedSet s base).getLsbD (p.val - base) = decide ((s.point p).state = .halted) := by
  rw [Bool.eq_iff_iff, getLsbD_haltedSet s base (by omega), decide_eq_true_iff]
  exact ⟨fun ⟨q, hq, hg⟩ => by rwa [Fin.ext (show p.val = q.val by omega)], fun hg => ⟨p, by omega, hg⟩⟩

theorem bufState_code_lt (g : BufState) : g.code < 16 := by cases g <;> decide

theorem bufferStatus_nibble (s : State) (b : BufId) :
    (bufferStatusWord s).extractLsb' (4 * b.val) 4 = BitVec.ofNat 4 (s.buffer b).state.code := by
  refine BitVec.eq_of_getLsbD_eq fun j hj => ?_
  rw [BitVec.getLsbD_extractLsb', BitVec.getLsbD_ofNat, decide_eq_true hj, Bool.true_and, Bool.true_and, Bool.eq_iff_iff]
  unfold bufferStatusWord
  rw [getLsbD_foldl_or]
  simp only [List.mem_finRange, true_and, getLsbD_place_nibble (bufState_code_lt _) b.isLt hj]
  constructor
  · rintro ⟨c, hc, hbit⟩
    rwa [Fin.ext hc] at hbit
  · exact fun hbit => ⟨b, rfl, hbit⟩

/-! ### The words of a register that shows a record (R147, R158) -/

theorem viewWord0_eq (s : State) : viewWord0 s = if s.cu.count = 0 then 0 else
    place 1 31 ||| place s.cu.ring[s.cu.tail].point.val 24 ||| place s.cu.ring[s.cu.tail].slot.val 16 |||
      place s.cu.ring[s.cu.tail].tag.toNat 0 := by
  by_cases h : s.cu.count = 0 <;> simp [viewWord0, viewedRecord, h]

theorem viewWord1_eq (s : State) : viewWord1 s = if s.cu.count = 0 then 0 else
    place s.cu.ring[s.cu.tail].errors 20 ||| place s.cu.ring[s.cu.tail].status.code 16 |||
      place s.cu.ring[s.cu.tail].bytesDone 0 := by
  by_cases h : s.cu.count = 0 <;> simp [viewWord1, viewedRecord, h]

theorem viewWord2_eq (s : State) : viewWord2 s = if s.cu.count = 0 then 0 else
    place s.cu.tail.val 16 ||| place s.cu.ring[s.cu.tail].frame.toNat 0 := by
  by_cases h : s.cu.count = 0 <;> simp [viewWord2, viewedRecord, h]

theorem faultWords_none {s : State} (h : s.pm.faultRecord = none) : faultAddressWord s = 0 ∧ faultInfoWord s = 0 := by
  unfold faultAddressWord faultInfoWord
  rw [h]
  exact ⟨rfl, rfl⟩

theorem faultWords_some {s : State} {f : FaultRecord} (h : s.pm.faultRecord = some f) : faultAddressWord s = f.addr ∧
    faultInfoWord s = place f.kind.code 0 ||| place f.buffer.val 4 ||| place f.slot.val 8 ||| place f.cause.code 16 |||
      place 1 31 := by
  unfold faultAddressWord faultInfoWord
  rw [h]
  exact ⟨rfl, rfl⟩

/-! ### A read cycle (R181, R195, R197) -/

section

variable {s : State} (hpin : s.hw.resetPin = false)
include hpin

/-- A read that is no word access (R181). -/
theorem windowRead_partial {o : BitVec 7} {e : BitVec 4} (h : o.toNat % 4 ≠ 0 ∨ e ≠ 0xF#4) :
    windowRead s o e = some 0 := by
  have hword : isWordAccess o e = false := by
    unfold isWordAccess
    rwa [Bool.and_eq_false_iff, beq_eq_false_iff_ne, beq_eq_false_iff_ne]
  exact (if_neg (ne_true_of_eq_false hpin)).trans (if_pos hword)

theorem windowRead_word {o : BitVec 7} (h : o.toNat % 4 = 0) : windowRead s o 0xF#4 =
    if s.hw.access.resetPending then
      if o = 0x00#7 then some idWord else if o = 0x78#7 then some s.hw.access.word else some 0
    else some (registerWord s o) := by
  have hword : isWordAccess o 0xF#4 ≠ false := by
    unfold isWordAccess
    rw [h]
    decide
  exact (if_neg (ne_true_of_eq_false hpin)).trans (if_neg hword)

/-- While a controller reset is pending (R195). -/
theorem windowRead_pending (hr : s.hw.access.resetPending = true) {o : BitVec 7} (h : o.toNat % 4 = 0) :
    windowRead s o 0xF#4 = some (if o = 0x00#7 then idWord else if o = 0x78#7 then s.hw.access.word else 0) := by
  rw [windowRead_word hpin h, if_pos hr, apply_ite some, apply_ite some]

theorem windowRead_register (hr : s.hw.access.resetPending = false) {o : BitVec 7} {w : Word} (h : o.toNat % 4 = 0)
    (hw : registerWord s o = w) : windowRead s o 0xF#4 = some w := by
  rw [windowRead_word hpin h, if_neg (ne_true_of_eq_false hr), hw]

end

/-- The words of the registers after device reset (Table 9-1). -/
theorem windowRead_reset :
    (∀ o : BitVec 7, o.toNat % 4 = 0 → o ∉ [0x00#7, 0x04#7, 0x3C#7, 0x40#7, 0x44#7] →
      windowRead State.reset o 0xF#4 = some 0) ∧
    windowRead State.reset 0x00#7 0xF#4 = some 0x56624001#32 ∧
    windowRead State.reset 0x04#7 0xF#4 = some 0x00000F03#32 ∧
    windowRead State.reset 0x3C#7 0xF#4 = some 0x00007FFD#32 ∧
    windowRead State.reset 0x40#7 0xF#4 = some 0x00002000#32 ∧
    windowRead State.reset 0x44#7 0xF#4 = some 0x00002358#32 := by
  decide

/-- Each row of a table of offsets and words, in turn. -/
theorem forall_rows {rows : List (BitVec 7 × Word)} {P : BitVec 7 → Word → Prop} (h : ∀ q ∈ rows, P q.1 q.2)
    (o : BitVec 7) (w : Word) (hrow : (o, w) ∈ rows) : P o w := h (o, w) hrow

/-- Settles O3: a word read shows its register (`windowRead_register`), and each register that is a set holds a bit for each
member (`stationSet_station`, `haltedSet_point`, `bufferStatus_nibble`). -/
theorem windowReadsShowTheRegisters : Obligations.WindowReadsShowTheRegisters := by
  unfold Obligations.WindowReadsShowTheRegisters
  refine ⟨windowRead_reset, ?_⟩
  intro s a access c r shown reads stations points
  refine ⟨fun hpin o e => if_pos hpin, fun hpin o e h => windowRead_partial hpin h,
    fun hpin hr o h => windowRead_pending hpin hr h, fun hpin hr => ?_⟩
  have hread : ∀ {o : BitVec 7} {w : Word}, o.toNat % 4 = 0 → registerWord s o = w → windowRead s o 0xF#4 = some w :=
    windowRead_register hpin hr
  have hstations : ∀ {o : BitVec 7} (f : Station → Bool), o.toNat % 4 = 0 → registerWord s o = stationSet s f →
      stations o f := fun f ho hw =>
    ⟨_, hread ho hw, stationSet_reserved (.inl rfl), stationSet_reserved (.inr rfl), stationSet_station s f⟩
  have hpoints : ∀ {o : BitVec 7} (base : Nat), o.toNat % 4 = 0 → registerWord s o = haltedSet s base →
      points o base := fun base ho hw => ⟨_, hread ho hw, fun _ => haltedSet_point s⟩
  refine ⟨?_, hstations (fun x => decide (x.presence = .present)) rfl rfl, hstations (fun x => x.alert) rfl rfl,
    hstations (fun x => decide (x.presence = .lost)) rfl rfl, hpoints 0 rfl rfl, hpoints 32 rfl rfl,
    fun hf => ?_, fun f hf => ?_, _, hread rfl rfl, bufferStatus_nibble s⟩
  · refine forall_rows ?_
    simp only [List.forall_mem_cons]
    exact ⟨hread rfl rfl, hread rfl rfl, hread rfl rfl, hread rfl rfl, hread rfl rfl, hread rfl rfl, hread rfl rfl,
      hread rfl rfl, hread rfl rfl, hread rfl rfl, hread rfl rfl, hread rfl rfl, hread rfl rfl, hread rfl rfl,
      hread rfl rfl, hread rfl rfl, hread rfl rfl, hread rfl rfl, hread rfl rfl, hread rfl (viewWord0_eq s),
      hread rfl (viewWord1_eq s), hread rfl (viewWord2_eq s), hread rfl rfl, hread rfl rfl, List.forall_mem_nil _⟩
  · obtain ⟨haddr, hinfo⟩ := faultWords_none hf
    exact ⟨hread rfl haddr, hread rfl hinfo⟩
  · obtain ⟨haddr, hinfo⟩ := faultWords_some hf
    exact ⟨hread rfl haddr, hread rfl hinfo⟩

end Sys2Proof.Machine
end

section
/-! PROOF. COMPLETION RELEASE with no point held: advance and excess (R159). -/

namespace Sys2Proof.Machine

set_option Elab.async false

/-- The tail of the ring advances modulo its 64 places. -/
theorem releaseRecords_tail_val (n : Nat) (s : State) :
    (releaseRecords n s).cu.tail.val = (s.cu.tail.val + min n s.cu.count) % 64 := by
  unfold releaseRecords
  rw [Fin.val_add, Fin.val_ofNat, Nat.add_mod_mod]

section

variable {w : Word} {s : State}

/-- Nothing is held and no more is released than stands in the ring: the release is step 1 of R159 alone. -/
theorem release_of_le (hheld : s.cu.held = []) (hle : w.toNat ≤ s.cu.count) : release w s = releaseRecords w.toNat s := by
  unfold release
  dsimp only
  rw [if_neg (Nat.not_lt.mpr hle)]
  exact if_pos hheld

/-- Nothing is held and more is released than stands in the ring: the excess is reported after step 1 of R159. -/
theorem release_of_lt (hheld : s.cu.held = []) (hlt : s.cu.count < w.toNat) :
    release w s =
      raise .accessFault (setAccess (fun a => { a with releaseExcess := true }) (releaseRecords w.toNat s)) := by
  unfold release
  dsimp only
  rw [if_pos hlt]
  exact if_pos hheld

end

/-- Settles O33: a release within the count is `releaseRecords` alone, and one past it reports the excess as well. -/
theorem completionReleaseAdvancesTheTail : Obligations.CompletionReleaseAdvancesTheTail := by
  unfold Obligations.CompletionReleaseAdvancesTheTail
  intro w s hd hheld _
  have hexec : exec (.completionRelease w) s = .next (release w s) := windowWrite_eq s (release w) hd
  refine ⟨_, hexec, ?_⟩
  rcases Nat.lt_or_ge s.cu.count w.toNat with hlt | hle
  · rw [release_of_lt hheld hlt]
    exact ⟨rfl, releaseRecords_tail_val w.toNat s, fun hle => absurd hlt (Nat.not_lt.mpr hle), fun _ => ⟨rfl, rfl⟩⟩
  · rw [release_of_le hheld hle]
    exact ⟨rfl, releaseRecords_tail_val w.toNat s, fun _ => ⟨rfl, rfl⟩, fun hlt => absurd hlt (Nat.not_lt.mpr hle)⟩

end Sys2Proof.Machine
end

section
/-! SUPPORT. What a sound event unit is (R165, R169, R175, R176, R179), and that it stays sound as occurrences are taken, an
acknowledgment moves the sets and the lines are re-evaluated. -/

namespace Sys2Proof.Machine

/-! ### The lines after a change (R175 to R177) -/

theorem line_evaluateLines (e : EventUnit) (cfg : HostConfig) (l : IntLine) :
    (e.evaluateLines cfg).line l = (e.line l).evaluate (e.lineDue cfg l) := by cases l <;> rfl

theorem line_redriveLines (e : EventUnit) (cfg : HostConfig) (l : IntLine) :
    (e.redriveLines cfg).line l = (e.line l).acknowledge (e.lineDue cfg l) := by cases l <;> rfl

@[simp] theorem lineDue_evaluateLines (e : EventUnit) (c cfg : HostConfig) (l : IntLine) :
    (e.evaluateLines c).lineDue cfg l = e.lineDue cfg l := lineDue_congr rfl rfl cfg l

@[simp] theorem lineDue_redriveLines (e : EventUnit) (c cfg : HostConfig) (l : IntLine) :
    (e.redriveLines c).lineDue cfg l = e.lineDue cfg l := lineDue_congr rfl rfl cfg l

/-- What one line does changes, and nothing else of the event unit. -/
def EventUnit.setLine (e : EventUnit) (i : IrqState) : IntLine → EventUnit
  | .attn => { e with attn := i }
  | .alarm => { e with alarm := i }

theorem line_setLine (e : EventUnit) (i : IrqState) (l k : IntLine) :
    (e.setLine i l).line k = if k = l then i else e.line k := by cases l <;> cases k <;> rfl

theorem lineDue_setLine (e : EventUnit) (i : IrqState) (cfg : HostConfig) (l k : IntLine) :
    (e.setLine i l).lineDue cfg k = e.lineDue cfg k := by cases l <;> exact lineDue_congr rfl rfl cfg k

theorem execReleaseIntervalEnd_eq {s : State} {l : IntLine} (h : s.eu.line l = .interval) :
    execReleaseIntervalEnd l s =
      .next { s with eu := s.eu.setLine (.intervalEnd (s.eu.lineDue s.hw.config l)) l } := by
  unfold execReleaseIntervalEnd
  rw [if_pos h]
  cases l <;> rfl

/-! ### What is sound of the event unit -/

/-- An asserted line is due, and with no reset pending a due line is asserted or in its release interval (R175, R176,
R179). -/
def EventUnit.LinesSound (cfg : HostConfig) (pending : Bool) (e : EventUnit) : Prop :=
  ∀ l : IntLine, (e.line l = .asserted → e.lineDue cfg l = true) ∧
    (pending = false → e.lineDue cfg l = true → e.line l = .asserted ∨ e.line l = .interval)

/-- The gathered set waits behind a presented one (R169), the fixed enables have their values (R165), and the lines are
sound. -/
structure EventUnit.Sound (cfg : HostConfig) (pending : Bool) (e : EventUnit) : Prop where
  sets : e.presented = 0 → e.gathered = 0
  reports : e.reportEnable &&& reportFixed = reportFixed
  halts : e.haltEnable &&& ~~~ haltWritable = haltFixed
  lines : e.LinesSound cfg pending

/-- Whatever the lines did before, their re-evaluation makes them sound (R175, R177). -/
theorem linesSound_evaluateLines (cfg : HostConfig) (pending : Bool) (e : EventUnit) :
    (e.evaluateLines cfg).LinesSound cfg pending := fun l => by
  rw [line_evaluateLines, lineDue_evaluateLines]
  exact ⟨fun h => (evaluate_eq_asserted.mp h).1, fun _ hdue => hdue ▸ evaluate_due _⟩

/-- Whatever the lines did before, release and re-drive make them sound (R176). -/
theorem linesSound_redriveLines (cfg : HostConfig) (pending : Bool) (e : EventUnit) :
    (e.redriveLines cfg).LinesSound cfg pending := fun l => by
  rw [line_redriveLines, lineDue_redriveLines]
  exact ⟨fun h => (acknowledge_eq_asserted.mp h).1, fun _ hdue => hdue ▸ acknowledge_due _⟩

/-- Lines that are released are sound while a reset is pending (R179, R195). -/
theorem linesSound_released {cfg : HostConfig} {e : EventUnit} (h : ∀ l, e.line l = .released) :
    e.LinesSound cfg true := fun l => by
  rw [h l]
  exact ⟨nofun, fun hp => nomatch hp⟩

namespace EventUnit.Sound

variable {cfg : HostConfig} {pending : Bool} {e : EventUnit} (h : e.Sound cfg pending)
include h

theorem haltRequest (b : Bool) : { e with haltRequest := b }.Sound cfg pending := ⟨h.sets, h.reports, h.halts, h.lines⟩

theorem quiet (q : BitVec 15) : { e with quiet := q }.Sound cfg pending := ⟨h.sets, h.reports, h.halts, h.lines⟩

theorem present (c : Cause) : (e.present cfg c).Sound cfg pending := by
  unfold EventUnit.present
  split
  · exact ⟨fun hempty => absurd hempty c.bit_ne_zero, h.reports, h.halts, linesSound_evaluateLines cfg pending _⟩
  · next hset => exact ⟨fun hempty => absurd hempty hset, h.reports, h.halts, h.lines⟩

theorem take (c : Cause) : (e.take cfg c).Sound cfg pending := by
  unfold EventUnit.take
  split
  · dsimp only
    split
    · exact (h.present c).haltRequest true
    · exact h.present c
  · exact h.quiet _

theorem acknowledge : (e.acknowledge cfg).Sound cfg pending := by
  unfold EventUnit.acknowledge
  split
  · next hempty => exact ⟨fun _ => hempty, h.reports, h.halts, linesSound_redriveLines cfg pending _⟩
  · next hset => exact ⟨fun hempty => absurd hempty hset, h.reports, h.halts, linesSound_redriveLines cfg pending _⟩

/-- A change of the routes or of the line enables, with both lines re-evaluated (R165, R177, R186). -/
theorem evaluateLines (r : BitVec 15) (c : HostConfig) : ({ e with route := r }.evaluateLines c).Sound c pending :=
  ⟨h.sets, h.reports, h.halts, linesSound_evaluateLines c pending _⟩

/-- The end of a line's release interval (R176). -/
theorem intervalEnd (l : IntLine) : (e.setLine (.intervalEnd (e.lineDue cfg l)) l).Sound cfg pending := by
  have hline : (e.setLine (.intervalEnd (e.lineDue cfg l)) l).LinesSound cfg pending := fun k => by
    rw [line_setLine, lineDue_setLine]
    split
    · next hk =>
      rw [hk]
      unfold IrqState.intervalEnd
      cases e.lineDue cfg l <;> simp
    · exact h.lines k
  cases l <;> exact ⟨h.sets, h.reports, h.halts, hline⟩

/-- The enables keep their fixed items whatever is written (R165). -/
theorem writeReports (w : BitVec 15) :
    { e with reportEnable := (w &&& reportWritable) ||| reportFixed }.Sound cfg pending := by
  refine ⟨h.sets, ?_, h.halts, h.lines⟩
  have hfixed : reportWritable &&& reportFixed = 0 := rfl
  change ((w &&& reportWritable) ||| reportFixed) &&& reportFixed = reportFixed
  rw [BitVec.and_comm, BitVec.and_or_distrib_left, BitVec.and_comm, BitVec.and_assoc, hfixed, BitVec.and_self]
  simp

theorem writeHalts (w : BitVec 15) :
    { e with haltEnable := (w &&& haltWritable) ||| haltFixed }.Sound cfg pending := by
  refine ⟨h.sets, h.reports, ?_, h.lines⟩
  have hwritable : haltWritable &&& ~~~ haltWritable = 0 := rfl
  have hfixed : ~~~ haltWritable &&& haltFixed = haltFixed := rfl
  change ((w &&& haltWritable) ||| haltFixed) &&& ~~~ haltWritable = haltFixed
  rw [BitVec.and_comm, BitVec.and_or_distrib_left, hfixed, BitVec.and_comm, BitVec.and_assoc, hwritable]
  simp

end EventUnit.Sound

/-- The event unit right after reset (R179). -/
theorem sound_reset (cfg : HostConfig) (pending : Bool) : EventUnit.reset.Sound cfg pending where
  sets _ := rfl
  reports := rfl
  halts := rfl
  lines l := by
    rw [lineDue_of_empty rfl]
    cases l <;> exact ⟨nofun, fun _ => nofun⟩

end Sys2Proof.Machine
end

section
/-! PROOF. Every step keeps the event sets, the fixed enables and the interrupt lines sound (R165, R169, R175 to R179). Within
a happening the event unit takes occurrences and SC takes its halt requests; only the window and the resets reach it
otherwise. -/

namespace Sys2Proof.Machine

/-- The event unit is sound under the host's configuration (R165, R169, R175, R176, R179). -/
def EventsSound (s : State) : Prop := s.eu.Sound s.hw.config s.hw.access.resetPending

/-- With nothing presented no line is due, so that a sound one is not asserted (R169, R175). -/
theorem eventsSound_iff (s : State) : EventsSound s ↔ EventSetsAgree s ∧ FixedEnables s ∧ LinesAgree s := by
  constructor
  · rintro ⟨hsets, hreports, hhalts, hlines⟩
    have hquiet : s.eu.presented = 0 → ∀ l, s.eu.line l ≠ .asserted := fun hempty l ha => by
      have hdue := (hlines l).1 ha
      rw [lineDue_of_empty hempty] at hdue
      cases hdue
    exact ⟨fun he => ⟨hsets he, hquiet he .attn, hquiet he .alarm⟩, ⟨hreports, hhalts⟩, hlines⟩
  · rintro ⟨hsets, ⟨hreports, hhalts⟩, hlines⟩
    exact ⟨fun he => (hsets he).1, hreports, hhalts, hlines⟩

namespace EventsSound

/-! ### Changes beside the event unit, and occurrences -/

section

variable {s : State} (h : EventsSound s)
include h

theorem of_eq {t : State} (he : t.eu = s.eu) (hw : t.hw = s.hw) : EventsSound t := by
  unfold EventsSound
  rw [he, hw]
  exact h

theorem raise (c : Cause) : EventsSound (raise c s) := h.take c

theorem postRecord (x : SlotId) (p : PointId) : EventsSound (postRecord x p s) :=
  raise (s := { s with cu := _ }) h .completionPosted

/-- An access flag other than RESET_PENDING is set and reported (R184). -/
theorem accessFault {f : AccessStatus → AccessStatus} (hf : (f s.hw.access).resetPending = s.hw.access.resetPending) :
    EventsSound (Machine.raise .accessFault (setAccess f s)) := by
  refine raise ?_ .accessFault
  unfold EventsSound
  rw [setAccess_eu, setAccess_hw_access, setAccess_hw_config, hf]
  exact h

end

/-- Of the primitive changes of the walks only the occurrences reach the event unit. -/
theorem closed : Closed EventsSound where
  free b s h := h.of_eq (freeBuffer_eu b s) (freeBuffer_hw b s)
  retire _ _ _ h := h
  freeSlot _ _ _ h := h
  post x p _ _ h := h.postRecord x p
  hold w p s h := by
    have hjoined : EventsSound { s with cu := { s.cu with held := s.cu.held ++ [p] } } := h
    unfold joinHeld
    dsimp only
    split
    · exact hjoined.raise .completionBacklog
    · exact hjoined
  close p s h := raise (s := { s with pt := (reachDisabled p s).pt, fs := (reachDisabled p s).fs }) h .pointClosed
  halt c p s h := by
    have hhalted : EventsSound (Machine.raise .pointHalted (s.modPoint p fun q =>
        { q with state := .halted, haltCause := some c })) := raise (s := s.modPoint p _) h .pointHalted
    unfold haltPoint
    split
    · exact hhalted
    · exact hhalted
    all_goals exact h
  wait _ _ h := h
  grant p b x s h := by
    rw [grant_blocks]
    exact h
  job s h := by
    rw [takeJob_blocks]
    exact h

section

variable {s : State} (h : EventsSound s)
include h

theorem settle : EventsSound (settle s) := closed.settle s h

theorem choose : EventsSound (choose s) := h.of_eq (choose_eu s) (choose_hw s)

theorem served : EventsSound (Machine.choose (Machine.settle s)) := h.settle.choose

theorem flushWalk (p : PointId) (xs : List SlotId) : EventsSound (flushWalk p xs s) := by
  induction xs generalizing s with
  | nil => exact closed.closePoint p s h
  | cons x xs ih =>
    have hflushed : EventsSound (flushFirst x s) := by
      unfold flushFirst
      dsimp only
      split
      · exact closed.endWith x .flushed s h
      · split_ifs
        · exact h
        · exact closed.endWith x .flushed s h
        · exact h
      · exact h
      · exact h
    have hretired := closed.retireFirst false p x _ hflushed
    unfold Machine.flushWalk
    dsimp only
    split
    · exact ih hretired
    · exact hretired.of_eq (markAll_eu xs _) (markAll_frame xs _).hw

theorem postingWalk (n : Nat) : EventsSound (postingWalk n s) := by
  induction n generalizing s with
  | zero => exact h
  | succ n ih =>
    unfold Machine.postingWalk
    split
    · exact h
    · next p rest _ =>
      have hheld : EventsSound { s with cu := { s.cu with held := rest } } := h
      split
      · next hroom =>
        split
        · next x _ =>
          exact ih (closed.advance true p _ _ (closed.freeSlot x p _ (closed.post x p _ hroom hheld)))
        · exact ih hheld
      · exact h

/-! ### The segment (R107 to R121) -/

theorem enterHalted : EventsSound (enterHalted s) := raise (s := { s with sc := _ }) h .segmentChanged

theorem enterHalting : EventsSound (enterHalting s) := by
  unfold Machine.enterHalting
  dsimp only
  split
  · exact h
  · exact enterHalted h

theorem haltTaken : EventsSound (takeHaltRequests s) := by
  have hcleared : EventsSound { s with eu := { s.eu with haltRequest := false } } := h.haltRequest false
  unfold takeHaltRequests haltRequest
  split
  · split
    · exact hcleared.enterHalting
    · exact hcleared.enterHalting
    all_goals exact hcleared
  · exact h

theorem enterResettingCore : EventsSound (enterResettingCore s) :=
  h.of_eq (enterResettingCore_eu s) (enterResettingCore_hw s)

theorem enterResettingByReset : EventsSound (enterResettingByReset s) := closed.endAllActive _ h.enterResettingCore

theorem enterDown : EventsSound (enterDown s) := by
  rw [enterDown_walk]
  exact raise (closed.endAllActive (downEntered s) h) .segmentChanged

theorem carryOutWaiting : EventsSound (carryOutWaiting s) := by
  unfold Machine.carryOutWaiting
  split
  · exact h.enterDown
  · exact h.enterResettingByReset
  · split
    · exact h.enterHalted
    · exact h

theorem beginFrame (f : BitVec 12) : EventsSound (beginFrame f s) := h.of_eq (beginFrame_eu f s) (beginFrame_hw f s)

theorem openAfterSignalling (f : BitVec 12) : EventsSound (openAfterSignalling f s) := by
  rw [openAfterSignalling_eq]
  exact ((beginFrame (s := { s with sc := _ }) h f).raise .segmentChanged).raise .frameTick

theorem reportWake : EventsSound (reportWake s) := by
  unfold Machine.reportWake
  dsimp only
  split
  · exact (h.raise .stationWake).of_eq (enterWaking_eu _) (enterWaking_hw _)
  · exact h.raise .stationWake

theorem watchBit (level : Bool) : EventsSound (watchBit s level) := by
  have hcounted : ∀ n, EventsSound { s with le := { s.le with lowBits := n } } := fun _ => h
  unfold Machine.watchBit
  split
  · dsimp only
    split
    · exact reportWake (hcounted _)
    · exact hcounted _
  · exact h

/-! ### The census (R58, R68, R124, R125) -/

theorem settleDue : EventsSound (settleDue s) :=
  foldl_keeps (P := EventsSound) (fun t p => if countsAsMiss s p then chargeMiss p t else t) (fun t p ht => by
    split
    · exact raise (s := t.modPoint p _) ht .periodicMiss
    · exact ht) s.fs.due s h

theorem censusAnswered (i : StationId) : EventsSound (censusAnswered i s) := by
  unfold Machine.censusAnswered
  dsimp only
  split
  · exact raise (s := (s.setStation i _).modStation i _) h .stationAttached
  · exact h

theorem censusSilence (i : StationId) : EventsSound (censusSilence i s) := by
  unfold Machine.censusSilence
  dsimp only
  split
  · exact (haltTaken (closed.stationGone _ i _ (raise (s := (s.setStation i _).modStation i _) h .stationDetached))).settle
  · exact h

theorem applyCensus (a : CensusAnswer) (i : StationId) : EventsSound (applyCensus a i s) := by
  have hanswered := h.censusAnswered i
  cases a with
  | silence => exact h.censusSilence i
  | present => exact hanswered.haltTaken
  | alert =>
    refine haltTaken ?_
    unfold censusAlert
    split
    · exact hanswered
    · exact raise (s := (Machine.censusAnswered i s).modStation i _) hanswered .stationAlert
  | garbled =>
    refine haltTaken ?_
    unfold censusClash
    split
    · exact hanswered
    · exact raise (s := (Machine.censusAnswered i s).modStation i _) hanswered .addressClash

/-! ### The end of a transaction (R86 to R98, R115) -/

theorem storeAccept (t : Txn) : EventsSound (storeAccept t s) := by
  have hcounted : EventsSound (toggleSeq t.point (s.modSlot t.slot fun e =>
    { e with bytesLine := e.bytesLine + t.requested, errors := 0 })) := h
  have hfreed := closed.free t.buffer _ hcounted
  refine closed.advancePoint t.point _ ?_
  split
  · exact hfreed
  · exact closed.endExchange t.slot .done _ hfreed

theorem refuseOutcome (t : Txn) : EventsSound (refuseOutcome t s) :=
  closed.advancePoint t.point _ (closed.halt .refused t.point _ (closed.endExchange t.slot .refused s h))

theorem errorOutcome (t : Txn) (st : Status) : EventsSound (errorOutcome t st s) := by
  have hcounted : EventsSound (s.modSlot t.slot fun e => { e with errors := e.errors + 1 }) := h
  refine closed.advancePoint t.point _ ?_
  split
  · exact closed.halt .attempts t.point _ (closed.endExchange t.slot st _ hcounted)
  · exact hcounted

theorem fetchTaken (t : Txn) (k : Nat) : EventsSound (fetchTaken t k s) := by
  have hfilled : EventsSound (fetchFilled t k s) := by
    unfold fetchFilled
    dsimp only
    split
    · exact closed.free t.buffer _ h
    · exact h
  rw [fetchTaken_eq]
  refine closed.advancePoint t.point _ ?_
  split_ifs
  · exact closed.endExchange t.slot _ _ hfilled
  · exact closed.endExchange t.slot _ _ hfilled
  · exact closed.endExchange t.slot _ _ hfilled
  · exact hfilled

theorem fetchDiscarded (t : Txn) (toggles : Bool) : EventsSound (fetchDiscarded t toggles s) := by
  refine closed.advancePoint t.point _ (closed.free t.buffer _ ?_)
  split
  · exact h
  · exact h

theorem deferred (t : Txn) : EventsSound (afterOutcome t (deferPoint t.point s)) := by
  refine closed.advancePoint t.point _ ?_
  unfold deferPoint
  split
  · exact h
  · exact h

theorem applyOutcome (t : Txn) (a : Answer) : EventsSound (applyOutcome t a s) := by
  have hfreed := closed.free t.buffer s h
  unfold Machine.applyOutcome
  split
  · unfold storeOutcome
    split
    · exact h.storeAccept t
    · exact h.deferred t
    · exact hfreed.refuseOutcome t
    all_goals exact h.errorOutcome t _
  · unfold fetchOutcome
    split
    · unfold fetchData
      split_ifs
      · exact h.fetchDiscarded t true
      · exact h.fetchTaken t _
      · exact h.fetchDiscarded t false
    · exact hfreed.deferred t
    · exact hfreed.refuseOutcome t
    all_goals exact hfreed.errorOutcome t _

theorem applyStreak (i : StationId) (a : Answer) : EventsSound (applyStreak i a s) := by
  unfold Machine.applyStreak
  dsimp only
  split
  · exact closed.stationGone _ i _ (raise (s := (s.setStation i _).modStation i _) h .stationLost)
  · exact h

theorem endTxn (t : Txn) (a : Answer) (moment : Nat) : EventsSound (endTxn t a moment s) := by
  have hidle : EventsSound (txnIdle moment s) := h
  rw [endTxn_eq]
  exact (((hidle.applyOutcome t a).applyStreak _ a).carryOutWaiting).haltTaken.served

/-! ### The mover (R141, R144 to R148) -/

theorem advanceOwner (x : SlotId) : EventsSound (advanceOwner x s) := by
  unfold Machine.advanceOwner
  split
  · exact closed.advancePoint _ s h
  · exact h

theorem drainJobEnd (j : Job) : EventsSound (drainJobEnd j s) := by
  have hcounted : EventsSound (countMemory j.slot (s.buffer j.buffer).count s) := h
  exact advanceOwner (closed.free j.buffer _ hcounted) j.slot

theorem stageJobEnd (j : Job) : EventsSound (stageJobEnd j s) := by
  have hcounted : EventsSound (countMemory j.slot (s.buffer j.buffer).count s) := h
  unfold Machine.stageJobEnd
  dsimp only
  split
  · exact hcounted
  · exact advanceOwner (closed.free j.buffer _ hcounted) j.slot

theorem endJob (j : Job) : EventsSound (endJob j s) := by
  have hcleared : EventsSound (clearJob s) := h
  unfold Machine.endJob
  dsimp only
  split
  · exact (hcleared.stageJobEnd j).served
  · exact (hcleared.drainJobEnd j).served

theorem faultExchange (x : SlotId) : EventsSound (faultExchange x s) := by
  unfold Machine.faultExchange
  split
  · split
    · exact h
    · exact closed.endWith x .moverFault s h
  · exact closed.endWith x .moverFault s h
  · exact h
  · exact h

theorem faultJob (j : Job) (u : Burst) (c : FaultCause) : EventsSound (faultJob j u c s) := by
  unfold Machine.faultJob
  dsimp only
  refine (advanceOwner (raise (faultExchange ?_ j.slot) .moverFault) j.slot).haltTaken.served
  refine foldl_keeps _ (fun t b ht => closed.free b t ht) _ _ (closed.free j.buffer _ ?_)
  exact h

theorem countMoved (j : Job) (n : Nat) (w : Vector Word 16) : EventsSound (countMoved j n w s) :=
  h.of_eq (countMoved_eu ..) (countMoved_hw ..)

theorem nextBurst : EventsSound (nextBurst s) := h.of_eq (nextBurst_eu s) (nextBurst_hw s)

theorem answerCompleted (w : Vector Word 16) (j : Job) (u : Burst) : EventsSound (answerCompleted w j u s) := by
  unfold Machine.answerCompleted
  dsimp only
  split
  · exact (h.countMoved j u.bytes w).endJob j
  · exact (h.countMoved j u.bytes w).nextBurst

theorem answerRetry (j : Job) (u : Burst) : EventsSound (answerRetry j u s) := by
  unfold Machine.answerRetry
  split
  · exact h.faultJob j u .retryExhausted
  · exact h

/-! ### The point and exchange commands -/

theorem enablePoint (p : PointId) : EventsSound (enablePoint p s).1 := by
  have hadmitted : EventsSound (admitPoint (field (s.param 1) 0 8) p s) :=
    h.of_eq (admitPoint_eu ..) (admitPoint_hw ..)
  unfold Machine.enablePoint
  dsimp only
  split
  · split
    · split
      · exact hadmitted.served
      · split
        · exact hadmitted.served
        · exact h
    · exact h
  · exact h

theorem disablePoint (p : PointId) : EventsSound (disablePoint p s).1 := by
  have hclosing : EventsSound (s.modPoint p fun q => { q with state := .closing, haltCause := none }) := h
  have hflushed : EventsSound (closeAndFlush p s) := (hclosing.flushWalk p (s.queue p)).served
  unfold Machine.disablePoint
  split
  · exact h
  · exact h
  all_goals exact hflushed

theorem postExchange (p : PointId) : EventsSound (postExchange p s).1 := by
  unfold Machine.postExchange
  split
  · exact h
  · split
    · exact h
    · exact served (h.of_eq (enqueue_eu ..) (enqueue_hw ..))

/-- An exchange that takes cancel_requested stays in its queue (R43, R44). -/
theorem marked (x : SlotId) : EventsSound (Machine.settle (s.modSlot x fun e => { e with cancelRequested := true })) :=
  settle (s := s.modSlot x _) h

theorem followed (p : PointId) : EventsSound (Machine.choose (Machine.settle (advancePoint p s))) :=
  (closed.advancePoint p s h).served

theorem cancelQueued (x : SlotId) (p : PointId) : EventsSound (cancelQueued x p s).1 := by
  have hended := closed.endWith x (cancelStatus s x) s h
  unfold Machine.cancelQueued
  generalize endWith x (cancelStatus s x) s = u at hended
  split_ifs <;> dsimp only
  · exact followed (closed.freeSlot x p u hended) p
  · exact followed (closed.freeSlot x p _ (hended.postRecord x p)) p
  · exact hended.followed p
  · exact h.marked x

theorem cancelActive (x : SlotId) (p : PointId) : EventsSound (cancelActive x p s).1 := by
  unfold Machine.cancelActive
  split <;> dsimp only
  · exact followed (closed.endWith x (cancelStatus s x) s h) p
  · exact h.marked x

theorem cancelExchange : EventsSound (cancelExchange s).1 := by
  unfold Machine.cancelExchange
  split
  · exact h
  · dsimp only
    unfold cancelDecision
    dsimp only
    split
    · exact h
    · exact h
    · split
      · exact h
      · exact h.cancelQueued _ _
    · split_ifs
      · exact h
      · exact h
      · exact h.cancelActive _ _
    · exact h

/-! ### The segment and station commands -/

theorem stopSegment : EventsSound (stopSegment s).1 := by
  unfold Machine.stopSegment
  split_ifs
  · exact h
  · exact h
  · dsimp only
    exact h.enterDown.settle

theorem resetSegment : EventsSound (resetSegment s).1 := by
  unfold Machine.resetSegment
  split_ifs
  · exact h
  · dsimp only
    exact h.enterResettingByReset.settle
  · exact h

theorem haltSegment : EventsSound (haltSegment s).1 := by
  unfold Machine.haltSegment
  split
  · exact h.enterHalting
  · exact h

theorem resumeSegment : EventsSound (resumeSegment s).1 := by
  unfold Machine.resumeSegment
  split_ifs
  · exact h
  · exact (raise (s := s.setSeg .running) h .segmentChanged).choose
  · exact h

/-! ### The window and the resets (R165, R172, R176, R177, R186, R195 to R197) -/

theorem release (w : Word) : EventsSound (release w s) := by
  have hwalk : ∀ u, EventsSound u →
      EventsSound (if u.cu.held = [] then u else Machine.choose (Machine.settle (Machine.postingWalk 64 u))) :=
    fun u hu => by
      split
      · exact hu
      · exact (hu.postingWalk 64).served
  have hreleased : EventsSound (releaseRecords w.toNat s) := h
  unfold Machine.release
  refine hwalk _ ?_
  split
  · exact hreleased.accessFault rfl
  · exact hreleased

theorem acknowledge (w : Word) : EventsSound (acknowledge w s) := by
  unfold Machine.acknowledge
  split
  · exact EventUnit.Sound.acknowledge h
  · exact h.accessFault rfl

/-- With neither line enable changed the lines stay as they are due (R177, R186). -/
theorem writeHostConfig (w : Word) : EventsSound (writeHostConfig w s) := by
  unfold Machine.writeHostConfig
  dsimp only
  split
  · next hsame =>
    obtain ⟨hattn, halarm⟩ := hsame
    have hdue : ∀ l, s.eu.lineDue (HostConfig.ofWord w) l = s.eu.lineDue s.hw.config l := fun l => by
      cases l <;> simp only [EventUnit.lineDue, HostConfig.lineEnable, hattn, halarm]
    refine ⟨h.sets, h.reports, h.halts, fun l => ?_⟩
    change (_ → s.eu.lineDue (HostConfig.ofWord w) l = true) ∧ (_ → s.eu.lineDue (HostConfig.ofWord w) l = true → _)
    rw [hdue]
    exact h.lines l
  · exact EventUnit.Sound.evaluateLines h s.eu.route (HostConfig.ofWord w)

omit h in
theorem completeReset (s : State) : EventsSound (completeReset s) := sound_reset s.hw.config false

/-- While a reset is pending the lines are released and need not be due (R179, R195). -/
theorem beginReset : EventsSound (beginReset s) := by
  unfold Machine.beginReset
  dsimp only
  split
  · exact ⟨h.sets, h.reports, h.halts, linesSound_released fun l => by cases l <;> rfl⟩
  · exact completeReset _

theorem releaseIntervalEnd {l : IntLine} {t : State} (he : execReleaseIntervalEnd l s = .next t) : EventsSound t := by
  by_cases hl : s.eu.line l = .interval
  · rw [execReleaseIntervalEnd_eq hl] at he
    cases he
    exact EventUnit.Sound.intervalEnd h l
  · unfold execReleaseIntervalEnd at he
    rw [if_neg hl] at he
    cases he

/-! ### Every step -/

theorem windowWrite {t : State} {f : State → State} (hw : windowWrite s f = .next t) (hf : EventsSound (f s)) :
    EventsSound t := by
  obtain rfl | ⟨-, rfl⟩ := windowWrite_next hw
  · exact h
  · exact hf

theorem writeResult (code : BitVec 8) (r : Reply) : EventsSound (writeResult code r s) := by
  unfold EventsSound
  rw [writeResult_eu, writeResult_hw_config, writeResult_hw_access]
  exact h

theorem command {t : State} {code : BitVec 8} {f : State → State × Reply} (hc : command code f s = .next t)
    (hf : EventsSound (f s).1) : EventsSound t := h.windowWrite hc (hf.writeResult code _)

theorem onPoint {t : State} {code : BitVec 8} {f : PointId → State → State × Reply}
    (hc : Machine.command code (onPoint f) s = .next t) (hf : ∀ p, EventsSound (f p s).1) : EventsSound t := by
  refine h.command hc ?_
  obtain e | ⟨p, -, e⟩ := onPoint_eq f s
  · rw [e]
    exact h
  · rw [e]
    exact hf p

omit h in
theorem onAnswer {t : State} {f : Job → Burst → State → Out} (ha : onAnswer f s = .next t)
    (hf : ∀ j u, f j u s = .next t → EventsSound t) : EventsSound t := by
  obtain ⟨-, rfl | ⟨-, j, u, -, -, hj⟩⟩ := onAnswer_next ha
  · exact completeReset s
  · exact hf j u hj

end

theorem exec {i : Instr} {s t : State} (h : EventsSound s) (he : exec i s = .next t) : EventsSound t := by
  cases i with
  | configurePoint =>
    refine h.onPoint (f := configurePoint) he fun p => ?_
    unfold configurePoint
    split
    · split <;> exact h
    · exact h
  | enablePoint => exact h.onPoint (f := Machine.enablePoint) he h.enablePoint
  | disablePoint => exact h.onPoint (f := Machine.disablePoint) he h.disablePoint
  | pausePoint =>
    refine h.onPoint (f := pausePoint) he fun p => ?_
    unfold pausePoint
    split
    · exact settle (s := s.modPoint p _) h
    · exact h
  | continuePoint =>
    refine h.onPoint (f := continuePoint) he fun p => ?_
    unfold continuePoint
    split
    · exact served (s := s.modPoint p _) h
    · exact h
  | clearPoint =>
    refine h.onPoint (f := clearPoint) he fun p => ?_
    unfold clearPoint
    split
    · exact served (s := s.modPoint p _) h
    · exact h
  | inspectPoint => exact h.onPoint (f := inspectPoint) he fun _ => h
  | postExchange => exact h.onPoint (f := Machine.postExchange) he h.postExchange
  | cancelExchange => exact h.command (f := Machine.cancelExchange) he h.cancelExchange
  | inspectSlot => exact h.command (f := inspectSlot) he (by unfold inspectSlot; split <;> exact h)
  | inspectLoad => exact h.command (f := inspectLoad) he (by unfold inspectLoad; split <;> exact h)
  | setSegmentParameters =>
    exact h.command (f := setSegmentParameters) he
      (by unfold setSegmentParameters; dsimp only; split_ifs <;> exact h)
  | startSegment =>
    refine h.command (f := startSegment) he ?_
    unfold startSegment
    split
    · exact h.of_eq (enterResettingByStart_eu s) (enterResettingByStart_hw s)
    · exact h
  | stopSegment => exact h.command (f := Machine.stopSegment) he h.stopSegment
  | resetSegment => exact h.command (f := Machine.resetSegment) he h.resetSegment
  | haltSegment => exact h.command (f := Machine.haltSegment) he h.haltSegment
  | resumeSegment => exact h.command (f := Machine.resumeSegment) he h.resumeSegment
  | suspendSegment => exact h.command (f := suspendSegment) he (by unfold suspendSegment; split <;> exact h)
  | wakeSegment => exact h.command (f := wakeSegment) he (by unfold wakeSegment; split <;> exact h)
  | clearStation =>
    refine h.command (f := clearStation) he ?_
    unfold clearStation
    split
    · exact h
    · exact choose (s := s.setStation _ _) h
  | resumeMover =>
    refine h.command (f := resumeMover) he ?_
    unfold resumeMover
    split
    · exact closed.job _ h
    · exact h
  | resetController =>
    exact h.windowWrite (show execResetController s = _ from he) (h.writeResult 0x5A (Reply.plain .ok)).beginReset
  | unknownCommand code =>
    obtain rfl | ⟨r, rfl⟩ := execUnknownCommand_next he
    · exact h
    · exact h.writeResult code r
  | eventAck w => exact h.windowWrite (show execEventAck w s = _ from he) (h.acknowledge w)
  | completionRelease w => exact h.windowWrite (show execCompletionRelease w s = _ from he) (h.release w)
  | eventQuietWrite w => exact h.windowWrite (show execEventQuietWrite w s = _ from he) (EventUnit.Sound.quiet h _)
  | accessStatusWrite w => exact h.windowWrite (show execAccessStatusWrite w s = _ from he) h
  | hostConfigWrite w => exact h.windowWrite (show execHostConfigWrite w s = _ from he) (h.writeHostConfig w)
  | reportEnableWrite w =>
    exact h.windowWrite (show execReportEnableWrite w s = _ from he) (EventUnit.Sound.writeReports h _)
  | haltEnableWrite w =>
    exact h.windowWrite (show execHaltEnableWrite w s = _ from he) (EventUnit.Sound.writeHalts h _)
  | routeWrite w => exact h.windowWrite (show execRouteWrite w s = _ from he) (EventUnit.Sound.evaluateLines h _ _)
  | registerWrite i w => exact h.windowWrite (show execRegisterWrite i w s = _ from he) h
  | readOnlyWrite r w => exact h.windowWrite (show execReadOnlyWrite r w s = _ from he) (h.accessFault rfl)
  | undefinedOffset w o e =>
    obtain rfl | rfl := execUndefinedOffset_next (w := w) he
    · exact h
    · exact h.accessFault rfl
  | deviceReset =>
    rw [execDeviceReset_next he]
    change (Machine.completeReset s).eu.Sound HostConfig.default false
    rw [completeReset_eu]
    exact sound_reset _ _
  | markEnd =>
    obtain ⟨-, -, rfl⟩ := execMarkEnd_next he
    exact choose (s := (s.setElapsed 64).setLine .idle) h
  | censusStart =>
    obtain ⟨-, -, rfl⟩ := execCensusStart_next he
    have hmoved : ∀ moment, EventsSound (s.setElapsed moment) := fun _ => h
    have hsettled := (hmoved (s.sc.params.frameLength - 168)).settleDue
    exact haltTaken (hsettled.of_eq rfl rfl)
  | frameEnd =>
    obtain ⟨-, -, ⟨-, rfl⟩ | ⟨-, rfl⟩⟩ := execFrameEnd_next he
    · exact (beginFrame (s := s.setElapsed s.sc.params.frameLength) h _).raise .frameTick
    · exact raise (s := { s with sc := _, fs := _, le := _ }) h .segmentChanged
  | censusSlotEnd i v =>
    obtain ⟨-, -, moment, rfl⟩ := execCensusSlotEnd_next he
    exact applyCensus (s := { s.setElapsed moment with le := _ }) h _ i
  | suspendMarkEnd =>
    obtain ⟨-, -, rfl⟩ := execSuspendMarkEnd_next he
    exact h
  | resetSignallingEnd =>
    obtain ⟨-, -, rfl⟩ := execResetSignallingEnd_next he
    exact h.openAfterSignalling _
  | wakeSignallingEnd =>
    obtain ⟨-, -, rfl⟩ := execWakeSignallingEnd_next he
    exact h.openAfterSignalling _
  | wakePattern levels =>
    cases he
    exact foldl_keeps Machine.watchBit (fun _ level hu => hu.watchBit level) levels s h
  | requestEnd =>
    obtain ⟨_, -, -, rfl⟩ := execRequestEnd_next he
    exact h
  | storeDataEnd =>
    obtain ⟨_, _, -, -, rfl⟩ := execStoreDataEnd_next he
    exact h
  | answerBegins d =>
    obtain rfl | ⟨_, _, -, -, rfl⟩ := execAnswerBegins_next he
    · exact h
    · exact h
  | dataReceived levels =>
    obtain ⟨_, _, _, _, _, -, -, rfl⟩ := execDataReceived_next he
    exact h
  | transactionEnd levels =>
    obtain ⟨_, _, _, -, -, -, rfl⟩ := execTransactionEnd_next he
    exact h.endTxn _ _ _
  | busGrant =>
    obtain ⟨-, rfl⟩ := execBusGrant_next he
    exact h
  | burstCompleted w =>
    refine onAnswer (show execBurstCompleted w s = _ from he) fun j u hj => ?_
    cases hj
    exact h.answerCompleted w j u
  | burstRetry =>
    refine onAnswer (show execBurstRetry s = _ from he) fun j u hj => ?_
    cases hj
    exact h.answerRetry j u
  | burstCutShort k w =>
    refine onAnswer (show execBurstCutShort k w s = _ from he) fun j u hj => ?_
    split at hj <;> cases hj
    exact (h.countMoved j _ w).nextBurst
  | burstError =>
    refine onAnswer (show execBurstError s = _ from he) fun j u hj => ?_
    obtain rfl := Host.Outcome.next.inj hj
    exact h.faultJob j u .busError
  | releaseIntervalEnd l => exact h.releaseIntervalEnd he
  | resetPinReleased =>
    rw [execResetPinReleased_next he]
    exact h

theorem tick {s : State} (h : EventsSound s) : EventsSound (tick s) := by
  unfold Machine.tick
  split_ifs <;> exact h

theorem step {s t : State} (h : EventsSound s) (ht : step s = .next t) : EventsSound t := by
  unfold Machine.step at ht
  split at ht
  · cases ht
    exact h.tick
  · next c rest _ => exact exec (s := { s with pending := rest }) h ht

end EventsSound

/-- Settles O55: `EventsSound` is the three invariants together, and every step keeps it. -/
theorem eventInvariantKept : Obligations.EventInvariantKept := by
  unfold Obligations.EventInvariantKept
  intro s t h ht
  exact (eventsSound_iff t).mp (((eventsSound_iff s).mpr h).step ht)

end Sys2Proof.Machine
end

section
/-! PROOF. An occurrence is taken, an acknowledgment and the ends of the release intervals, and the writes of the window's
registers (R165 to R169, R171 to R173, R175 to R177, R183, R184, R186). -/

namespace Sys2Proof.Machine

/-! ### One line at a re-evaluation and at an acknowledgment (R175 to R177) -/

theorem evaluate_of_ne_interval {i : IrqState} (h : i ≠ .interval) (due : Bool) :
    i.evaluate due = if due then .asserted else .released := by
  cases i with
  | interval => exact absurd rfl h
  | released => rfl
  | asserted => rfl

/-- Both lines re-evaluated with no release interval: a line in one stays there (R177). -/
theorem evaluateLines_settles (e : EventUnit) (cfg : HostConfig) (l : IntLine) :
    (e.line l = .interval → (e.evaluateLines cfg).line l = .interval) ∧
    (e.line l ≠ .interval → (e.evaluateLines cfg).line l =
      if (e.evaluateLines cfg).lineDue cfg l then .asserted else .released) := by
  rw [line_evaluateLines, lineDue_evaluateLines]
  exact ⟨fun hl => by rw [hl]; rfl, fun hl => evaluate_of_ne_interval hl _⟩

/-! ### An occurrence (R166 to R169, R171) -/

/-- An occurrence of the cause is halting (R164, R166). -/
theorem halting_iff (e : EventUnit) (c : Cause) : e.halting c = true ↔ c = .moverFault ∨
    (c ∈ [Cause.stationDetached, .stationLost, .addressClash, .pointHalted, .periodicMiss] ∧
      e.haltEnable.getLsbD c.num = true) := by
  unfold EventUnit.halting inSet
  cases c <;> simp [Cause.haltClass]

theorem effective_iff (e : EventUnit) (c : Cause) :
    e.effective c = true ↔ e.reportEnable.getLsbD c.num = true ∨ e.halting c = true := Bool.or_eq_true_iff ..

theorem take_of_not_effective {e : EventUnit} {c : Cause} (h : ¬ e.effective c = true) (cfg : HostConfig) :
    e.take cfg c = { e with quiet := e.quiet ||| c.bit } := if_neg h

/-- An effective occurrence starts a presentation or gathers, and a halting one leaves a halt request (R168, R169, R171). -/
theorem take_of_effective {e : EventUnit} {c : Cause} (h : e.effective c = true) (cfg : HostConfig) :
    e.take cfg c = { e.present cfg c with haltRequest := (e.take cfg c).haltRequest } := by
  unfold EventUnit.take
  rw [if_pos h]
  dsimp only
  split <;> rfl

theorem take_haltRequest_iff (e : EventUnit) (cfg : HostConfig) (c : Cause) :
    (e.take cfg c).haltRequest = true ↔ e.haltRequest = true ∨ e.halting c = true := by
  cases hc : e.halting c with
  | false => simp [take_haltRequest_of_not e cfg c hc]
  | true => simp [take_haltRequest_of_halting e cfg c hc]

/-- With one cause presented, the line it is routed to is due where its enable is on (R165, R175). -/
theorem lineDue_bit (e : EventUnit) (cfg : HostConfig) (c : Cause) (n : BitVec 8) (l : IntLine) :
    { e with presented := c.bit, number := n }.lineDue cfg l =
      (cfg.lineEnable l && decide (e.route.getLsbD c.num = decide (l = .alarm))) := by
  have hnum : c.num < 15 := by cases c <;> decide
  have hzero : BitVec.twoPow 15 c.num ≠ 0#15 := c.bit_ne_zero
  unfold EventUnit.lineDue EventUnit.presentedOn Cause.bit
  rw [Bool.and_comm]
  cases l <;> simp [BitVec.twoPow_and, hnum, hzero]

/-- Settles O40: an occurrence that is not effective is quiet (`take_of_not_effective`), and an effective one is presented,
with both lines re-evaluated, or gathered (`take_of_effective`). -/
theorem occurrencesArePresentedGatheredOrQuiet : Obligations.OccurrencesArePresentedGatheredOrQuiet := by
  unfold Obligations.OccurrencesArePresentedGatheredOrQuiet
  intro c cfg e halting effective t
  have hhalting : e.halting c = true ↔ halting := halting_iff e c
  have heffective : e.effective c = true ↔ effective := (effective_iff e c).trans (or_congr_right hhalting)
  refine ⟨(take_haltRequest_iff e cfg c).trans (or_congr_right hhalting),
    fun hq => take_of_not_effective (mt heffective.mp hq) cfg, fun he hempty => ?_, fun he hset => ?_⟩
  · have ht : t = { ({ e with presented := c.bit, number := e.number + 1 } : EventUnit).evaluateLines cfg with
        haltRequest := t.haltRequest } := by
      have hpresent : e.present cfg c = _ := if_pos hempty
      rw [← hpresent]
      exact take_of_effective (heffective.mpr he) cfg
    refine ⟨?_, fun l => ?_⟩
    · rw [ht]
      rfl
    · have hlines := evaluateLines_settles { e with presented := c.bit, number := e.number + 1 } cfg l
      rw [lineDue_evaluateLines, lineDue_bit] at hlines
      rw [ht]
      cases l <;> exact hlines
  · have hpresent : e.present cfg c = _ := if_neg hset
    exact (take_of_effective (heffective.mpr he) cfg).trans (by rw [hpresent]; rfl)

/-! ### EVENT ACK and the end of a release interval (R172, R173, R176) -/

theorem ackValid_iff (e : EventUnit) (w : Word) :
    e.ackValid (w.setWidth 8) = true ↔ e.presented ≠ 0 ∧ w.toNat % 256 = e.number.toNat := by
  unfold EventUnit.ackValid
  rw [Bool.and_eq_true, decide_eq_true_iff, decide_eq_true_iff, ← BitVec.toNat_inj, BitVec.toNat_setWidth]

/-- The gathered set, empty or not, becomes the presented set (R172). -/
theorem acknowledge_eq (e : EventUnit) (cfg : HostConfig) : e.acknowledge cfg = { e with
    presented := e.gathered, gathered := 0
    number := if e.gathered = 0 then e.number else e.number + 1
    attn := (e.acknowledge cfg).attn, alarm := (e.acknowledge cfg).alarm } := by
  unfold EventUnit.acknowledge
  split
  · next h =>
    rw [h]
    unfold EventUnit.redriveLines
    dsimp only
  · rfl

theorem line_acknowledge (e : EventUnit) (cfg : HostConfig) (l : IntLine) :
    (e.acknowledge cfg).line l = (e.line l).acknowledge ((e.acknowledge cfg).lineDue cfg l) := by
  unfold EventUnit.acknowledge
  rw [line_redriveLines, lineDue_redriveLines]
  split <;> cases l <;> rfl

/-- Settles O32: the sets move as `acknowledge_eq` says and each line as the table of R176 (`line_acknowledge`); a release
interval ends by `execReleaseIntervalEnd_eq`. -/
theorem eventAckMovesTheGatheredSetIn : Obligations.EventAckMovesTheGatheredSetIn := by
  unfold Obligations.EventAckMovesTheGatheredSetIn
  intro w s valid
  have hvalid : s.eu.ackValid (w.setWidth 8) = true ↔ valid := ackValid_iff s.eu w
  have hexec : deaf s = false → exec (.eventAck w) s = .next (acknowledge w s) := windowWrite_eq s (acknowledge w)
  refine ⟨fun hd hv => ?_, fun hd hv => ?_, fun hl => execReleaseIntervalEnd_eq hl,
    fun hl => execReleaseIntervalEnd_eq hl⟩
  · have hack : acknowledge w s = { s with eu := s.eu.acknowledge s.hw.config } := if_pos (hvalid.mpr hv)
    refine ⟨_, (hexec hd).trans (congrArg _ hack), ?_, fun l => ?_⟩
    · exact congrArg (fun e => { s with eu := e }) (acknowledge_eq s.eu s.hw.config)
    · dsimp only
      rw [line_acknowledge]
      exact ⟨fun hl hdue => by rw [hl, hdue]; rfl, fun hl hdue => by rw [hl, hdue]; rfl,
        fun hl hdue => by rw [hl, hdue]; rfl, fun hl hdue => by rw [hl, hdue]; rfl, fun hl => by rw [hl]; rfl⟩
  · exact (hexec hd).trans (congrArg _ (if_neg (mt hvalid.mp hv)))

/-! ### The registers of the window (R165, R167, R177, R183, R184, R186) -/

/-- HOST CONFIG reads back the items written; its other bits read 0 (R186). -/
theorem hostConfig_word_ofWord (w : Word) : (HostConfig.ofWord w).word = w &&& 0x01033F03#32 := by
  have hmask : (place (2 ^ 2 - 1) 0 ||| place (2 ^ 6 - 1) 8 ||| place (2 ^ 1 - 1) 16 ||| place (2 ^ 1 - 1) 17 |||
      place (2 ^ 1 - 1) 24 : Word) = 0x01033F03#32 := by decide
  have hfield : ∀ lo len, (w.extractLsb' lo len).toNat = field w lo len := fun lo len => by
    rw [BitVec.extractLsb'_toNat, Nat.shiftRight_eq_div_pow]
    rfl
  unfold HostConfig.word HostConfig.ofWord
  dsimp only
  rw [hfield, hfield, placeBit_bitAt, placeBit_bitAt, placeBit_bitAt, place_field, place_field, place_field, place_field,
    place_field, ← BitVec.and_or_distrib_left, ← BitVec.and_or_distrib_left, ← BitVec.and_or_distrib_left,
    ← BitVec.and_or_distrib_left, hmask]

theorem writeHostConfig_hw (w : Word) (s : State) :
    (writeHostConfig w s).hw = { s.hw with config := HostConfig.ofWord w } := by
  unfold writeHostConfig
  dsimp only
  split <;> rfl

/-- The report enables are those written, and that of MOVER_FAULT (R165). -/
theorem getLsbD_reportWritten (w : Word) {i : Nat} (hi : i < 15) :
    ((w.setWidth 15 &&& reportWritable) ||| reportFixed).getLsbD i = (decide (i = 13) || w.getLsbD i) := by
  have hmasks : ∀ i < 15, reportFixed.getLsbD i = decide (i = 13) ∧ reportWritable.getLsbD i = !decide (i = 13) := by
    decide
  obtain ⟨hfixed, hwritable⟩ := hmasks i hi
  rw [BitVec.getLsbD_or, BitVec.getLsbD_and, BitVec.getLsbD_setWidth, hfixed, hwritable, decide_eq_true hi]
  cases decide (i = 13) <;> simp

/-- The halt enables are those written of the five configurable causes, and that of MOVER_FAULT (R165). -/
theorem getLsbD_haltWritten (w : Word) {i : Nat} (hi : i < 15) :
    ((w.setWidth 15 &&& haltWritable) ||| haltFixed).getLsbD i =
      (decide (i = 13) || (decide (i ∈ [3, 4, 6, 8, 9]) && w.getLsbD i)) := by
  have hmasks : ∀ i < 15, haltFixed.getLsbD i = decide (i = 13) ∧
      haltWritable.getLsbD i = decide (i ∈ [3, 4, 6, 8, 9]) := by decide
  obtain ⟨hfixed, hwritable⟩ := hmasks i hi
  rw [BitVec.getLsbD_or, BitVec.getLsbD_and, BitVec.getLsbD_setWidth, hfixed, hwritable, decide_eq_true hi, Bool.true_and,
    Bool.or_comm, Bool.and_comm (w.getLsbD i)]

theorem getLsbD_quietCleared (q : BitVec 15) (w : Word) {i : Nat} (hi : i < 15) :
    (q &&& ~~~ (w.setWidth 15)).getLsbD i = (q.getLsbD i && !w.getLsbD i) := by
  rw [BitVec.getLsbD_and, BitVec.getLsbD_not, BitVec.getLsbD_setWidth, decide_eq_true hi, Bool.true_and, Bool.true_and]

section

variable {s : State} (hd : deaf s = false) (w : Word)
include hd

theorem exec_eventQuietWrite : exec (.eventQuietWrite w) s =
    .next { s with eu := { s.eu with quiet := s.eu.quiet &&& ~~~ (w.setWidth 15) } } :=
  show execEventQuietWrite w s = _ from windowWrite_eq s _ hd

theorem exec_accessStatusWrite : exec (.accessStatusWrite w) s =
    .next { s with hw := { s.hw with access := s.hw.access.clearBits w } } :=
  show execAccessStatusWrite w s = _ from windowWrite_eq s _ hd

theorem exec_hostConfigWrite : exec (.hostConfigWrite w) s = .next (writeHostConfig w s) :=
  show execHostConfigWrite w s = _ from windowWrite_eq s _ hd

theorem exec_reportEnableWrite : exec (.reportEnableWrite w) s =
    .next { s with eu := { s.eu with reportEnable := (w.setWidth 15 &&& reportWritable) ||| reportFixed } } :=
  show execReportEnableWrite w s = _ from windowWrite_eq s _ hd

theorem exec_haltEnableWrite : exec (.haltEnableWrite w) s =
    .next { s with eu := { s.eu with haltEnable := (w.setWidth 15 &&& haltWritable) ||| haltFixed } } :=
  show execHaltEnableWrite w s = _ from windowWrite_eq s _ hd

theorem exec_routeWrite : exec (.routeWrite w) s =
    .next { s with eu := { s.eu with route := w.setWidth 15 }.evaluateLines s.hw.config } :=
  show execRouteWrite w s = _ from windowWrite_eq s _ hd

/-- The window goes on answering after a write to HOST CONFIG, which reads back as written (R186). -/
theorem windowRead_writeHostConfig :
    windowRead (writeHostConfig w s) 0x04#7 0xF#4 = some (w &&& 0x01033F03#32) := by
  have hhw := writeHostConfig_hw w s
  obtain ⟨hpin, hreset⟩ := Bool.or_eq_false_iff.mp hd
  refine windowRead_register (by rw [hhw]; exact hpin) (by rw [hhw]; exact hreset) rfl ?_
  change (writeHostConfig w s).hw.config.word = _
  rw [hhw]
  exact hostConfig_word_ofWord w

end

theorem writeHostConfig_eq (w : Word) (s : State) : writeHostConfig w s = { s with
    hw := { s.hw with config := (writeHostConfig w s).hw.config }
    eu := { s.eu with attn := (writeHostConfig w s).eu.attn, alarm := (writeHostConfig w s).eu.alarm } } := by
  unfold writeHostConfig
  dsimp only
  split <;> rfl

/-- With both line enables as they were, a write to HOST CONFIG leaves the lines alone; otherwise both are re-evaluated
under the new ones (R177, R186). -/
theorem writeHostConfig_eu (w : Word) (s : State) : (writeHostConfig w s).eu =
    if (HostConfig.ofWord w).attnEnable = s.hw.config.attnEnable ∧
      (HostConfig.ofWord w).alarmEnable = s.hw.config.alarmEnable then s.eu
    else s.eu.evaluateLines (HostConfig.ofWord w) := by
  unfold writeHostConfig
  dsimp only
  split <;> rfl

/-- Settles O35: each write leaves what its own definition names; HOST CONFIG reads back by `hostConfig_word_ofWord`, the
enables hold `getLsbD_reportWritten` and `getLsbD_haltWritten`, and the lines settle by `evaluateLines_settles`. -/
theorem configurationWritesReplaceTheirFields : Obligations.ConfigurationWritesReplaceTheirFields := by
  unfold Obligations.ConfigurationWritesReplaceTheirFields
  intro w s hd settled
  refine ⟨⟨_, exec_eventQuietWrite hd w, rfl, fun i hi => getLsbD_quietCleared s.eu.quiet w hi⟩,
    ⟨_, exec_accessStatusWrite hd w, rfl, rfl, rfl, rfl, rfl, rfl⟩,
    ⟨_, exec_hostConfigWrite hd w, writeHostConfig_eq w s, windowRead_writeHostConfig hd w, ?_⟩,
    ⟨_, exec_reportEnableWrite hd w, rfl, fun i hi => getLsbD_reportWritten w hi⟩,
    ⟨_, exec_haltEnableWrite hd w, rfl, fun i hi => getLsbD_haltWritten w hi⟩,
    ⟨_, exec_routeWrite hd w, rfl, fun i hi => ?_,
      fun l => evaluateLines_settles { s.eu with route := w.setWidth 15 } s.hw.config l⟩⟩
  · dsimp only [settled]
    rw [writeHostConfig_hw, writeHostConfig_eu]
    refine ⟨fun hattn halarm => if_pos ⟨hattn, halarm⟩, fun hchanged => ?_⟩
    rw [if_neg (not_and_or.mpr hchanged)]
    exact evaluateLines_settles s.eu (HostConfig.ofWord w)
  · exact (BitVec.getLsbD_setWidth ..).trans (by rw [decide_eq_true hi, Bool.true_and])

end Sys2Proof.Machine
end

section
/-! PROOF. The slave write cycles and the rows they are, what a window that takes no writes makes of them, the parameter
words, the access faults and the RESET pin (R181, R183, R184, R187, R188, R195, R197). -/

namespace Sys2Proof.Machine

/-! ### Which row a slave write cycle is (R181, R188, Tables 9-1 and 9-3) -/

theorem isWordAccess_of_word {o : BitVec 7} (h : o.toNat % 4 = 0) : isWordAccess o 0xF#4 = true := by
  unfold isWordAccess
  rw [h]
  rfl

theorem isWordAccess_of_partial {o : BitVec 7} {e : BitVec 4} (h : o.toNat % 4 ≠ 0 ∨ e ≠ 0xF#4) :
    isWordAccess o e = false := by
  unfold isWordAccess
  rwa [Bool.and_eq_false_iff, beq_eq_false_iff_ne, beq_eq_false_iff_ne]

theorem slaveWrite_word {o : BitVec 7} (h : o.toNat % 4 = 0) (w : Word) : slaveWrite o 0xF#4 w = wordWrite o w :=
  if_pos (isWordAccess_of_word h)

theorem slaveWrite_partial {o : BitVec 7} {e : BitVec 4} (h : isWordAccess o e = false) (w : Word) :
    slaveWrite o e w = .undefinedOffset true o e := if_neg (ne_true_of_eq_false h)

theorem slaveWrite_command (w : Word) : slaveWrite 0x08#7 0xF#4 w = commandOfCode (w.setWidth 8) :=
  slaveWrite_word rfl w

theorem mem_commandCodes_of_toNat {code : BitVec 8} {n : Nat} (h : code.toNat = n)
    (hn : BitVec.ofNat 8 n ∈ commandCodes) : code ∈ commandCodes := by
  rwa [← h, BitVec.ofNat_toNat, BitVec.setWidth_eq] at hn

/-- The 22 patterns of `commandOfCode` are codes of Table 9-3, so any other code is an unknown command (R188). -/
theorem commandOfCode_of_notMem {code : BitVec 8} (hc : code ∉ commandCodes) :
    commandOfCode code = .unknownCommand code := by
  unfold commandOfCode
  split
  case h_23 => rfl
  all_goals
    next h => exact absurd (mem_commandCodes_of_toNat h (by decide)) hc

/-- Settles O4: the cycle is a word access or not, and each row of the two tables is a pattern of `wordWrite` or of
`commandOfCode`; the codes outside Table 9-3 are those of `commandOfCode_of_notMem`. -/
theorem slaveWritesNameTheirCommand : Obligations.SlaveWritesNameTheirCommand := by
  unfold Obligations.SlaveWritesNameTheirCommand
  refine ⟨fun o e w h => slaveWrite_partial (isWordAccess_of_partial h) w, fun o f w hrow => ?_, fun w => ⟨?_, ?_⟩⟩
  · obtain ⟨hword, hwrite⟩ : o.toNat % 4 = 0 ∧ wordWrite o w = f w := by fin_cases hrow <;> exact ⟨rfl, rfl⟩
    exact (slaveWrite_word hword w).trans hwrite
  · intro code c hrow hcode
    rw [slaveWrite_command, hcode]
    fin_cases hrow <;> rfl
  · exact fun hc => (slaveWrite_command w).trans (commandOfCode_of_notMem hc)

/-! ### The rows that check their operands or their register (R184, R188) -/

theorem exec_unknownCommand {code : BitVec 8} (hc : code ∉ commandCodes) (s : State) :
    exec (.unknownCommand code) s = command code (refuse .unknownCommand) s :=
  if_neg (mt List.contains_iff_mem.mp hc)

theorem exec_undefinedOffset {o : BitVec 7} {e : BitVec 4} (h : isWordAccess o e = false) (isWrite : Bool) (s : State) :
    exec (.undefinedOffset isWrite o e) s =
      windowWrite s fun s => raise .accessFault (setAccess (fun a => { a with undefinedOffset := true }) s) :=
  if_neg (ne_true_of_eq_false h)

theorem exec_readOnlyWrite (r : ReadOnlyReg) (w : Word) (s : State) : exec (.readOnlyWrite r w) s =
    windowWrite s fun s => raise .accessFault (setAccess (fun a => { a with readOnlyWrite := true }) s) := by rfl

/-! ### A window that takes no writes (R195, R197) -/

section

variable {s : State} (h : deaf s = true)
include h

/-- A code of Table 9-3 names a command, any other is unknown; every such meaning is a `windowWrite`, of which the deaf
branch is taken. -/
theorem exec_commandOfCode_deaf (code : BitVec 8) : exec (commandOfCode code) s = .next s := by
  by_cases hc : code ∈ commandCodes
  · fin_cases hc <;> exact if_pos h
  · rw [commandOfCode_of_notMem hc]
    exact (exec_unknownCommand hc s).trans (windowWrite_deaf s _ h)

/-- Every register but COMMAND has a row whose meaning is a `windowWrite`, of which the deaf branch is taken. -/
theorem exec_wordWrite_deaf (o : BitVec 7) (w : Word) : exec (wordWrite o w) s = .next s := by
  unfold wordWrite
  split
  case h_3 => exact exec_commandOfCode_deaf h _
  all_goals exact if_pos h

end

/-- Settles O39: a deaf window ignores the write at every register (`exec_wordWrite_deaf`) and the cycle that is no word
access (`exec_undefinedOffset`). -/
theorem windowWritesAreIgnoredWhenDeaf : Obligations.WindowWritesAreIgnoredWhenDeaf := by
  unfold Obligations.WindowWritesAreIgnoredWhenDeaf
  intro o e w s hwhy
  have hd : deaf s = true := (Bool.or_eq_true _ _).mpr hwhy.symm
  unfold slaveWrite
  split
  · exact exec_wordWrite_deaf hd o w
  · next hpart => exact (exec_undefinedOffset (eq_false_of_ne_true hpart) true s).trans (windowWrite_deaf s _ hd)

/-! ### Parameter words and unknown codes (R187, R188) -/

/-- The state after a write to a parameter word (R187). -/
def paramWritten (i : Fin 4) (w : Word) (s : State) : State :=
  { s with hw := { s.hw with params := s.hw.params.set i w } }

theorem exec_registerWrite {s : State} (hd : deaf s = false) (i : Fin 4) (w : Word) :
    exec (.registerWrite i w) s = .next (paramWritten i w s) := windowWrite_eq s (paramWritten i w) hd

theorem param_paramWritten (i j : Fin 4) (w : Word) (s : State) :
    (paramWritten i w s).param j = if i = j then w else s.param j := by
  simp [State.param, paramWritten, Vector.getElem_set, Fin.ext_iff]

/-- The parameter words are the four registers from offset 0Ch on (Table 9-1). -/
theorem registerWord_param (s : State) : ∀ i : Fin 4, registerWord s (BitVec.ofNat 7 (12 + 4 * i.val)) = s.param i
  | 0 => rfl
  | 1 => rfl
  | 2 => rfl
  | 3 => rfl

theorem paramOffset_word (i : Fin 4) : (BitVec.ofNat 7 (12 + 4 * i.val)).toNat % 4 = 0 := by
  rw [BitVec.toNat_ofNat]
  omega

/-- Settles O36: a parameter word is the element of the table that `param_paramWritten` reads, at the offset of
`registerWord_param`; an unknown code is a refused command. -/
theorem parameterWordsAndUnknownCodes : Obligations.ParameterWordsAndUnknownCodes := by
  unfold Obligations.ParameterWordsAndUnknownCodes
  intro s hd
  obtain ⟨hpin, hreset⟩ := Bool.or_eq_false_iff.mp hd
  refine ⟨fun i w => ⟨paramWritten i w s, exec_registerWrite hd i w, rfl, ?_, fun j hj => ?_⟩, fun code hwf => ?_⟩
  · refine windowRead_register (s := paramWritten i w s) hpin hreset (paramOffset_word i) ?_
    rw [registerWord_param, param_paramWritten, if_pos rfl]
  · rw [param_paramWritten, if_neg hj.symm]
  · have hc : code ∉ commandCodes := by simpa [Instr.wellFormed] using hwf
    calc exec (.unknownCommand code) s
        = command code (refuse .unknownCommand) s := exec_unknownCommand hc s
      _ = .next (writeResult code (Reply.refusal .unknownCommand) s) := command_eq code _ s hd
      _ = .next { s with hw := answeredWindow s.hw code 0x10 0 0 0 } := congrArg _ (writeResult_refusal code _ s)

/-! ### Access faults (R181, R184) -/

/-- Settles O37: a window that takes the cycle sets the flag of its row and raises the cause; it makes no use of the
register, the word, the direction or the byte enables. -/
theorem accessFaultsAreReported : Obligations.AccessFaultsAreReported := by
  unfold Obligations.AccessFaultsAreReported
  intro s hd
  refine ⟨fun r w => (exec_readOnlyWrite r w s).trans (windowWrite_eq s _ hd), fun isWrite o e h => ?_⟩
  exact (exec_undefinedOffset (isWordAccess_of_partial h) isWrite s).trans (windowWrite_eq s _ hd)

/-! ### The RESET pin (R197) -/

/-- The state after the RESET pin is asserted and released. -/
def deviceResetDone (s : State) : State := { completeReset s with hw := HostWindow.reset }

theorem exec_deviceReset (s : State) :
    exec .deviceReset s = .next { deviceResetDone s with hw := { HostWindow.reset with resetPin := true } } := rfl

theorem exec_resetPinReleased {s : State} (h : s.hw.resetPin = true) :
    exec .resetPinReleased s = .next { s with hw := { s.hw with resetPin := false } } := if_pos h

/-- Settles O38: the pin leaves each block as a completed reset does, and the window at its defaults. -/
theorem deviceResetResetsEveryBlock : Obligations.DeviceResetResetsEveryBlock := by
  unfold Obligations.DeviceResetResetsEveryBlock
  refine ⟨fun s => ?_, fun s => exec_resetPinReleased⟩
  exact ⟨_, deviceResetDone s, exec_deviceReset s, exec_resetPinReleased rfl, fun o e => if_pos rfl, rfl, rfl, rfl,
    completeReset_buffer s⟩

end Sys2Proof.Machine
end

section
/-! PROOF. The step of a waiting command is its execution on the state with the queue's rest. -/

namespace Sys2Proof.Machine

/-- Settles O1, by the branch of `step` that a queue with a front command takes. -/
theorem stepTakesFrontCommand : Obligations.StepTakesFrontCommand := by
  unfold Obligations.StepTakesFrontCommand
  intro c rest s hpending
  unfold step
  rw [hpending]

end Sys2Proof.Machine
end
